-- ==== Sys2Proof/Word.lean ====
section
/-! DEFINITION. The balanced-ternary word types: `Tern n` is a string of `n` trits, read as a balanced integer (R4, R7,
R32, R33). Only the type and its plainest arithmetic stand here. -/

namespace Sys2Proof

/-- The greatest balanced integer of `n` trits, (3^n - 1)/2 (R7, R33). -/
def half (n : Nat) : Nat := (3 ^ n - 1) / 2

/-- A string of `n` trits. Every string has one code: its balanced value plus `half n` (R7's index of a field), so the
type has exactly 3^n inhabitants and no value out of range exists. -/
structure Tern (n : Nat) where
  /-- The index of the string under R7. -/
  idx : Fin (3 ^ n)
deriving DecidableEq, Repr

/-- One trit (R2). -/
abbrev Trit := Tern 1
/-- One tryte: nine trits, one address (R2). -/
abbrev Tryte := Tern 9
/-- One word: twenty-seven trits (R2). -/
abbrev Word := Tern 27
/-- A 54-trit address, and a pair of words (R2). -/
abbrev Addr := Tern 54

namespace Tern

/-- The index of a field under R7: 0 .. 3^n - 1. -/
def index {n : Nat} (t : Tern n) : Nat := t.idx.val

/-- The balanced value of a trit string (R7). -/
def val {n : Nat} (t : Tern n) : Int := (t.idx.val : Int) - (half n : Int)

/-- The string whose index under R7 is `k`, taken modulo 3^n. -/
def ofIndex (n k : Nat) : Tern n := ⟨⟨k % 3 ^ n, Nat.mod_lt _ (Nat.pow_pos (by decide))⟩⟩

/-- The string whose balanced value is congruent to `x` modulo 3^n: `bal(wrap(x, n), n)` of R32. -/
def ofInt (n : Nat) (x : Int) : Tern n := ofIndex n ((x + (half n : Int)) % ((3 ^ n : Nat) : Int)).toNat

/-- The all-zero string. -/
def zero (n : Nat) : Tern n := ofInt n 0

/-- Trit `i` of a balanced integer, -1, 0 or +1 (R4). -/
def tritOf (x : Int) (i : Nat) : Int :=
  (((x + (half (i + 1) : Int)) / ((3 ^ i : Nat) : Int)) % 3) - 1

/-- Trit `i` of a string (R4). -/
def trit {n : Nat} (t : Tern n) (i : Nat) : Int := ((t.idx.val / 3 ^ i % 3 : Nat) : Int) - 1

/-- The field x[l+w-1 .. l] of a string, as a string of `w` trits (R4). -/
def field {n : Nat} (t : Tern n) (l w : Nat) : Tern w := ofIndex w (t.idx.val / 3 ^ l)

/-- The string with the field x[l+w-1 .. l] replaced. -/
def setField {n w : Nat} (t : Tern n) (l : Nat) (f : Tern w) : Tern n :=
  ofIndex n (t.idx.val - t.idx.val / 3 ^ l % 3 ^ w * 3 ^ l + f.idx.val * 3 ^ l)

/-- Every trit inverted: the value is negated (R32 `neg`). -/
def neg {n : Nat} (t : Tern n) : Tern n := ofIndex n (2 * half n - t.idx.val)

/-- Two strings side by side, `lo` in the low trits. -/
def append {m n : Nat} (lo : Tern m) (hi : Tern n) : Tern (m + n) := ofIndex (m + n) (lo.idx.val + hi.idx.val * 3 ^ m)

end Tern

/-- The zero word. -/
def wzero : Word := Tern.zero 27

end Sys2Proof
end

