-- ==== Sys2Proof/Machine/Cause.lean ====
section
/-! DEFINITION. The cause codes of R354 and their delivery kinds (R353). -/

namespace Sys2Proof.Machine

/-- The 96 causes of R354. -/
inductive Cause where
  /-- code 1 (R69) -/
  | zeroWord
  /-- code 2 (R67, R70) -/
  | illegalOpcode
  /-- code 3 (R60, R70) -/
  | reservedField
  /-- code 4 (R61, R63) -/
  | badRegister
  /-- code 5 (R198) -/
  | privileged
  /-- code 6 (R70) -/
  | wrongUnit
  /-- code 7 (R75) -/
  | stallUndersized
  /-- code 8 (R62, R39) -/
  | badPair
  /-- code 9 (R113) -/
  | breakpoint
  /-- code 10 (R207) -/
  | softwareTrap
  /-- code 11 (R90, R92) -/
  | splitOverflow
  /-- code 12 (R91–R93) -/
  | joinMismatch
  /-- code 13 (R162, R176) -/
  | pathReserved
  /-- code 14 (R164, R166) -/
  | noncanonicalAddress
  /-- code 15 (R163) -/
  | misaligned
  /-- code 16 (R170, R177) -/
  | pageNotPresent
  /-- code 17 (R360) -/
  | sideLogFull
  /-- code 18 (R172, R176) -/
  | writeProtect
  /-- code 19 (R176, R280) -/
  | noAccess
  /-- code 20 (R166, R179) -/
  | bufferBounds
  /-- code 21 (R174) -/
  | bufferPathForbidden
  /-- code 22 (R173) -/
  | peerAbsent
  /-- code 23 (R170, R186) -/
  | hostWindowError
  /-- code 24 (R165, R186) -/
  | peerDeviceUnreachable
  /-- code 25 (R168, R256) -/
  | poisonedData
  /-- code 26 (R372) -/
  | walkerFault
  /-- code 27 (R167, R369) -/
  | tableFormat
  /-- code 28 (R194) -/
  | atomicUnsupportedRegion
  /-- code 29 (R170) -/
  | tileBindingMismatch
  /-- code 30 (R374, R414) -/
  | keyUnavailable
  /-- code 31 (R35, R118) -/
  | intOverflow
  /-- code 32 (R45, R123) -/
  | divideByZero
  /-- code 33 (R45) -/
  | floatOverflow
  /-- code 34 (R45) -/
  | floatInvalid
  /-- code 35 (R51, R181) -/
  | convertRange
  /-- code 36 (R54, R280) -/
  | badByteCode
  /-- code 37 (R183) -/
  | conversionThreshold
  /-- code 38 (R178, R337) -/
  | badRecord
  /-- code 39 (R45) -/
  | nanConsumed
  /-- code 40 (R316) -/
  | accSaturated
  /-- code 41 (R328) -/
  | formatCode
  /-- code 42 (R127, R139) -/
  | shiftRange
  /-- code 43 (R256) -/
  | staleTicket
  /-- code 44 (R256) -/
  | ticketRedeemed
  /-- code 45 (R249) -/
  | ticketForeign
  /-- code 46 (R257, R258) -/
  | ticketShape
  /-- code 47 (R269) -/
  | staleLayoutHandle
  /-- code 48 (R263, R269) -/
  | layoutInvalid
  /-- code 49 (R269) -/
  | copyBounds
  /-- code 50 (R276–R278) -/
  | barrierUnderflow
  /-- code 51 (R298–R304) -/
  | solicitKeyInvalid
  /-- code 52 (R289, R301) -/
  | solicitLimit
  /-- code 53 (R300) -/
  | responderFault
  /-- code 54 (R335) -/
  | queueFull
  /-- code 55 (R314) -/
  | typePairIllegal
  /-- code 56 (R313) -/
  | tagMissing
  /-- code 57 (R321) -/
  | shapeIllegal
  /-- code 58 (R321) -/
  | arrayNotLoaded
  /-- code 59 (R328) -/
  | decompressError
  /-- code 60 (R269, R328) -/
  | smoothingZero
  /-- code 61 (R330) -/
  | cRegionOverlap
  /-- code 62 (R324) -/
  | microtileResumeMismatch
  /-- code 63 (R327) -/
  | sequencerContextLimit
  /-- code 64 (R321, R327) -/
  | matrixRankAbsent
  /-- code 65 (R314, R330) -/
  | accFormatMismatch
  /-- code 66 (R331) -/
  | moutRange
  /-- code 67 (R213, R216) -/
  | barrierTimeout
  /-- code 68 (R214–R216) -/
  | barrierMismatch
  /-- code 69 (R216) -/
  | xbarMemberLost
  /-- code 70 (R215) -/
  | rbarLevelIllegal
  /-- code 71 (R212, R300, R340) -/
  | waitTimeout
  /-- code 72 (R365) -/
  | deadlockDetected
  /-- code 73 (R365) -/
  | crewExitOutstanding
  /-- code 74 (R350) -/
  | gangAbort
  /-- code 75 (R349) -/
  | preemptSaveFailed
  /-- code 76 (R365) -/
  | timeSliceExhausted
  /-- code 77 (R111, R114) -/
  | roleIllegal
  /-- code 78 (R112, R208) -/
  | regionNesting
  /-- code 79 (R226) -/
  | haltRequest
  /-- code 80 (Observation: stops, trace, lanes and energy) -/
  | singleStep
  /-- code 81 (same) -/
  | watchpoint
  /-- code 82 (same) -/
  | traceTrigger
  /-- code 83 (same) -/
  | traceBufferFull
  /-- code 84 (same) -/
  | dumpNestedFault
  /-- code 85 (same) -/
  | lensProgramInvalid
  /-- code 86 (same) -/
  | pcBreak
  /-- code 87 (same) -/
  | sampleOverrun
  /-- code 88 (same) -/
  | debugAccessDenied
  /-- code 89 (R357) -/
  | icacheUncorrectable
  /-- code 90 (R357) -/
  | regfileUncorrectable
  /-- code 91 (R357) -/
  | bufferUncorrectable
  /-- code 92 (R357) -/
  | l2Uncorrectable
  /-- code 93 (Host, peers and the binary shell) -/
  | linkDown
  /-- code 94 (R168) -/
  | hbmUncorrectable
  /-- code 95 (Bring-up, power and cooling) -/
  | thermalEmergency
  /-- code 96 (R351) -/
  | schedulerFailover
deriving DecidableEq, Repr

/-- The causes in the order of their codes (R354). -/
def Cause.all : List Cause :=
  [.zeroWord, .illegalOpcode, .reservedField, .badRegister, .privileged, .wrongUnit, .stallUndersized, .badPair, .breakpoint, .softwareTrap, .splitOverflow, .joinMismatch] ++
  [.pathReserved, .noncanonicalAddress, .misaligned, .pageNotPresent, .sideLogFull, .writeProtect, .noAccess, .bufferBounds, .bufferPathForbidden, .peerAbsent, .hostWindowError, .peerDeviceUnreachable] ++
  [.poisonedData, .walkerFault, .tableFormat, .atomicUnsupportedRegion, .tileBindingMismatch, .keyUnavailable, .intOverflow, .divideByZero, .floatOverflow, .floatInvalid, .convertRange, .badByteCode] ++
  [.conversionThreshold, .badRecord, .nanConsumed, .accSaturated, .formatCode, .shiftRange, .staleTicket, .ticketRedeemed, .ticketForeign, .ticketShape, .staleLayoutHandle, .layoutInvalid] ++
  [.copyBounds, .barrierUnderflow, .solicitKeyInvalid, .solicitLimit, .responderFault, .queueFull, .typePairIllegal, .tagMissing, .shapeIllegal, .arrayNotLoaded, .decompressError, .smoothingZero] ++
  [.cRegionOverlap, .microtileResumeMismatch, .sequencerContextLimit, .matrixRankAbsent, .accFormatMismatch, .moutRange, .barrierTimeout, .barrierMismatch, .xbarMemberLost, .rbarLevelIllegal, .waitTimeout, .deadlockDetected] ++
  [.crewExitOutstanding, .gangAbort, .preemptSaveFailed, .timeSliceExhausted, .roleIllegal, .regionNesting, .haltRequest, .singleStep, .watchpoint, .traceTrigger, .traceBufferFull, .dumpNestedFault] ++
  [.lensProgramInvalid, .pcBreak, .sampleOverrun, .debugAccessDenied, .icacheUncorrectable, .regfileUncorrectable, .bufferUncorrectable, .l2Uncorrectable, .linkDown, .hbmUncorrectable, .thermalEmergency, .schedulerFailover]

/-- The cause code (R354). -/
def Cause.code : Cause → Nat
  | .zeroWord => 1
  | .illegalOpcode => 2
  | .reservedField => 3
  | .badRegister => 4
  | .privileged => 5
  | .wrongUnit => 6
  | .stallUndersized => 7
  | .badPair => 8
  | .breakpoint => 9
  | .softwareTrap => 10
  | .splitOverflow => 11
  | .joinMismatch => 12
  | .pathReserved => 13
  | .noncanonicalAddress => 14
  | .misaligned => 15
  | .pageNotPresent => 16
  | .sideLogFull => 17
  | .writeProtect => 18
  | .noAccess => 19
  | .bufferBounds => 20
  | .bufferPathForbidden => 21
  | .peerAbsent => 22
  | .hostWindowError => 23
  | .peerDeviceUnreachable => 24
  | .poisonedData => 25
  | .walkerFault => 26
  | .tableFormat => 27
  | .atomicUnsupportedRegion => 28
  | .tileBindingMismatch => 29
  | .keyUnavailable => 30
  | .intOverflow => 31
  | .divideByZero => 32
  | .floatOverflow => 33
  | .floatInvalid => 34
  | .convertRange => 35
  | .badByteCode => 36
  | .conversionThreshold => 37
  | .badRecord => 38
  | .nanConsumed => 39
  | .accSaturated => 40
  | .formatCode => 41
  | .shiftRange => 42
  | .staleTicket => 43
  | .ticketRedeemed => 44
  | .ticketForeign => 45
  | .ticketShape => 46
  | .staleLayoutHandle => 47
  | .layoutInvalid => 48
  | .copyBounds => 49
  | .barrierUnderflow => 50
  | .solicitKeyInvalid => 51
  | .solicitLimit => 52
  | .responderFault => 53
  | .queueFull => 54
  | .typePairIllegal => 55
  | .tagMissing => 56
  | .shapeIllegal => 57
  | .arrayNotLoaded => 58
  | .decompressError => 59
  | .smoothingZero => 60
  | .cRegionOverlap => 61
  | .microtileResumeMismatch => 62
  | .sequencerContextLimit => 63
  | .matrixRankAbsent => 64
  | .accFormatMismatch => 65
  | .moutRange => 66
  | .barrierTimeout => 67
  | .barrierMismatch => 68
  | .xbarMemberLost => 69
  | .rbarLevelIllegal => 70
  | .waitTimeout => 71
  | .deadlockDetected => 72
  | .crewExitOutstanding => 73
  | .gangAbort => 74
  | .preemptSaveFailed => 75
  | .timeSliceExhausted => 76
  | .roleIllegal => 77
  | .regionNesting => 78
  | .haltRequest => 79
  | .singleStep => 80
  | .watchpoint => 81
  | .traceTrigger => 82
  | .traceBufferFull => 83
  | .dumpNestedFault => 84
  | .lensProgramInvalid => 85
  | .pcBreak => 86
  | .sampleOverrun => 87
  | .debugAccessDenied => 88
  | .icacheUncorrectable => 89
  | .regfileUncorrectable => 90
  | .bufferUncorrectable => 91
  | .l2Uncorrectable => 92
  | .linkDown => 93
  | .hbmUncorrectable => 94
  | .thermalEmergency => 95
  | .schedulerFailover => 96

/-- The cause of a code 1 to 96 (R354); other numbers name none. -/
def Cause.ofCode (n : Nat) : Option Cause := if n = 0 then none else Cause.all[n - 1]?

/-- How a cause is delivered (R353). -/
inductive Delivery where
  | group | translation | debugger | machine | queue | report
deriving DecidableEq, Repr

/-- The delivery kind of a cause (R354). -/
def Cause.delivery : Cause → Delivery
  | .zeroWord => .group
  | .illegalOpcode => .group
  | .reservedField => .group
  | .badRegister => .group
  | .privileged => .group
  | .wrongUnit => .group
  | .stallUndersized => .group
  | .badPair => .group
  | .breakpoint => .debugger
  | .softwareTrap => .group
  | .splitOverflow => .group
  | .joinMismatch => .group
  | .pathReserved => .group
  | .noncanonicalAddress => .group
  | .misaligned => .group
  | .pageNotPresent => .translation
  | .sideLogFull => .group
  | .writeProtect => .group
  | .noAccess => .group
  | .bufferBounds => .group
  | .bufferPathForbidden => .group
  | .peerAbsent => .group
  | .hostWindowError => .group
  | .peerDeviceUnreachable => .group
  | .poisonedData => .group
  | .walkerFault => .group
  | .tableFormat => .group
  | .atomicUnsupportedRegion => .group
  | .tileBindingMismatch => .group
  | .keyUnavailable => .translation
  | .intOverflow => .group
  | .divideByZero => .group
  | .floatOverflow => .group
  | .floatInvalid => .group
  | .convertRange => .group
  | .badByteCode => .group
  | .conversionThreshold => .group
  | .badRecord => .group
  | .nanConsumed => .group
  | .accSaturated => .group
  | .formatCode => .group
  | .shiftRange => .group
  | .staleTicket => .group
  | .ticketRedeemed => .group
  | .ticketForeign => .group
  | .ticketShape => .group
  | .staleLayoutHandle => .group
  | .layoutInvalid => .group
  | .copyBounds => .group
  | .barrierUnderflow => .group
  | .solicitKeyInvalid => .group
  | .solicitLimit => .group
  | .responderFault => .group
  | .queueFull => .queue
  | .typePairIllegal => .group
  | .tagMissing => .group
  | .shapeIllegal => .group
  | .arrayNotLoaded => .group
  | .decompressError => .group
  | .smoothingZero => .group
  | .cRegionOverlap => .group
  | .microtileResumeMismatch => .group
  | .sequencerContextLimit => .group
  | .matrixRankAbsent => .group
  | .accFormatMismatch => .group
  | .moutRange => .group
  | .barrierTimeout => .group
  | .barrierMismatch => .group
  | .xbarMemberLost => .group
  | .rbarLevelIllegal => .group
  | .waitTimeout => .group
  | .deadlockDetected => .group
  | .crewExitOutstanding => .report
  | .gangAbort => .queue
  | .preemptSaveFailed => .report
  | .timeSliceExhausted => .report
  | .roleIllegal => .group
  | .regionNesting => .group
  | .haltRequest => .debugger
  | .singleStep => .debugger
  | .watchpoint => .debugger
  | .traceTrigger => .debugger
  | .traceBufferFull => .report
  | .dumpNestedFault => .report
  | .lensProgramInvalid => .report
  | .pcBreak => .debugger
  | .sampleOverrun => .report
  | .debugAccessDenied => .report
  | .icacheUncorrectable => .machine
  | .regfileUncorrectable => .machine
  | .bufferUncorrectable => .machine
  | .l2Uncorrectable => .report
  | .linkDown => .report
  | .hbmUncorrectable => .report
  | .thermalEmergency => .report
  | .schedulerFailover => .report

/-- The debug class of causes, codes 79 to 88 (R206, R292). -/
def Cause.isDebug (c : Cause) : Bool := 79 ≤ c.code && c.code ≤ 88

end Sys2Proof.Machine
end

