-- ==== Sys2Proof/Machine/Num.lean ====
section
/-! DEFINITION. Balanced-ternary arithmetic: the helpers of R32, the overflow modes of R35, element shapes (R115), and the
tritwise operations (R126 to R128). -/

namespace Sys2Proof.Machine

/-- Whether an integer fits in `n` trits (R33). -/
def fits (x : Int) (n : Nat) : Bool := decide (-(half n : Int) ≤ x) && decide (x ≤ (half n : Int))

/-- `sat(x, n)` of R32. -/
def sat (x : Int) (n : Nat) : Int :=
  if x < -(half n : Int) then -(half n : Int) else if (half n : Int) < x then (half n : Int) else x

/-- `wrap(x, n)` of R32. -/
def wrap (x : Int) (n : Nat) : Int := (x + (half n : Int)) % ((3 ^ n : Nat) : Int) - (half n : Int)

/-- `trunc(x, k)` of an integer for k ≥ 0 (R32): no tie can arise, because 3^k is odd. -/
def truncInt (x : Int) (k : Nat) : Int := (x + (half k : Int)) / ((3 ^ k : Nat) : Int)

/-- The natural number nearest to n/d, a tie going down (R32, R41). -/
def divNearNat (n d : Nat) : Nat := (2 * n + d - 1) / (2 * d)

/-- The integer nearest to n/d for d ≠ 0, a tie going to the smaller magnitude (`trunc` of R32, R123). -/
def divNear (n d : Int) : Int :=
  let q : Int := (divNearNat n.natAbs d.natAbs : Nat)
  if decide (n < 0) == decide (d < 0) then q else -q

/-- The sign of an integer, -1, 0 or +1. -/
def sgn (x : Int) : Int := if x < 0 then -1 else if x = 0 then 0 else 1

/-- The four sticky flags of FSTAT (R47). -/
structure Flags where
  invalid : Bool
  overflow : Bool
  flush : Bool
  inexact : Bool
deriving DecidableEq, Repr

/-- No flag. -/
def Flags.none : Flags := ⟨false, false, false, false⟩
/-- OVERFLOW alone. -/
def Flags.ovf : Flags := ⟨false, true, false, false⟩
/-- INVALID alone. -/
def Flags.inv : Flags := ⟨true, false, false, false⟩
/-- INEXACT alone. -/
def Flags.inx : Flags := ⟨false, false, false, true⟩
/-- The inclusive OR of two flag sets (R48). -/
def Flags.or (a b : Flags) : Flags :=
  ⟨a.invalid || b.invalid, a.overflow || b.overflow, a.flush || b.flush, a.inexact || b.inexact⟩

/-- The narrowing `ovf(x, n)` of R35 with the OVF trit `o`: wrap, saturate or trap INT_OVERFLOW. -/
def narrow (o : Int) (n : Nat) (x : Int) : Except Cause (Int × Flags) :=
  if fits x n then .ok (x, .none)
  else if o = 1 then .error .intOverflow
  else if o = -1 then .ok (wrap x n, .ovf)
  else .ok (sat x n, .ovf)

/-- The width n of an element in the shape of a SHAPE trit (R115). -/
def shapeBits (s : Int) : Nat := if s = -1 then 9 else if s = 1 then 3 else 27
/-- The number m of elements a word holds in the shape of a SHAPE trit (R115). -/
def shapeCount (s : Int) : Nat := if s = -1 then 3 else if s = 1 then 9 else 1

/-- `el(w, j, n)` of R115. -/
def el (w : Word) (j n : Nat) : Int := (w.field (n * j) n).val

/-- Element j of a word replaced (R115). -/
def setEl (w : Word) (j n : Nat) (x : Int) : Word := w.setField (n * j) (Tern.ofInt n x)

/-- The word whose elements of n trits, from element 0 upward, are the given values (R34). -/
def ofEls (n : Nat) : List Int → Word
  | [] => wzero
  | xs => Tern.ofIndex 27 (go xs 0 + (half 27 - half (n * xs.length)) )
where
  go : List Int → Nat → Nat
    | [], _ => 0
    | x :: xs, j => ((Tern.ofInt n x).index) * 3 ^ (n * j) + go xs (j + 1)

/-- The elements of a word in a shape of m elements of n trits (R115). -/
def els (n m : Nat) (w : Word) : List Int := (List.range m).map (fun j => el w j n)

/-- A tritwise operation on two words, trit by trit, with no carry (R126). -/
def tritwise (f : Int → Int → Int) (a b : Word) : Word :=
  ofEls 1 ((List.range 27).map (fun i => f (a.trit i) (b.trit i)))

/-- TADD's trit: the sum modulo 3 (R126). -/
def tadd1 (p q : Int) : Int := wrap (p + q) 1

/-- Rotation of an n-trit element by k mod n places toward the high end (R127). -/
def rotEl (x : Int) (n : Nat) (k : Int) : Int :=
  let i := (x + (half n : Int)).toNat
  let r := (k % (n : Int)).toNat
  ((i * 3 ^ r % 3 ^ n + i / 3 ^ (n - r) : Nat) : Int) - (half n : Int)

/-- The trits of an n-trit value, trit 0 first. -/
def tritsOf (x : Int) (n : Nat) : List Int := (List.range n).map (fun i => Tern.tritOf x i)

/-- TCNT: the number of nonzero trits (R128). -/
def tcnt (x : Int) (n : Nat) : Int := ((tritsOf x n).filter (· ≠ 0)).length
/-- TBAL: the sum of the trits (R128). -/
def tbal (x : Int) (n : Nat) : Int := (tritsOf x n).foldl (· + ·) 0
/-- LEAD: one more than the position of the most significant nonzero trit, 0 for zero (R128). -/
def lead (x : Int) (n : Nat) : Int :=
  (List.range n).foldl (fun r i => if Tern.tritOf x i ≠ 0 then (i : Int) + 1 else r) 0

end Sys2Proof.Machine
end

