-- ==== Sys2Proof/Machine/Float.lean ====
section
/-! DEFINITION. The float formats (R36 to R38), `fval`, `fpack` (R40) on exact values, and the classification of the
exceptional cases (R45). An exact value is held exactly: a rational times a power of three, or the root, power or logarithm
of one. -/

namespace Sys2Proof.Machine

/-- A float format: trits, fraction trits and exponent trits (R36). -/
structure Fmt where
  n : Nat
  f : Nat
  ew : Nat
deriving DecidableEq, Repr

/-- TF9 (R36). -/
def tf9 : Fmt := ⟨9, 5, 3⟩
/-- TF27 (R36). -/
def tf27 : Fmt := ⟨27, 20, 6⟩
/-- TF54 (R36). -/
def tf54 : Fmt := ⟨54, 45, 8⟩
/-- emax of a format (R36). -/
def Fmt.emax (F : Fmt) : Int := (half F.ew : Int)
/-- The format of a FMT trit (R64, R144). -/
def fmtOf (t : Int) : Fmt := if t = -1 then tf9 else if t = 1 then tf54 else tf27

/-- The value of a float code (R37): m * 3^k, an infinity, or a NaN. -/
inductive FVal where
  | fin (m : Int) (k : Int)
  | inf (negative : Bool)
  | nan
deriving DecidableEq, Repr

/-- The fields of a code (R36): lead trit, exponent and fraction. -/
def codeL (F : Fmt) (c : Int) : Int := Tern.tritOf c (F.n - 1)
/-- The fraction field (R36). -/
def codeF (F : Fmt) (c : Int) : Int := wrap c F.f
/-- The exponent field (R36). -/
def codeE (F : Fmt) (c : Int) : Int := wrap (truncInt c F.f) F.ew

/-- The code with given fields (R36). -/
def mkCode (F : Fmt) (l e f : Int) : Int :=
  l * ((3 ^ (F.n - 1) : Nat) : Int) + e * ((3 ^ F.f : Nat) : Int) + f

/-- `fval(c, fmt)` of R37, on the balanced value of the code. -/
def fval (F : Fmt) (c : Int) : FVal :=
  let l := codeL F c
  let e := codeE F c
  let f := codeF F c
  if l ≠ 0 then .fin (l * ((3 ^ F.f : Nat) : Int) + f) (e - (F.f : Int))
  else if e = 0 ∧ f = 0 then .fin 0 0
  else if e = F.emax ∧ f = 1 then .inf false
  else if e = F.emax ∧ f = -1 then .inf true
  else .nan

/-- The canonical NaN (R37). -/
def nanCode : Int := 1
/-- The code of an infinity (R37). -/
def infCode (F : Fmt) (negative : Bool) : Int := mkCode F 0 F.emax (if negative then -1 else 1)
/-- The code of the largest finite value of a sign (R38; the negative one keeps the exponent field, log 116). -/
def maxFinite (F : Fmt) (negative : Bool) : Int :=
  let m := (half F.f : Int)
  if negative then mkCode F (-1) F.emax (-m) else mkCode F 1 F.emax m

/-- An exact real value (R40). -/
inductive Exact where
  /-- num / den * 3^k -/
  | rat (num : Int) (den : Nat) (k : Int)
  /-- the square root of num / den * 3^k -/
  | root (num den : Nat) (k : Int)
  /-- 3^(num / den) -/
  | pow3 (num : Int) (den : Nat)
  /-- the base-3 logarithm of num / den * 3^k -/
  | log3 (num den : Nat) (k : Int)
deriving DecidableEq, Repr

/-- 3^k for a non-negative part of an integer exponent. -/
def pow3n (k : Int) : Nat := 3 ^ k.toNat

/-- Whether a * 3^k ≤ b for naturals. -/
def leScaled (a : Nat) (k : Int) (b : Nat) : Bool := a * pow3n k ≤ b * pow3n (-k)
/-- Whether a * 3^k = b for naturals. -/
def eqScaled (a : Nat) (k : Int) (b : Nat) : Bool := a * pow3n k == b * pow3n (-k)

/-- Remove the factors of three of a natural number, counting them; `fuel` bounds the count. -/
def strip3 : Nat → Nat → Nat × Nat
  | 0, a => (a, 0)
  | fuel + 1, a => if a % 3 == 0 && a != 0 then let (b, c) := strip3 fuel (a / 3); (b, c + 1) else (a, 0)

/-- The least integer in (lo, hi] at which a monotone test holds, given that it holds at hi. -/
def leastInt (p : Int → Bool) : Nat → Int → Int → Int
  | 0, _, hi => hi
  | fuel + 1, lo, hi =>
    if hi ≤ lo + 1 then hi
    else
      let mid := (lo + hi) / 2
      if p mid then leastInt p fuel lo mid else leastInt p fuel mid hi

/-- Trits and bits of the fixed-point logarithm below. -/
def logTrits : Nat := 250
/-- Bits of the fixed-point logarithm below. -/
def logBits : Nat := 512

/-- The trits of log3 x for x in [1, 3) in fixed point, by repeated cubing; rounded down, or up when `up`. -/
def logLoop (up : Bool) : Nat → Nat → Nat → Nat
  | 0, _, acc => acc
  | fuel + 1, x, acc =>
    let one := 2 ^ logBits
    let y := (x * x * x + (if up then one * one - 1 else 0)) / (one * one)
    let d := if y < 3 * one then 0 else if y < 9 * one then 1 else 2
    let z := (y + (if up then 3 ^ d - 1 else 0)) / 3 ^ d
    logLoop up fuel z (3 * acc + d)

/-- Integers L and U with L ≤ 3^logTrits * log3 (n / d) ≤ U, for n and d above zero. -/
def logBounds (n d : Nat) : Int × Int :=
  let r : Int := (Nat.log2 n + Nat.log2 d + 3 : Nat)
  -- the integral part: the least t with n / d < 3^(t+1)
  let t := leastInt (fun t => !leScaled d (t + 1) n) (Nat.log2 (2 * r.toNat + 2) + 2) (-r - 1) r
  let num := n * pow3n (-t) * 2 ^ logBits
  let den := d * pow3n t
  let base := t * ((3 ^ logTrits : Nat) : Int)
  (base + (logLoop false logTrits (num / den) 0 : Nat), base + (logLoop true logTrits ((num + den - 1) / den) 0 : Nat) + 1)

/-- The magnitude of a nonzero exact value, as the two comparisons that rounding needs: whether |x| ≤ c/2 * 3^k and whether
|x| = c/2 * 3^k, for x / 3^shift, with a bound on the exponent of x / 3^shift. -/
structure Mag where
  le : Nat → Int → Bool
  eq : Nat → Int → Bool
  shift : Int
  radius : Nat

/-- The magnitude of an exact value; the log of an integral power of three and a power with an integral exponent are
rationals and are seen so (R153). A comparison with a logarithm is decided by its fixed-point bounds, and by exact powers
where the bounds do not decide it. -/
def Exact.mag : Exact → Mag
  | .rat n d k =>
    { le := fun c j => leScaled (2 * n.natAbs) (-j) (c * d), eq := fun c j => eqScaled (2 * n.natAbs) (-j) (c * d),
      shift := k, radius := Nat.log2 n.natAbs + Nat.log2 d + 3 }
  | .root n d k =>
    let odd := k % 2
    let n' := n * pow3n odd
    { le := fun c j => leScaled (4 * n') (-2 * j) (c * c * d), eq := fun c j => eqScaled (4 * n') (-2 * j) (c * c * d),
      shift := (k - odd) / 2, radius := Nat.log2 n' + Nat.log2 d + 3 }
  | .pow3 n d =>
    let q := n / (d : Int)
    let r := (n % (d : Int)).toNat
    { le := fun c j =>
        -- 3^(r/d) ≤ c/2 * 3^j, that is r/d ≤ log3 (c/2) + j
        if c = 0 then false
        else
          let lu := logBounds c 2
          let unit : Int := ((3 ^ logTrits : Nat) : Int)
          let y : Int := (r : Int) * unit
          if y ≤ (lu.1 + j * unit) * (d : Int) then true
          else if (lu.2 + j * unit) * (d : Int) < y then false
          else leScaled (3 ^ r * 2 ^ d) (-(j * (d : Int))) (c ^ d),
      eq := fun c j => r == 0 && eqScaled 2 (-j) c, shift := q, radius := 3 }
  | .log3 n d k =>
    -- |log3 (n/d * 3^k)| = log3 (a / b) with a ≥ b
    let a := if leScaled d (-k) n then n * pow3n k else d * pow3n (-k)
    let b := if leScaled d (-k) n then d * pow3n (-k) else n * pow3n k
    let lu := logBounds a b
    { le := fun c j =>
        -- log3 (a/b) ≤ c/2 * 3^j
        let s := j + (logTrits : Int)
        if leScaled (2 * lu.2.toNat) (-s) c then true
        else if !leScaled (2 * lu.1.toNat) (-s) c then false
        else a ^ (2 * pow3n (-j)) ≤ b ^ (2 * pow3n (-j)) * 3 ^ (c * pow3n j),
      eq := fun _ _ => false, shift := 0, radius := 64 }

/-- Whether an exact value is negative. -/
def Exact.isNeg : Exact → Bool
  | .rat n _ _ => n < 0
  | .root _ _ _ => false
  | .pow3 _ _ => false
  | .log3 n d k => !leScaled d (-k) n

/-- Whether an exact value is zero. -/
def Exact.isZero : Exact → Bool
  | .rat n _ _ => n == 0
  | .root n _ _ => n == 0
  | .pow3 _ _ => false
  | .log3 n d k => eqScaled d (-k) n

/-- The exponent e of R40, 0.5 * 3^e < |x| ≤ 1.5 * 3^e, less the shift of the magnitude. -/
def Mag.expo (m : Mag) : Int :=
  leastInt (fun e => m.le 3 e) (Nat.log2 (2 * m.radius + 2) + 2) (-(m.radius : Int) - 1) ((m.radius : Int) + 1)

/-- |`trunc(x, k)`| for x with the given magnitude: the least n with |x| ≤ (n + 1/2) * 3^k, for a shifted k; at most `hi`. -/
def Mag.near (m : Mag) (k : Int) (hi : Nat) : Nat :=
  (leastInt (fun n => m.le (2 * n.toNat + 1) k) (Nat.log2 (hi + 1) + 2) (-1) (hi : Int)).toNat

/-- `ex(x)` of R316, the exponent of a nonzero exact value. -/
def Exact.expo (x : Exact) : Int := x.mag.expo + x.mag.shift

/-- What `fpack` does above emax (R40, R45). -/
inductive OvfMode where
  | toInf | saturate | trap
deriving DecidableEq, Repr

/-- The overflow mode of an OVF trit of a float instruction (R45). -/
def ovfMode (o : Int) : OvfMode := if o = -1 then .toInf else if o = 1 then .trap else .saturate

/-- `fpack(x, fmt, ovf)` of R40 for an exact real value: the code and its flags, or the trap FLOAT_OVERFLOW. -/
def fpack (F : Fmt) (o : OvfMode) (x : Exact) : Except Cause (Int × Flags) :=
  if x.isZero then .ok (0, .none)
  else
    let g := x.mag
    let e' := g.expo
    let e := e' + g.shift
    let k := e' - (F.f : Int)
    let m := g.near k (half (F.f + 1))
    let inexact := !g.eq (2 * m) k
    let s : Int := if x.isNeg then -1 else 1
    if F.emax < e then
      match o with
      | .trap => .error .floatOverflow
      | .saturate => .ok (maxFinite F x.isNeg, ⟨false, true, false, true⟩)
      | .toInf => .ok (infCode F x.isNeg, ⟨false, true, false, true⟩)
    else if e < -F.emax then .ok (0, ⟨false, false, true, true⟩)
    else .ok (mkCode F s e (s * ((m : Int) - ((3 ^ F.f : Nat) : Int))), ⟨false, false, false, inexact⟩)

/-- The cases of R45 that an operation can yield before `fpack`. -/
inductive FRes where
  /-- an exact real value, packed by `fpack` -/
  | exact (x : Exact)
  /-- an infinity with a defined result -/
  | inf (negative : Bool)
  /-- a NaN operand -/
  | nanOperand
  /-- no defined value from non-NaN operands -/
  | invalid
  /-- a nonzero finite dividend and a zero divisor, with the dividend's sign -/
  | divZero (negative : Bool)
deriving DecidableEq, Repr

/-- The result of an operation under an overflow mode (R45). -/
def FRes.pack (F : Fmt) (o : OvfMode) : FRes → Except Cause (Int × Flags)
  | .exact x => fpack F o x
  | .inf n => .ok (infCode F n, .none)
  | .nanOperand => if o = .trap then .error .nanConsumed else .ok (nanCode, .none)
  | .invalid => if o = .trap then .error .floatInvalid else .ok (nanCode, .inv)
  | .divZero n =>
    match o with
    | .trap => .error .divideByZero
    | .toInf => .ok (infCode F n, .ovf)
    | .saturate => .ok (maxFinite F n, .ovf)

/-- m * 3^k as an exact value. -/
def exactOf (m k : Int) : Exact := .rat m 1 k

/-- The exact sum of two ternary rationals. -/
def addMK (m1 k1 m2 k2 : Int) : Int × Int :=
  let k := if k1 < k2 then k1 else k2
  (m1 * (pow3n (k1 - k) : Int) + m2 * (pow3n (k2 - k) : Int), k)

/-- The exact sum of two float values, with the invalid case ∞ - ∞ (R148). -/
def fadd (a b : FVal) : FRes :=
  match a, b with
  | .nan, _ => .nanOperand
  | _, .nan => .nanOperand
  | .inf x, .inf y => if x == y then .inf x else .invalid
  | .inf x, .fin _ _ => .inf x
  | .fin _ _, .inf y => .inf y
  | .fin m1 k1, .fin m2 k2 => let (m, k) := addMK m1 k1 m2 k2; .exact (exactOf m k)

/-- The negative of a value (R37, R148; log 116). -/
def FVal.neg : FVal → FVal
  | .fin m k => .fin (-m) k
  | .inf n => .inf (!n)
  | .nan => .nan

/-- The sign of a finite or infinite value. -/
def FVal.isNeg : FVal → Bool
  | .fin m _ => m < 0
  | .inf n => n
  | .nan => false

/-- The exact product, with the invalid case 0 * ∞ (R148); `none` stands for the invalid case. -/
def fmulV (a b : FVal) : Option FVal :=
  match a, b with
  | .nan, _ => some .nan
  | _, .nan => some .nan
  | .fin m1 k1, .fin m2 k2 => some (.fin (m1 * m2) (k1 + k2))
  | .fin m _, .inf n => if m = 0 then none else some (.inf (n != decide (m < 0)))
  | .inf n, .fin m _ => if m = 0 then none else some (.inf (n != decide (m < 0)))
  | .inf x, .inf y => some (.inf (x != y))

/-- A value that needs no further operation. -/
def FVal.res : FVal → FRes
  | .fin m k => .exact (exactOf m k)
  | .inf n => .inf n
  | .nan => .nanOperand

/-- a * b (R148). -/
def fmul (a b : FVal) : FRes :=
  match fmulV a b with
  | none => .invalid
  | some v => v.res

/-- a * b + d, formed exactly (R148). -/
def fma (a b d : FVal) : FRes :=
  match a, b, d with
  | .nan, _, _ => .nanOperand
  | _, .nan, _ => .nanOperand
  | _, _, .nan => .nanOperand
  | a, b, d =>
    match fmulV a b with
    | none => .invalid
    | some p => fadd p d

/-- a / b (R152). -/
def fdiv (a b : FVal) : FRes :=
  match a, b with
  | .nan, _ => .nanOperand
  | _, .nan => .nanOperand
  | .inf _, .inf _ => .invalid
  | .inf n, .fin m _ => if m = 0 then .inf n else .inf (n != decide (m < 0))
  | .fin _ _, .inf _ => .exact (.rat 0 1 0)
  | .fin m1 k1, .fin m2 k2 =>
    if m2 = 0 then (if m1 = 0 then .invalid else .divZero (decide (m1 < 0)))
    else .exact (.rat (m1 * sgn m2) m2.natAbs (k1 - k2))

/-- 1 / a (R152). -/
def frcp (a : FVal) : FRes :=
  match a with
  | .nan => .nanOperand
  | .inf _ => .exact (.rat 0 1 0)
  | .fin m k => if m = 0 then .divZero false else .exact (.rat (sgn m) m.natAbs (-k))

/-- The square root of a (R152). -/
def fsqrt (a : FVal) : FRes :=
  match a with
  | .nan => .nanOperand
  | .inf true => .invalid
  | .inf false => .inf false
  | .fin m k => if m < 0 then .invalid else .exact (.root m.toNat 1 k)

/-- 1 over the square root of a (R152). -/
def frsq (a : FVal) : FRes :=
  match a with
  | .nan => .nanOperand
  | .inf true => .invalid
  | .inf false => .exact (.rat 0 1 0)
  | .fin m k => if m < 0 then .invalid else if m = 0 then .divZero false else .exact (.root 1 m.toNat (-k))

/-- 3^a (R153). A finite a = m * 3^k with k ≥ 0 is an integer, and its power is exact. -/
def fexp3 (a : FVal) : FRes :=
  match a with
  | .nan => .nanOperand
  | .inf true => .exact (.rat 0 1 0)
  | .inf false => .inf false
  | .fin m k =>
    let j := (-k).toNat
    let (r, c) := strip3 (j + 1) m.natAbs
    -- |a| = r * 3^(c + k)
    let den := 3 ^ (j - c)
    let num : Int := sgn m * (r : Int) * (pow3n ((c : Int) + k) : Int)
    if den = 1 then .exact (.rat 1 1 num) else .exact (.pow3 num den)

/-- log3 a (R153). An integral power of three has an exact logarithm. -/
def flog3 (a : FVal) : FRes :=
  match a with
  | .nan => .nanOperand
  | .inf true => .invalid
  | .inf false => .inf false
  | .fin m k =>
    if m ≤ 0 then .invalid
    else
      let (r, c) := strip3 (Nat.log2 m.toNat + 1) m.toNat
      if r = 1 then .exact (.rat ((c : Int) + k) 1 0) else .exact (.log3 m.toNat 1 k)

/-- a * 3^n (R154). -/
def fscl (a : FVal) (n : Int) : FRes :=
  match a with
  | .nan => .nanOperand
  | .inf s => .inf s
  | .fin m k => .exact (exactOf m (k + n))

/-- Comparison of values that are not NaN, as the sign of a - b, with the infinities at the ends (R151). -/
def fcmpV (a b : FVal) : Int :=
  match a, b with
  | .inf x, .inf y => if x == y then 0 else if x then -1 else 1
  | .inf x, _ => if x then -1 else 1
  | _, .inf y => if y then 1 else -1
  | .fin m1 k1, .fin m2 k2 => sgn (addMK m1 k1 (-m2) k2).1
  | _, _ => 0

/-- FMIN and FMAX select a code (R150); `least` chooses the lesser. -/
def fsel (F : Fmt) (least : Bool) (a b : Int) : Int :=
  match fval F a, fval F b with
  | .nan, .nan => a
  | .nan, _ => b
  | _, .nan => a
  | x, y => if (fcmpV x y ≤ 0) == least then a else b

/-- FNEG: every trit inverted, those of the exponent field with the others (DEDUCED, log 116); a NaN code passes through unchanged (R149, R45;
DEDUCED, log 86). -/
def fneg (F : Fmt) (c : Int) : Int := if fval F c = .nan then c else -c

/-- FABS: a value below zero is inverted, every trit of it (DEDUCED, log 116), and every other code is copied (R149). -/
def fabs (F : Fmt) (c : Int) : Int := if (fval F c).isNeg then -c else c

/-- FEXPO (R155). -/
def fexpo (F : Fmt) (c : Int) : Int :=
  match fval F c with
  | .inf _ => F.emax + 1
  | .nan => F.emax + 2
  | .fin m _ => if m = 0 then -(F.emax + 1) else codeE F c

/-- FCLS (R155). -/
def fcls (F : Fmt) (c : Int) : Int :=
  match fval F c with
  | .inf true => -2
  | .inf false => 2
  | .nan => 3
  | .fin m _ => sgn m

/-- The integer nearest to m * 3^k: `trunc(x, 0)` (R156, R158). -/
def truncMK (m k : Int) : Int := if 0 ≤ k then m * (pow3n k : Int) else truncInt m (-k).toNat

/-- FRND (R156): the integral value in the same format, with INEXACT when it differs. A NaN gives the canonical NaN. -/
def frnd (F : Fmt) (c : Int) : Int × Flags :=
  match fval F c with
  | .inf n => (infCode F n, .none)
  | .nan => (nanCode, .none)
  | .fin m k =>
    if 0 ≤ k then (c, .none)
    else
      let r := truncMK m k
      let fl := if r * (pow3n (-k) : Int) = m then Flags.none else Flags.inx
      match fpack F .saturate (exactOf r 0) with
      | .ok (d, _) => (d, fl)
      | .error _ => (0, fl)

/-- FTOI (R158): the integer of n trits, or the trap of the OVF trit. -/
def ftoi (F : Fmt) (o : Int) (c : Int) : Except Cause (Int × Flags) :=
  match fval F c with
  | .fin m k =>
    -- a value whose exponent exceeds the width cannot fit; its wrapped value is formed all the same
    narrow o F.n (truncMK m k)
  | .inf n => if o = 1 then .error .intOverflow else .ok (if n then -(half F.n : Int) else (half F.n : Int), .ovf)
  | .nan => if o = 1 then .error .nanConsumed else .ok (0, .inv)

/-- FCVT (R157): from format G to format F; a NaN gives the canonical NaN with no flag and no trap. -/
def fcvt (F G : Fmt) (o : OvfMode) (c : Int) : Except Cause (Int × Flags) :=
  match fval G c with
  | .inf n => .ok (infCode F n, .none)
  | .nan => .ok (nanCode, .none)
  | .fin m k => fpack F o (exactOf m k)

/-- The value of a code as an exact operand of a sum of products; used by the complex forms (R160). -/
def fsub (a b : FVal) : FRes := fadd a b.neg

/-- One part of a complex product: a1*b1 + s * a2*b2 (+ d), formed exactly and classified on its own (R160). -/
def cpart (a1 b1 a2 b2 : FVal) (minus : Bool) (d : Option FVal) : FRes :=
  let a2' := if minus then a2.neg else a2
  match fmulV a1 b1, fmulV a2' b2 with
  | some p, some q =>
    match d with
    | none => fadd p q
    | some v =>
      match p, q, v with
      | .fin m1 k1, .fin m2 k2, .fin m3 k3 =>
        let (m, k) := addMK m1 k1 m2 k2
        let (m', k') := addMK m k m3 k3
        .exact (exactOf m' k')
      | p, q, v =>
        match fadd p q with
        | .invalid => .invalid
        | .nanOperand => .nanOperand
        | .inf n => fadd (.inf n) v
        | _ => fadd (.fin 0 0) v
  | _, _ => .invalid

end Sys2Proof.Machine
end

