-- ==== Sys2Proof/Machine/Maps.lean ====
section
/-! DEFINITION. Sparse maps as lists of key and value pairs in one canonical form: keys strictly rising. Registers,
buffers and memory are held in them. -/

namespace Sys2Proof.Machine

/-- A sparse map from natural numbers. -/
abbrev FMap (α : Type) := List (Nat × α)

/-- The value at a key, if one is listed. -/
def mapFind {α : Type} (k : Nat) : FMap α → Option α
  | [] => none
  | (j, v) :: t => if j = k then some v else mapFind k t

/-- The map with a key given a value, the keys staying in rising order. -/
def mapInsert {α : Type} (k : Nat) (v : α) : FMap α → FMap α
  | [] => [(k, v)]
  | (j, u) :: t => if k < j then (k, v) :: (j, u) :: t else if k = j then (k, v) :: t else (j, u) :: mapInsert k v t

/-- The map without a key. -/
def mapErase {α : Type} (k : Nat) : FMap α → FMap α
  | [] => []
  | (j, u) :: t => if j = k then mapErase k t else (j, u) :: mapErase k t

/-- The value at a key, an unlisted key reading as `d`. -/
def mapGet {α : Type} (d : α) (m : FMap α) (k : Nat) : α := (mapFind k m).getD d

/-- A write that keeps the canonical form: the value an unlisted key reads as is not listed. -/
def mapSet {α : Type} [DecidableEq α] (d : α) (m : FMap α) (k : Nat) (v : α) : FMap α :=
  if v = d then mapErase k m else mapInsert k v m

/-- Every key of a map lies above a bound and the keys rise strictly. -/
def mapAbove {α : Type} : Option Nat → FMap α → Bool
  | _, [] => true
  | lo, (k, _) :: t => (match lo with | none => true | some b => decide (b < k)) && mapAbove (some k) t

/-- The keys of a map rise strictly. -/
def mapSorted {α : Type} (m : FMap α) : Bool := mapAbove none m

/-- The canonical form of a map whose unlisted keys read as `d`. -/
def mapWf {α : Type} [DecidableEq α] (d : α) (m : FMap α) : Bool :=
  mapSorted m && m.all (fun e => decide (e.2 ≠ d))

/-- Replace the first list element that meets a test. -/
def updFirst {α : Type} (p : α → Bool) (f : α → α) : List α → List α
  | [] => []
  | x :: t => if p x then f x :: t else x :: updFirst p f t

/-- The list without the element at a position. -/
def dropAt {α : Type} : List α → Nat → List α
  | [], _ => []
  | _ :: t, 0 => t
  | x :: t, n + 1 => x :: dropAt t n

/-- The list with the element at a position replaced. -/
def setAt {α : Type} : List α → Nat → α → List α
  | [], _, _ => []
  | _ :: t, 0, v => v :: t
  | x :: t, n + 1, v => x :: setAt t n v

/-- The lanes of a mask, in rising order. -/
def lanesOf (m : BitVec 32) : List Nat := (List.range 32).filter (fun l => m.getLsbD l)

/-- How many lanes a mask holds. -/
def laneCount (m : BitVec 32) : Nat := (lanesOf m).length

/-- The mask of the lanes that meet a test. -/
def maskOf (p : Nat → Bool) : BitVec 32 :=
  (List.range 32).foldl (fun m l => if p l then m ||| (1#32 <<< l) else m) 0#32

/-- All thirty-two lanes. -/
def allLanes : BitVec 32 := BitVec.allOnes 32

end Sys2Proof.Machine
end

