-- ==== Sys2Proof/Machine/Convert.lean ====
section
/-! DEFINITION. The P5 code (R53, R54) and the conversions between binary and ternary data (R49 to R52, R180, R181, R442). -/

namespace Sys2Proof.Machine

/-! ## Bytes and P5 -/

/-- The natural number that bytes hold, the least significant first. -/
def leNat : List (BitVec 8) → Nat
  | [] => 0
  | b :: t => b.toNat + 256 * leNat t

/-- The `n` bytes of a natural number, the least significant first. -/
def leBytes : Nat → Nat → List (BitVec 8)
  | 0, _ => []
  | n + 1, x => BitVec.ofNat 8 (x % 256) :: leBytes n (x / 256)

/-- Digits of base 243 to a number, the least significant first. -/
def p5Nat : List (BitVec 8) → Nat
  | [] => 0
  | b :: t => b.toNat + 243 * p5Nat t

/-- The `n` digits of base 243 of a number, as bytes. -/
def p5Digits : Nat → Nat → List (BitVec 8)
  | 0, _ => []
  | n + 1, x => BitVec.ofNat 8 (x % 243) :: p5Digits n (x / 243)

/-- Whether every byte is a valid P5 code (R54). -/
def p5Valid (bs : List (BitVec 8)) : Bool := bs.all (fun b => decide (b.toNat ≤ 242))

/-- `p5dec`: the string of `n` trits that valid P5 bytes hold; the padding trits are ignored (R53). -/
def p5dec (n : Nat) (bs : List (BitVec 8)) : Option (Tern n) :=
  if p5Valid bs then some (Tern.ofIndex n (p5Nat bs)) else none

/-- How many bytes `n` trits take (R53). -/
def p5Size (n : Nat) : Nat := (n + 4) / 5

/-- `p5enc`: the P5 bytes of a string, the padding trits zero (R53). -/
def p5enc {n : Nat} (t : Tern n) : List (BitVec 8) :=
  let m := 5 * p5Size n
  p5Digits (p5Size n) (t.index + (half m - half n))

/-! ## Binary encodings -/

/-- Bytes of an element of an encoding, for a ternary element of `n` trits (R49, R53). -/
def encSize (enc n : Nat) : Nat :=
  match enc with
  | 1 | 2 | 3 => 1
  | 4 | 5 | 10 | 11 => 2
  | 6 | 7 | 12 => 4
  | 8 | 9 | 13 => 8
  | 14 => p5Size n
  | _ => 0

/-- Exponent bits and fraction bits of a binary float encoding (R49). -/
def encFloat (enc : Nat) : Option (Nat × Nat) :=
  match enc with
  | 10 => some (5, 10)
  | 11 => some (8, 7)
  | 12 => some (8, 23)
  | 13 => some (11, 52)
  | _ => none

/-- A binary value: a rational, an infinity or a NaN. -/
inductive BVal where
  | fin (num : Int) (den : Nat)
  | inf (negative : Bool)
  | nan
deriving DecidableEq, Repr

/-- Whether an integer encoding is signed (R49). -/
def encSigned (enc : Nat) : Bool := enc == 3 || enc == 5 || enc == 7 || enc == 9

/-- The least and the greatest value of an integer encoding (R49). -/
def encRange (enc : Nat) : Int × Int :=
  let b := 8 * encSize enc 0
  if encSigned enc then (-((2 ^ (b - 1) : Nat) : Int), ((2 ^ (b - 1) : Nat) : Int) - 1) else (0, ((2 ^ b : Nat) : Int) - 1)

/-- The value of a binary element (R49, IEEE 754 binary formats). -/
def binDecode (enc : Nat) (bs : List (BitVec 8)) : BVal :=
  let w := leNat bs
  match encFloat enc with
  | some (ew, fw) =>
    let neg := decide (2 ^ (ew + fw) ≤ w)
    let e := w / 2 ^ fw % 2 ^ ew
    let f := w % 2 ^ fw
    let bias := 2 ^ (ew - 1) - 1
    if e = 2 ^ ew - 1 then (if f = 0 then .inf neg else .nan)
    else
      let m := if e = 0 then f else f + 2 ^ fw
      let x := (if e = 0 then 1 else e)
      -- m * 2^(x - bias - fw)
      let s : Int := if neg then -1 else 1
      if bias + fw ≤ x then .fin (s * ((m * 2 ^ (x - bias - fw) : Nat) : Int)) 1
      else .fin (s * (m : Int)) (2 ^ (bias + fw - x))
  | none =>
    let b := 8 * encSize enc 0
    if encSigned enc && decide (2 ^ (b - 1) ≤ w) then .fin ((w : Int) - ((2 ^ b : Nat) : Int)) 1 else .fin (w : Int) 1

/-- The natural number nearest to n/d, a tie going to the even one. -/
def divEven (n d : Nat) : Nat :=
  let q := n / d
  let r := 2 * (n % d)
  if r < d then q else if d < r then q + 1 else if q % 2 = 0 then q else q + 1

/-- The counted events of R50: 0 a saturation, 1 a flush to zero, 2 a NaN-or-infinity event. -/
abbrev ConvEvents := List Nat

/-- A nonzero rational as a binary float: to nearest, ties to even, subnormals produced, and above the largest finite value
the policy (R52). What is above it is judged after the rounding: a value between the largest finite one and the midpoint past it
becomes the largest finite one, with no event (DESIGN CHOICE, log 99). -/
def floatEncode (ew fw : Nat) (pol : Int) (neg : Bool) (num den : Nat) : Except Cause (Nat × ConvEvents) :=
  let bias : Int := ((2 ^ (ew - 1) : Nat) : Int) - 1
  let emin := 1 - bias
  let e0 : Int := (Nat.log2 num : Int) - (Nat.log2 den : Int)
  let below := decide (num * 2 ^ (-e0).toNat < den * 2 ^ e0.toNat)
  let e1 := if below then e0 - 1 else e0
  let e := if e1 < emin then emin else e1
  let q := e - (fw : Int)
  let m := divEven (num * 2 ^ (-q).toNat) (den * 2 ^ q.toNat)
  let code := (e - emin).toNat * 2 ^ fw + m
  let sbit := if neg then 2 ^ (ew + fw) else 0
  let infc := (2 ^ ew - 1) * 2 ^ fw
  if infc ≤ code then
    if pol = -1 then .ok (sbit + infc, [2])
    else if pol = 0 then .error .convertRange
    else .ok (sbit + infc - 1, [0])
  else .ok (sbit + code, if code = 0 then [1] else [])

/-- The NaN code of a binary float encoding (R52). -/
def nanEncode (ew fw : Nat) : Nat := (2 ^ ew - 1) * 2 ^ fw + 2 ^ (fw - 1)

/-- A value that does not fit an integer format, under the policy (R51, R52): `lim` is the nearest value in range. -/
def outOfRange (pol : Int) (lim : Int) : Except Cause (Int × ConvEvents) :=
  if pol = -1 then .ok (0, [1]) else if pol = 0 then .error .convertRange else .ok (lim, [0])

/-- A binary value brought into an integer range (R51, R52). -/
def toIntRange (lo hi : Int) (pol : Int) (v : BVal) : Except Cause (Int × ConvEvents) :=
  match v with
  | .fin n d =>
    let x := divNear n d
    if lo ≤ x ∧ x ≤ hi then .ok (x, []) else outOfRange pol (if x < lo then lo else hi)
  | .inf neg => outOfRange pol (if neg then lo else hi)
  | .nan => if pol = 0 then .error .convertRange else .ok (0, [2])

/-- The ternary float format with elements of `n` trits (R36). -/
def fmtBits (n : Nat) : Fmt := if n = 9 then tf9 else if n = 54 then tf54 else tf27

/-- A value brought into a ternary float format (R51). -/
def toFloatFmt (F : Fmt) (pol : Int) (v : BVal) : Except Cause (Int × ConvEvents) :=
  match v with
  | .fin n d =>
    match fpack F .trap (.rat n d 0) with
    | .ok (c, fl) => .ok (c, if fl.flush then [1] else [])
    | .error _ =>
      if pol = -1 then .ok (infCode F (n < 0), [2])
      else if pol = 0 then .error .convertRange
      else .ok (maxFinite F (n < 0), [0])
  | .inf neg => .ok (infCode F neg, [2])
  | .nan => .ok (nanCode, [2])

/-- A ternary element of `n` trits as a value (R180, R181, R442). -/
def ternValue (float : Bool) (n : Nat) (x : Int) : BVal :=
  if float then
    match fval (fmtBits n) x with
    | .fin m k => .fin (m * (pow3n k : Int)) (pow3n (-k))
    | .inf neg => .inf neg
    | .nan => .nan
  else .fin x 1

/-- A value put into a ternary element of `n` trits (R51). -/
def intoTern (float : Bool) (n : Nat) (pol : Int) (v : BVal) : Except Cause (Int × ConvEvents) :=
  if float then toFloatFmt (fmtBits n) pol v else toIntRange (-(half n : Int)) (half n : Int) pol v

/-- The scale of a record as a fraction; the all-zero word is 1 (R178). -/
def scaleFrac (w : Word) : Int × Nat :=
  if w = wzero then (1, 1)
  else
    match fval tf27 w.val with
    | .fin m k => (m * (pow3n k : Int), pow3n (-k))
    | _ => (1, 1)

/-- A value times the scale, or divided by it; only a finite value is scaled (R180, R181): an infinity keeps its sign whatever the sign of the
scale is (DESIGN CHOICE, log 111). -/
def scaled (divide : Bool) (w : Word) (v : BVal) : BVal :=
  match v with
  | .fin n d =>
    let (sn, sd) := scaleFrac w
    if divide then
      (if sn < 0 then .fin (-(n * (sd : Int))) (d * sn.natAbs) else .fin (n * (sd : Int)) (d * sn.natAbs))
    else .fin (n * sn) (d * sd)
  | v => v

/-- One element converted on a load (R180, R442): its value and its counted events. -/
def convLoad (enc : Nat) (float : Bool) (pol : Int) (scale : Word) (n : Nat) (bs : List (BitVec 8)) :
    Except Cause (Int × ConvEvents) :=
  if enc = 14 then
    match p5dec n bs with
    | none => .error .badByteCode
    | some t =>
      if scale = wzero then .ok (t.val, [])
      else intoTern float n pol (scaled false scale (ternValue float n t.val))
  else intoTern float n pol (scaled false scale (binDecode enc bs))

/-- One element converted on a store (R181, R442): its bytes and its counted events. -/
def convStore (enc : Nat) (float : Bool) (pol : Int) (scale : Word) (n : Nat) (x : Int) :
    Except Cause (List (BitVec 8) × ConvEvents) :=
  if enc = 14 then
    if scale = wzero then .ok (p5enc (Tern.ofInt n x), [])
    else
      match intoTern float n pol (scaled true scale (ternValue float n x)) with
      | .error c => .error c
      | .ok (y, ev) => .ok (p5enc (Tern.ofInt n y), ev)
  else
    let v := scaled true scale (ternValue float n x)
    match encFloat enc with
    | some (ew, fw) =>
      let sz := encSize enc n
      match v with
      | .fin num den =>
        if num = 0 then .ok (leBytes sz 0, [])
        else
          match floatEncode ew fw pol (num < 0) num.natAbs den with
          | .error c => .error c
          | .ok (code, ev) => .ok (leBytes sz code, ev)
      | .inf neg => .ok (leBytes sz ((2 ^ ew - 1) * 2 ^ fw + (if neg then 2 ^ (ew + fw) else 0)), [2])
      | .nan => .ok (leBytes sz (nanEncode ew fw), [2])
    | none =>
      let (lo, hi) := encRange enc
      match toIntRange lo hi pol v with
      | .error c => .error c
      | .ok (y, ev) => .ok (leBytes (encSize enc n) (y % ((2 ^ (8 * encSize enc n) : Nat) : Int)).toNat, ev)

end Sys2Proof.Machine
end

