-- ==== Sys2Proof/Machine/Crypto.lean ====
section
/-! DEFINITION. The ciphers that R414 and R415 name by their standards: AES-256 (FIPS 197), AES-256-XTS with ciphertext stealing
(IEEE 1619), AES-CMAC (NIST SP 800-38B), and AES key wrap with padding (RFC 5649). Bytes are natural numbers below 256. -/

namespace Sys2Proof.Machine

/-! ## AES-256 -/

/-- Byte `i` of a table packed into numbers of 32 bytes each. -/
def tableByte (t : List Nat) (i : Nat) : Nat := t.getD (i / 32) 0 / 2 ^ (8 * (i % 32)) % 256

/-- The S-box and its inverse. -/
def aesSbox (i : Nat) : Nat := tableByte [
  0xC072A49CAFA2D4ADF04759FA7DC982CA76ABD7FE2B670130C56F6BF27B777C63, 0x75B227EBE28012079A059618C323C7041531D871F1E5A534CCF73F362693FDB7,
  0xCF584C4A39BECB6A5BB1FC20ED00D153842FE329B3D63B52A05A6E1B1A2C8309, 0xD2F3FF1021DAB6BCF5389D928F40A351A89F3C507F02F94585334D43FBAAEFD0,
  0xDB0B5EDE14B8EE4688902A22DC4F816073195D643D7EA7C41744975FEC130CCD, 0x08AE7A65EAF4566CA94ED58D6D37C8E779E4959162ACD3C25C2406490A3A32E0,
  0x9E1DC186B95735610EF6034866B53E708A8BBD4B1F74DDE8C6B4A61C2E2578BA, 0x16BB54B00F2D99416842E6BF0D89A18CDF2855CEE9871E9B948ED9691198F8E1] i
def aesInvSbox (i : Nat) : Nat := tableByte [
  0xCBE9DEC444438E3487FF2F9B8239E37CFBD7F3819EA340BF38A53630D56A0952, 0x25D18B6D49A25B76B224D92866A12E084EC3FA420B954CEE3D23C2A632947B54,
  0x849D8DA75746155EDAB9EDFD5048706C92B6655DCC5CA4D41698688664F6F872, 0x6B8A130103BDAFC1020F3FCA8F1E2CD00645B3B80558E4F70AD3BC8C00ABD890,
  0x6EDF751CE837F9E28535ADE72274AC9673E6B4F0CECFF297EADC674F4111913A, 0xF45ACD78FEC0DB9A2079D2C64B3E56FC1BBE18AA0E62B76F89C5291D711AF147,
  0xEF9CC9939F7AE52D0D4AB519A97F51605FEC8027591012B131C7078833A8DD1F, 0x7D0C2155631469E126D677BA7E042B17619953833CBBEBC8B0F52AAE4D3BE0A0] i

/-- Twice a byte, and a product of two bytes, in the field of AES. -/
def aesDouble (b : Nat) : Nat := if b < 128 then 2 * b else (2 * b % 256) ^^^ 0x1B
def aesMul : Nat → Nat → Nat → Nat
  | 0, _, _ => 0
  | n + 1, a, b => (if b % 2 = 1 then a else 0) ^^^ aesMul n (aesDouble a) (b / 2)

/-- Bytes combined one by one. -/
def xorBytes (a b : List Nat) : List Nat := List.zipWith (fun x y => x ^^^ y) a b

/-- The words of the key schedule, the latest first: `n` more after `ws`, of which there are `i`. -/
def aesExpand : Nat → Nat → List (List Nat) → List (List Nat)
  | 0, _, ws => ws
  | n + 1, i, ws =>
    let prev := ws.getD 0 []
    let rcon := 2 ^ (i / 8 - 1) % 256
    let turned := if i % 8 = 0 then xorBytes (prev.tail ++ prev.take 1 |>.map aesSbox) [rcon, 0, 0, 0]
      else if i % 8 = 4 then prev.map aesSbox else prev
    aesExpand n (i + 1) (xorBytes (ws.getD 7 []) turned :: ws)

/-- Bytes cut into pieces of a length. -/
def pieces : Nat → Nat → List Nat → List (List Nat)
  | 0, _, _ => []
  | n + 1, k, bs => bs.take k :: pieces n k (bs.drop k)

/-- The fifteen round keys of a key of 32 bytes. -/
def aesKeys (key : List Nat) : List (List Nat) := pieces 15 16 (aesExpand 52 8 (pieces 8 4 key).reverse).reverse.flatten

/-- The rows of a block turned, its byte `j` standing in row `j` mod 4: by one column more in each row, or back. -/
def aesShift (back : Bool) (b : List Nat) : List Nat := (List.range 16).map (fun j => b.getD ((j + (if back then 12 else 4) * (j % 4)) % 16) 0)

/-- The columns of a block mixed with the coefficients of a first row. -/
def aesMix (c : List Nat) (b : List Nat) : List Nat :=
  (List.range 16).map (fun j => (List.range 4).foldl (fun x k => x ^^^ aesMul 8 (b.getD (4 * (j / 4) + k) 0) (c.getD ((k + 4 - j % 4) % 4) 0)) 0)

/-- A block enciphered, and deciphered, under round keys. -/
def aesEnc (keys : List (List Nat)) (b : List Nat) : List Nat :=
  let start := xorBytes b (keys.getD 0 [])
  let mid := (List.range 13).foldl (fun x r => xorBytes (aesMix [2, 3, 1, 1] (aesShift false (x.map aesSbox))) (keys.getD (r + 1) [])) start
  xorBytes (aesShift false (mid.map aesSbox)) (keys.getD 14 [])
def aesDec (keys : List (List Nat)) (b : List Nat) : List Nat :=
  let start := (aesShift true (xorBytes b (keys.getD 14 []))).map aesInvSbox
  let mid := (List.range 13).foldl (fun x r => (aesShift true (aesMix [14, 11, 13, 9] (xorBytes x (keys.getD (13 - r) [])))).map aesInvSbox) start
  xorBytes mid (keys.getD 0 [])

/-! ## AES-256-XTS -/

/-- A tweak doubled, its bytes little-endian. -/
def xtsDouble (t : List Nat) : List Nat :=
  (List.range 16).map (fun i => 2 * t.getD i 0 % 256 + (if i = 0 then 0 else t.getD (i - 1) 0 / 128)) |> fun d =>
    if 128 ≤ t.getD 15 0 then xorBytes d (0x87 :: List.replicate 15 0) else d

/-- One block under a tweak, with a block cipher. -/
def xtsBlock (f : List Nat → List Nat) (t b : List Nat) : List Nat := xorBytes (f (xorBytes b t)) t

/-- A data unit of `n` full blocks and a last part, enciphered or deciphered, with ciphertext stealing: in the last two blocks deciphering takes
the tweaks in the other order. -/
def xtsUnit (f : List Nat → List Nat) (dec : Bool) : Nat → List Nat → List Nat → List Nat
  | 0, _, bs => bs
  | n + 1, t, bs =>
    let rest := bs.drop 16
    if n = 0 ∧ rest ≠ [] then
      let t2 := xtsDouble t
      let head := xtsBlock f (if dec then t2 else t) (bs.take 16)
      xtsBlock f (if dec then t else t2) (rest ++ head.drop rest.length) ++ head.take rest.length
    else xtsBlock f t (bs.take 16) ++ xtsUnit f dec n (xtsDouble t) rest

/-- AES-256-XTS of a data unit under its two keys, with the number of the unit as the tweak (R414). -/
def xtsEnc (k1 k2 : List Nat) (unit_ : Nat) (bs : List Nat) : List Nat :=
  xtsUnit (aesEnc (aesKeys k1)) false (bs.length / 16) (aesEnc (aesKeys k2) ((leBytes 16 unit_).map BitVec.toNat)) bs
def xtsDec (k1 k2 : List Nat) (unit_ : Nat) (bs : List Nat) : List Nat :=
  xtsUnit (aesDec (aesKeys k1)) true (bs.length / 16) (aesEnc (aesKeys k2) ((leBytes 16 unit_).map BitVec.toNat)) bs

/-! ## AES-CMAC -/

/-- A block doubled, its bytes big-endian. -/
def cmacDouble (b : List Nat) : List Nat :=
  (List.range 16).map (fun i => 2 * b.getD i 0 % 256 + b.getD (i + 1) 0 / 128) |> fun d =>
    if 128 ≤ b.getD 0 0 then xorBytes d (List.replicate 15 0 ++ [0x87]) else d

/-- The chain over full blocks and a last one. -/
def cmacChain (f : List Nat → List Nat) (k1 k2 : List Nat) : Nat → List Nat → List Nat → List Nat
  | 0, x, bs =>
    if bs.length = 16 then f (xorBytes x (xorBytes bs k1))
    else f (xorBytes x (xorBytes (bs ++ 0x80 :: List.replicate (15 - bs.length) 0) k2))
  | n + 1, x, bs => cmacChain f k1 k2 n (f (xorBytes x (bs.take 16))) (bs.drop 16)

/-- AES-CMAC of a message. -/
def aesCmac (key bs : List Nat) : List Nat :=
  let f := aesEnc (aesKeys key)
  let k1 := cmacDouble (f (List.replicate 16 0))
  cmacChain f k1 (cmacDouble k1) ((bs.length - 1) / 16) (List.replicate 16 0) bs

/-! ## AES key wrap with padding -/

/-- The number of big-endian bytes. -/
def beNat (bs : List Nat) : Nat := bs.foldl (fun n b => 256 * n + b) 0

/-- One round of unwrapping over the blocks, from the last to the first: the register `a` and the blocks, numbered from 1. -/
def unwrapRound (f : List Nat → List Nat) (n j : Nat) : Nat → List Nat × List (List Nat) → List Nat × List (List Nat)
  | 0, x => x
  | i + 1, (a, rs) =>
    let t := (leBytes 8 (n * j + (i + 1))).reverse.map BitVec.toNat
    let b := f (xorBytes a t ++ rs.getD i [])
    unwrapRound f n j i (b.take 8, setAt rs i (b.drop 8))

/-- A blob unwrapped under a key (RFC 5649); none where it fails. -/
def keyUnwrap (key blob : List Nat) : Option (List Nat) :=
  let n := blob.length / 8 - 1
  if blob.length % 8 ≠ 0 ∨ n = 0 then none
  else
    let f := aesDec (aesKeys key)
    let (a, p) :=
      if n = 1 then let b := f blob; (b.take 8, b.drop 8)
      else
        let (a, rs) := [5, 4, 3, 2, 1, 0].foldl (fun x j => unwrapRound f n j n x) (blob.take 8, pieces n 8 (blob.drop 8))
        (a, rs.flatten)
    let len := beNat (a.drop 4)
    if a.take 4 = [0xA6, 0x59, 0x59, 0xA6] ∧ 8 * (n - 1) < len ∧ len ≤ 8 * n ∧ (p.drop len).all (fun x => x == 0) then some (p.take len) else none

end Sys2Proof.Machine
end

