-- ==== Sys2Proof/Config.lean ====
section
/-! DEFINITION. The values the spec leaves open. Each is an `opaque` constant with no body: nothing can be proved of the
value it takes, so a statement about the machine holds whatever the hardware does there. -/

namespace Sys2Proof.Config

/-- A free natural number for draw `n` of the machine's counter (`State.free`): which of several allowed values or
orders is taken. -/
opaque pick : Nat → Nat
/-- What a byte of host memory reads as before anything has written it (R410 states no contents). -/
opaque hostByte : Nat → BitVec 8
/-- What a tryte of another device's memory reads as before this device has written it, as an index under R7:
(device, address index). -/
opaque peerTryte : Nat → Nat → Nat

/-- How far a core's reading of the cycle count stands from another's; taken modulo 9, since R223 lets two cores differ by
at most 8. -/
opaque skew : Nat → Nat

/-- Static energy of a core and of a sequencer in one interval, and that of the I/O die, in nanojoules: calibrated for each part
(R399). -/
opaque coreStatic : Nat → Nat
opaque seqStatic : Nat → Nat
opaque ioStatic : Nat

/-- The energy coefficients calibrated at bring-up, in picojoules (R399): 0 to 7 for one count of that PERF counter of a group, 8 to 15
for one of a context, 16 for one pass of an array, 17 for one tile moved. -/
opaque energyCoef : Nat → Nat

/-- The wrapping key, 32 bytes from the low end, that ECDH on P-521 with the attestation key and SHA-512 give for an ephemeral public key; none
where its bytes are no public key (R415). The attestation key never leaves the security processor (R416), and the spec gives neither the form of
the public key nor how the key is taken from the digest. -/
opaque wrapKey : List (BitVec 8) → Option (BitVec 256)

/-- Bytes of the SHA-512 digests of the firmware images, and of a signature over a report, in an attestation report (R417). -/
opaque firmware : Nat → BitVec 8
opaque signature : List (BitVec 8) → Nat → BitVec 8

/-- Whether the debug interface is enabled, as an attestation report shows it (R417). -/
opaque debugOn : Bool

end Sys2Proof.Config
end

