-- ==== Sys2Proof/Syntax.lean ====
section
/-! DEFINITION. The syntax of everything the machine can be asked to do: one constructor of `Instr` for each row of the
opcode table. A Torade constructor carries the raw fields of its format (R56, R58), reserved ones included, so that no
trit of a word is lost; a Lens constructor carries the fields of its 32-bit word (R384); an event constructor carries the
names of the objects the event is about. -/

namespace Sys2Proof

/-- The eleven-trit head without OP (R56). -/
structure Head where
  /-- trits 20..19 -/
  stall : Tern 2
  /-- trits 18..17 -/
  pred : Tern 2
  /-- trit 16 -/
  psense : Trit
deriving DecidableEq, Repr

/-- Format R (R58). -/
structure RFmt where
  h : Head
  d : Tern 4
  a : Tern 4
  b : Tern 4
  fn : Tern 3
  reuse : Trit
deriving DecidableEq, Repr

/-- Format I (R58). -/
structure IFmt where
  h : Head
  d : Tern 4
  a : Tern 4
  imm : Tern 8
deriving DecidableEq, Repr

/-- Format M (R58). -/
structure MFmt where
  h : Head
  d : Tern 4
  a : Tern 4
  recd : Tern 2
  ofs : Tern 6
deriving DecidableEq, Repr

/-- Format B (R58). -/
structure BFmt where
  h : Head
  disp : Tern 16
deriving DecidableEq, Repr

/-- Format L: word 0 laid out as R, word 1 the extension word (R58). -/
structure LFmt where
  r : RFmt
  ext : Word
deriving DecidableEq, Repr

/-- A watchpoint of a debug set (R387). -/
structure Watch where
  start : Addr
  extent : Nat
  onLoad : Bool
  onStore : Bool
  enabled : Bool
deriving DecidableEq, Repr

/-- A launch's debug set (R387): ATTACHED, four PC breaks, four watchpoints, DUMPONABORT. -/
structure DebugSet where
  attached : Bool
  breaks : List (Addr × Bool)
  watches : List Watch
  dumpOnAbort : Bool
deriving DecidableEq, Repr

/-- The read-modify-write operations of block +1 (R194). -/
inductive AtomKind where
  | add | min | max | xchg | cas | tadd | fadd | add54
deriving DecidableEq, Repr

/-- An atomic with its SHAPE or FMT trit and its OVF trit (R194, R359). -/
structure AtomOp where
  kind : AtomKind
  shape : Trit
  ovf : Trit
deriving DecidableEq, Repr

/-- What a peer device asks for (R413, R165). -/
inductive PeerReq where
  | load (addr : Addr) (trytes : Nat)
  | store (addr : Addr) (data : List Tryte)
  /-- `toReg`: the requester's atomic has a destination; without one it is a reduction (R168) -/
  | atomic (addr : Addr) (op : AtomOp) (b cmp : Addr) (toReg : Bool := true)
deriving DecidableEq, Repr

/-- A firmware image as the security processor checks it (R416): its version, and whether its ECDSA P-521 signature verifies. -/
structure Image where
  version : Nat
  signed : Bool
deriving DecidableEq, Repr

/-- How a start fails: its stage, reason code and REASONINFO (R419, R421). -/
structure StartFailure where
  stage : Nat
  reason : Nat
  info : Nat
deriving DecidableEq, Repr

/-- The word of storage that a soft error strikes (R27, R357). -/
inductive ErrorSite where
  | icache (core : Nat) (word : Nat)
  | vreg (core slot reg lane : Nat)
  | sreg (core slot reg : Nat)
  | preg (core slot reg : Nat)
  /-- a word of an L1 copy, by the tile's coordinate -/
  | l1 (core tile word : Nat)
  /-- a word of a mooring table's entry -/
  | moor (slice entry word : Nat)
  | buffer (core path word : Nat)
  | l2 (frame tile word : Nat)
  | dram (frame tile : Nat)
  | daymark
deriving DecidableEq, Repr

/-- The operations and events of the opcode table, one constructor a row. -/
inductive Instr where
  /-- `NOP` (R104). Changes no state; its stall count spaces the next issue. -/
  | nop (f : RFmt)
  /-- `JMP` (R105). The split continues at PC + 3·DISP16 when at least one lane is active. -/
  | jmp (f : BFmt)
  /-- `BR` (R90). Per-lane conditional branch that may divide the split, or push a fallback entry when the split table is full. -/
  | br (f : BFmt)
  /-- `BRALL` (R105). Branches the whole split when every lane of its mask has its predicate trit equal to PSENSE. -/
  | brall (f : BFmt)
  /-- `BRANY` (R105). Branches the whole split when some lane of its mask has its predicate trit equal to PSENSE. -/
  | brany (f : BFmt)
  /-- `JMPR` (R106). Jumps to the 54-trit address held in a scalar pair. -/
  | jmpr (f : RFmt)
  /-- `CALL` (R106). Writes the link p + 3 to s78:s79 and branches by displacement. -/
  | call (f : BFmt)
  /-- `CALLR` (R106). Writes the link to s78:s79 and jumps to the address in a scalar pair. -/
  | callr (f : RFmt)
  /-- `RET` (R106). Jumps to the address in a scalar pair, s78 by default, steering the return predictor. -/
  | ret (f : RFmt)
  /-- `JOIN` (R92). Wait-mode JOIN: checks the token, parks fallback lanes or waits for every carrier of the token. -/
  | join (f : IFmt)
  /-- `JOIN_ARM` (R108). Pushes a token on the split's join-token stack. -/
  | joinArm (f : IFmt)
  /-- `LOOP` (R107). Decrements a scalar counter and branches while it is nonzero. -/
  | loop (f : IFmt)
  /-- `EXIT` (R109). Makes the active lanes absent, popping a fallback entry or ending the split. -/
  | exit (f : RFmt)
  /-- `YIELD` (R110). Gives the split the youngest age in its group and clears its wait count. -/
  | yield (f : RFmt)
  /-- `ROLE` (R111). Sets ROLEST.CLASS to LOADER, STORER or COMPUTER. -/
  | role (f : IFmt)
  /-- `REGION_OPEN` (R112). Enters an idempotent region, recording its entry PC and raising its entry count. -/
  | regionOpen (f : IFmt)
  /-- `REGION_CLOSE` (R112). Leaves an idempotent region after the region's loads have returned. -/
  | regionClose (f : IFmt)
  /-- `BKPT` (R113). Raises BREAKPOINT after executing, with EPC = p + 3. -/
  | bkpt (f : IFmt)
  /-- `ADD` (R121). Elementwise integer addition narrowed by the overflow mode. -/
  | add (f : RFmt)
  /-- `SUB` (R121). Elementwise integer subtraction narrowed by the overflow mode. -/
  | sub (f : RFmt)
  /-- `NEG` (R121). Elementwise negation by inverting every trit. -/
  | neg (f : RFmt)
  /-- `ABS` (R121). Elementwise absolute value. -/
  | abs (f : RFmt)
  /-- `SGN` (R121). Elementwise sign, −1, 0 or +1. -/
  | sgn (f : RFmt)
  /-- `MUL` (R121). Elementwise product narrowed by the overflow mode. -/
  | mul (f : RFmt)
  /-- `MULH` (R122). High half of the exact elementwise product. -/
  | mulh (f : RFmt)
  /-- `MAD` (R121). Elementwise a · b + d narrowed once. -/
  | mad (f : RFmt)
  /-- `DIV` (R123). Elementwise quotient rounded to nearest, ties to smaller magnitude, scoreboarded. -/
  | div (f : RFmt)
  /-- `REM` (R123). Elementwise balanced remainder, scoreboarded. -/
  | rem (f : RFmt)
  /-- `MIN` (R121). Elementwise lesser of two operands. -/
  | min (f : RFmt)
  /-- `MAX` (R121). Elementwise greater of two operands. -/
  | max (f : RFmt)
  /-- `CMP` (R124). Writes sign(a − b) of T27 words into a predicate register. -/
  | cmp (f : RFmt)
  /-- `SEL` (R125). Selects A or B per lane by a predicate trit times PSENSE, leaving D where it is 0. -/
  | sel (f : RFmt)
  /-- `TADD` (R126). Tritwise sum modulo 3. -/
  | tadd (f : RFmt)
  /-- `TMUL` (R126). Tritwise product. -/
  | tmul (f : RFmt)
  /-- `TMIN` (R126). Tritwise minimum, ternary AND. -/
  | tmin (f : RFmt)
  /-- `TMAX` (R126). Tritwise maximum, ternary OR. -/
  | tmax (f : RFmt)
  /-- `SHL` (R127). Elementwise shift left by a register count. -/
  | shl (f : RFmt)
  /-- `SHR` (R127). Elementwise shift right rounding to nearest. -/
  | shr (f : RFmt)
  /-- `ROT` (R127). Elementwise rotation by k mod n. -/
  | rot (f : RFmt)
  /-- `TCNT` (R128). Counts the nonzero trits of each element. -/
  | tcnt (f : RFmt)
  /-- `TBAL` (R128). Sums the trits of each element. -/
  | tbal (f : RFmt)
  /-- `LEAD` (R128). Gives the number of significant trits of each element. -/
  | lead (f : RFmt)
  /-- `MOV` (R129). Copies a whole word between registers or broadcasts a scalar. -/
  | mov (f : RFmt)
  /-- `SHUF` (R131). Writes each active lane with A of the lane named by B. -/
  | shuf (f : RFmt)
  /-- `BCAST` (R131). Broadcasts A of the lowest active lane to every active lane. -/
  | bcast (f : RFmt)
  /-- `VOTE` (R132). Writes the sum of a predicate's trits over the active lanes. -/
  | vote (f : RFmt)
  /-- `RSUM` (R133). Exact sum reduction over the active lanes, narrowed once. -/
  | rsum (f : RFmt)
  /-- `RMIN` (R133). Minimum reduction over the active lanes. -/
  | rmin (f : RFmt)
  /-- `RMAX` (R133). Maximum reduction over the active lanes. -/
  | rmax (f : RFmt)
  /-- `SCAN` (R134). Inclusive prefix sum over the active lanes. -/
  | scan (f : RFmt)
  /-- `ADDI` (R137). Adds a 7-trit immediate with saturation. -/
  | addi (f : IFmt)
  /-- `MULI` (R137). Multiplies by an immediate with saturation. -/
  | muli (f : IFmt)
  /-- `MINI` (R137). Lesser of an operand and an immediate. -/
  | mini (f : IFmt)
  /-- `MAXI` (R137). Greater of an operand and an immediate. -/
  | maxi (f : IFmt)
  /-- `CMPI` (R137). Writes sign(a − i) into a predicate register. -/
  | cmpi (f : IFmt)
  /-- `SHLI` (R137). Shifts left by an immediate count. -/
  | shli (f : IFmt)
  /-- `SHRI` (R137). Shifts right by an immediate count, rounding to nearest. -/
  | shri (f : IFmt)
  /-- `ROTI` (R137). Rotates by an immediate count. -/
  | roti (f : IFmt)
  /-- `MOVI` (R137). Writes an immediate to a register. -/
  | movi (f : IFmt)
  /-- `LIMM` (R138). Writes the 27-trit extension word to a register. -/
  | limm (f : LFmt)
  /-- `EXTR` (R139). Extracts a balanced trit field. -/
  | extr (f : IFmt)
  /-- `INSR` (R139). Inserts a saturated value into a trit field. -/
  | insr (f : IFmt)
  /-- `WIDEN` (R140). Reads one T9 subelement as a T27. -/
  | widen (f : IFmt)
  /-- `NARROW` (R140). Writes a saturated T9 into one subelement. -/
  | narrow (f : IFmt)
  /-- `LANE` (R141). Writes each active lane's number. -/
  | lane (f : RFmt)
  /-- `IDS` (R141). Writes an identity of the executing context to a scalar. -/
  | ids (f : RFmt)
  /-- `MVS` (R142). Moves one lane of a vector register to a scalar. -/
  | mvs (f : RFmt)
  /-- `MSV` (R142). Writes a scalar into one lane of a vector register. -/
  | msv (f : RFmt)
  /-- `CFROM` (R143). Writes the sign of a register into a predicate. -/
  | cfrom (f : RFmt)
  /-- `CTO` (R143). Writes a predicate trit to a vector register. -/
  | cto (f : RFmt)
  /-- `CMIN` (R143). Lesser of two predicate trits. -/
  | cmin (f : RFmt)
  /-- `CMAX` (R143). Greater of two predicate trits. -/
  | cmax (f : RFmt)
  /-- `CNEG` (R143). Inverts a predicate trit. -/
  | cneg (f : RFmt)
  /-- `CSETI` (R143). Sets a predicate trit to an immediate. -/
  | cseti (f : IFmt)
  /-- `FADD` (R148). Float addition rounded once. -/
  | fadd (f : RFmt)
  /-- `FSUB` (R148). Float subtraction rounded once. -/
  | fsub (f : RFmt)
  /-- `FNEG` (R149). Inverts every trit of each float element. -/
  | fneg (f : RFmt)
  /-- `FABS` (R149). Float absolute value by inversion of negative codes. -/
  | fabs (f : RFmt)
  /-- `FMUL` (R148). Float multiplication rounded once. -/
  | fmul (f : RFmt)
  /-- `FMA` (R148). Fused a · b + d rounded once. -/
  | fma (f : RFmt)
  /-- `FMIN` (R150). Selects the lesser float code. -/
  | fmin (f : RFmt)
  /-- `FMAX` (R150). Selects the greater float code. -/
  | fmax (f : RFmt)
  /-- `FCMP` (R151). Writes the float comparison into a predicate. -/
  | fcmp (f : RFmt)
  /-- `FDIV` (R152). Float division, scoreboarded. -/
  | fdiv (f : RFmt)
  /-- `FSQRT` (R152). Float square root, scoreboarded. -/
  | fsqrt (f : RFmt)
  /-- `FRCP` (R152). Float reciprocal, scoreboarded. -/
  | frcp (f : RFmt)
  /-- `FRSQ` (R152). Float reciprocal square root, scoreboarded. -/
  | frsq (f : RFmt)
  /-- `FEXP3` (R153). Correctly rounded 3 to the power a. -/
  | fexp3 (f : RFmt)
  /-- `FLOG3` (R153). Correctly rounded base-3 logarithm. -/
  | flog3 (f : RFmt)
  /-- `FSCL` (R154). Scales a float by 3 to an integer power. -/
  | fscl (f : RFmt)
  /-- `FEXPO` (R155). Writes the exponent of each float as an integer. -/
  | fexpo (f : RFmt)
  /-- `FCLS` (R155). Writes the class of each float as an integer. -/
  | fcls (f : RFmt)
  /-- `FCVT` (R157). Converts between float formats. -/
  | fcvt (f : RFmt)
  /-- `FTOI` (R158). Converts a float to an integer of the same layout. -/
  | ftoi (f : RFmt)
  /-- `ITOF` (R159). Converts an integer to a float by fpack. -/
  | itof (f : RFmt)
  /-- `FRND` (R156). Rounds a float to an integral value in the same format. -/
  | frnd (f : RFmt)
  /-- `CMUL` (R160). Complex product with each part rounded once. -/
  | cmul (f : RFmt)
  /-- `CFMA` (R160). Complex fused multiply-add with each part rounded once. -/
  | cfma (f : RFmt)
  /-- `FRSUM` (R161). Float sum over active lanes in a fixed pairwise tree. -/
  | frsum (f : RFmt)
  /-- `TRAP` (R207). Raises SOFTWARE_TRAP with its code and EPC = p + 3. -/
  | trap (f : IFmt)
  /-- `ERET` (R208). Returns from a handler to EPC, restoring region state and releasing held splits. -/
  | eret (f : RFmt)
  /-- `ERET_REGION` (R208). Returns from a handler to EREGION with the region state outside. -/
  | eretRegion (f : RFmt)
  /-- `RDST` (R204). Reads a state register into a scalar or scalar pair. -/
  | rdst (f : IFmt)
  /-- `WRST` (R204). Writes a state register from a scalar or scalar pair. -/
  | wrst (f : IFmt)
  /-- `FENCE_FULL` (R210). Full fence of the split's accesses at a scope. -/
  | fenceFull (f : IFmt)
  /-- `FENCE_ACQ` (R210). Acquire fence of the split's accesses at a scope. -/
  | fenceAcq (f : IFmt)
  /-- `FENCE_REL` (R210). Release fence of the split's accesses at a scope. -/
  | fenceRel (f : IFmt)
  /-- `WAITP` (R211). Holds the split until an in-flight counter falls to a bound. -/
  | waitp (f : IFmt)
  /-- `WAITGE` (R212). Waits until a binary completion counter reaches a target. -/
  | waitge (f : RFmt)
  /-- `BWAIT` (R213). Waits on a tryte barrier word for a phase change or a zero count. -/
  | bwait (f : MFmt)
  /-- `BAR` (R214). Arrives at a crew barrier. -/
  | bar (f : IFmt)
  /-- `RBAR` (R215). Arrives at a barrier over an aligned sub-rectangle. -/
  | rbar (f : IFmt)
  /-- `XBAR` (R216). Arrives at a barrier across the devices of a gang. -/
  | xbar (f : LFmt)
  /-- `TLBFILL` (R218). Installs a leaf translation in the cluster and L1 TLBs. -/
  | tlbfill (f : RFmt)
  /-- `TLBINV` (R219). Removes the translation of one page from the core and cluster TLBs. -/
  | tlbinv (f : RFmt)
  /-- `TLBINV_DOM` (R219). Removes every translation of the domain from every TLB of the device. -/
  | tlbinvDom (f : RFmt)
  /-- `TLBINV_ALL` (R219). Removes every translation in the core and its cluster. -/
  | tlbinvAll (f : RFmt)
  /-- `CFLUSH_L1` (R220). Drops the core's L1 copy of each lane's tile. -/
  | cflushL1 (f : MFmt)
  /-- `CFLUSH_WB` (R220). Writes each lane's tile from its home slice to DRAM and keeps it. -/
  | cflushWb (f : MFmt)
  /-- `CFLUSH_INV` (R220). Writes back each lane's tile and drops it from home slice and L1. -/
  | cflushInv (f : MFmt)
  /-- `ICINV` (R221). Discards fetched instructions of the core and its sequencer. -/
  | icinv (f : RFmt)
  /-- `ICINV_RECT` (R221). Discards fetched instructions of every core and sequencer of the launch rectangle. -/
  | icinvRect (f : RFmt)
  /-- `SLEEP` (R222). Holds the split for 27·n cycles. -/
  | sleep (f : IFmt)
  /-- `CLOCK` (R223). Writes arithmetic-clock cycles since reset. -/
  | clock (f : RFmt)
  /-- `CLOCK_NS` (R223). Writes nanoseconds of the device time base. -/
  | clockNs (f : RFmt)
  /-- `PERF` (R224). Writes a performance counter of the group. -/
  | perf (f : IFmt)
  /-- `MARK` (R225). Sends a mark record to the trace stream. -/
  | mark (f : IFmt)
  /-- `STOP` (R226). Stops the group for the debugger with HALT_REQUEST. -/
  | stop (f : IFmt)
  /-- `STOP_LAUNCH` (R226). STOP with reach +1, ringing the fog-bell for the whole launch. -/
  | stopLaunch (f : IFmt)
  /-- `ZTRAP` (R69). Any word with OP 0 traps ZERO_WORD. -/
  | ztrap (w : Word)
  /-- `ILLEGAL_OPCODE` (R67). A word whose (c, s) is an unlisted slot is decoded and traps ILLEGAL_OPCODE. -/
  | illegalOpcode (w : Word)
  /-- `LD9` (R191). Per-lane tryte load into subelement 0. -/
  | ld9 (f : MFmt)
  /-- `LD27` (R191). Per-lane word load. -/
  | ld27 (f : MFmt)
  /-- `LD54` (R191). Per-lane pair load. -/
  | ld54 (f : MFmt)
  /-- `ST9` (R191). Per-lane tryte store. -/
  | st9 (f : MFmt)
  /-- `ST27` (R191). Per-lane word store. -/
  | st27 (f : MFmt)
  /-- `ST54` (R191). Per-lane pair store. -/
  | st54 (f : MFmt)
  /-- `LDS9` (R191). Scalar tryte load. -/
  | lds9 (f : MFmt)
  /-- `LDS27` (R191). Scalar word load. -/
  | lds27 (f : MFmt)
  /-- `LDS54` (R191). Scalar pair load. -/
  | lds54 (f : MFmt)
  /-- `STS9` (R191). Scalar tryte store. -/
  | sts9 (f : MFmt)
  /-- `STS27` (R191). Scalar word store. -/
  | sts27 (f : MFmt)
  /-- `STS54` (R191). Scalar pair store. -/
  | sts54 (f : MFmt)
  /-- `LDA27` (R192). Word load with acquire at a scope. -/
  | lda27 (f : LFmt)
  /-- `LDA54` (R192). Pair load with acquire at a scope. -/
  | lda54 (f : LFmt)
  /-- `STL27` (R192). Word store with release at a scope. -/
  | stl27 (f : LFmt)
  /-- `STL54` (R192). Pair store with release at a scope. -/
  | stl54 (f : LFmt)
  /-- `PREF` (R193). Asks for each lane's tile in L1 and L2. -/
  | pref (f : MFmt)
  /-- `PREF_L2` (R193). Asks for each lane's tile in L2 only. -/
  | prefL2 (f : MFmt)
  /-- `AADD` (R194). Atomic integer add per lane. -/
  | aadd (f : LFmt)
  /-- `AMIN` (R194). Atomic minimum per lane. -/
  | amin (f : LFmt)
  /-- `AMAX` (R194). Atomic maximum per lane. -/
  | amax (f : LFmt)
  /-- `AXCHG` (R194). Atomic exchange per lane. -/
  | axchg (f : LFmt)
  /-- `ACAS` (R194). Atomic compare-and-swap per lane. -/
  | acas (f : LFmt)
  /-- `ATADD` (R194). Atomic tritwise add per lane. -/
  | atadd (f : LFmt)
  /-- `AFADD` (R194). Atomic float add per lane. -/
  | afadd (f : LFmt)
  /-- `AADD54` (R194). Atomic T54 add on a pair per lane. -/
  | aadd54 (f : LFmt)
  /-- `TKLD` (R254). Allocates a mooring entry and starts a tile snapshot, returning a handle. -/
  | tkld (f : LFmt)
  /-- `TKLD_LIN` (R254). Allocates a mooring entry for a linear extent of words. -/
  | tkldLin (f : LFmt)
  /-- `REDEEM` (R257). Presents a handle and delivers the entry's words into vector registers. -/
  | redeem (f : RFmt)
  /-- `REDEEMB` (R258). Presents a handle and delivers the entry's words into a typed buffer with a barrier arrival. -/
  | redeemb (f : LFmt)
  /-- `TKDROP` (R259). Releases a moored or pending ticket early. -/
  | tkdrop (f : RFmt)
  /-- `TKQ` (R260). Reports the state of a ticket's entry. -/
  | tkq (f : RFmt)
  /-- `TCOPY` (R269). Submits a tensor copy job to the copy request unit and receives its status. -/
  | tcopy (f : LFmt)
  /-- `BINIT` (R278). Writes a tryte barrier word. -/
  | binit (f : MFmt)
  /-- `BARRV` (R278). Arrives at a tryte barrier with n trytes as a release. -/
  | barrv (f : MFmt)
  /-- `BQRY` (R278). Reads a tryte barrier word. -/
  | bqry (f : MFmt)
  /-- `ENQ` (R280). Appends a packet image to a user queue. -/
  | enq (f : LFmt)
  /-- `RECLD` (R281). Replaces a buffer record from 12 words of memory. -/
  | recld (f : MFmt)
  /-- `MLDW` (R328). Loads a B block from the W buffer into an array. -/
  | mldw (f : LFmt)
  /-- `MMA` (R329). Streams A rows through the loaded block and accumulates into C. -/
  | mma (f : LFmt)
  /-- `MMAC` (R317). Complex CF54 matrix multiply-accumulate. -/
  | mmac (f : LFmt)
  /-- `MZERO` (R330). Zeroes a C region and tags it. -/
  | mzero (f : LFmt)
  /-- `MACC` (R330). Adds one C region into another. -/
  | macc (f : LFmt)
  /-- `MOUT` (R331). Converts a C region into an output region in an A buffer. -/
  | mout (f : LFmt)
  /-- `MWAIT` (R332). Holds the context until at most n matrix instructions are incomplete. -/
  | mwait (f : IFmt)
  /-- `MSTAT` (R333). Reads a matrix status or counter value. -/
  | mstat (f : RFmt)
  /-- `MCFG_CLAIM` (R327). Claims arrays of the cluster for the context. -/
  | mcfgClaim (f : IFmt)
  /-- `MCFG_RELEASE` (R327). Releases claimed arrays and unloads their blocks. -/
  | mcfgRelease (f : IFmt)
  /-- `MCFG_KSPLIT` (R327). Sets KSPLIT and unloads every claimed array. -/
  | mcfgKsplit (f : IFmt)
  /-- `MCFG_BIND` (R327). Sets the context's crew binding. -/
  | mcfgBind (f : IFmt)
  /-- `SOLICIT` (R298). Allocates a census and broadcasts a key. -/
  | solicit (f : LFmt)
  /-- `SREPLY` (R299). Sends a responder's reply and finishes the responder. -/
  | sreply (f : RFmt)
  /-- `SWAIT` (R300). Waits for a census to complete and collects it. -/
  | swait (f : RFmt)
  /-- `PUBLISH` (R301). Enters a buffer tile into the tile directory. -/
  | publish (f : LFmt)
  /-- `WITHDRAW` (R302). Frees the crew's LIVE directory entry at a tile. -/
  | withdraw (f : RFmt)
  /-- `MIGRATE` (R304). Starts moving a published tile to another buffer tile. -/
  | migrate (f : LFmt)
  /-- `SQRY` (R303). Reads the k-th match of a responder. -/
  | sqry (f : RFmt)
  /-- `LENS_LDR` (R385). Loads a field of the record into a Lens register. -/
  | lensLdr (d : Fin 8) (ofs : Fin 1024) (signed : Bool) (size : Fin 8)
  /-- `LENS_LDI` (R385). Loads a sign-extended immediate. -/
  | lensLdi (d : Fin 8) (imm : BitVec 18)
  /-- `LENS_LDIH` (R385). Shifts a register left 18 and ORs in an immediate. -/
  | lensLdih (d : Fin 8) (imm : BitVec 18)
  /-- `LENS_LDC` (R385). Loads a session counter. -/
  | lensLdc (d : Fin 8) (imm : BitVec 18)
  /-- `LENS_ADD` (R385). Adds two Lens registers. -/
  | lensAdd (d a b : Fin 8)
  /-- `LENS_SUB` (R385). Subtracts two Lens registers. -/
  | lensSub (d a b : Fin 8)
  /-- `LENS_AND` (R385). Bitwise AND of two Lens registers. -/
  | lensAnd (d a b : Fin 8)
  /-- `LENS_OR` (R385). Bitwise OR of two Lens registers. -/
  | lensOr (d a b : Fin 8)
  /-- `LENS_XOR` (R385). Bitwise XOR of two Lens registers. -/
  | lensXor (d a b : Fin 8)
  /-- `LENS_SHL` (R385). Shifts a Lens register left. -/
  | lensShl (d a b : Fin 8)
  /-- `LENS_SHR` (R385). Shifts a Lens register right logically. -/
  | lensShr (d a b : Fin 8)
  /-- `LENS_ADDI` (R385). Adds a sign-extended immediate. -/
  | lensAddi (d a : Fin 8) (imm : BitVec 18)
  /-- `LENS_ANDI` (R385). ANDs with a zero-extended immediate. -/
  | lensAndi (d a : Fin 8) (imm : BitVec 18)
  /-- `LENS_BEQ` (R385). Branches forward if equal. -/
  | lensBeq (a b : Fin 8) (imm : BitVec 18)
  /-- `LENS_BNE` (R385). Branches forward if not equal. -/
  | lensBne (a b : Fin 8) (imm : BitVec 18)
  /-- `LENS_BLTU` (R385). Branches forward if less, unsigned. -/
  | lensBltu (a b : Fin 8) (imm : BitVec 18)
  /-- `LENS_BLT` (R385). Branches forward if less, signed. -/
  | lensBlt (a b : Fin 8) (imm : BitVec 18)
  /-- `LENS_KEEP` (R385). Verdict: writes the record to the ring. -/
  | lensKeep
  /-- `LENS_DROP` (R385). Verdict: discards the record. -/
  | lensDrop
  /-- `LENS_COUNT` (R385). Verdict: discards the record and adds a register to a counter. -/
  | lensCount (a : Fin 8) (imm : BitVec 18)
  /-- `LENS_TRIG` (R385). Verdict: keeps the record and may ring the fog-bell. -/
  | lensTrig (imm : BitVec 18)
  /-- `SPLIT_IMPLICIT_MERGE` (R94). Two equal, non-waiting splits merge without a JOIN before one issues. -/
  | splitImplicitMerge (core slot i j : Nat)
  /-- `JOIN_MERGE` (R92). When every carrier waits at the JOIN, the waiters merge or trap JOIN_MISMATCH. -/
  | joinMerge (core slot : Nat) (t : Tern 8)
  /-- `GROUP_END` (R109). After counters drain and the side log replays, the last EXIT ends the group or raises a deferred fault. -/
  | groupEnd (core slot : Nat)
  /-- `LOAD_RETURN` (R184). A load's data returns and is written, or its deferred fault is recorded. -/
  | loadReturn (core slot k : Nat) (part : Option Nat := none)
  /-- `STORE_RETURN` (R184). A store's lanes take their places in coherence order and its counter falls. -/
  | storeReturn (core slot k : Nat)
  /-- `SIDE_LOG_REPLAY` (R359). A side-log entry is replayed once its page is served. -/
  | sideLogReplay (core : Nat)
  /-- `SIDE_LOG_DISCARD` (R361). An entry whose page will not be served is discarded and a deferred PAGE_NOT_PRESENT recorded. -/
  | sideLogDiscard (core : Nat)
  /-- `WALKER_START` (R371). The walker group starts for the next queued TLB miss. -/
  | walkerStart (core : Nat)
  /-- `WALK_TIMEOUT` (R372). A walk longer than 4,096 cycles ends with WALKER_FAULT and resets the walker. -/
  | walkTimeout (core : Nat)
  /-- `MMP_PAGE_SERVICE` (R374). The memory-management processor serves a walk that ended with TRAP 1. -/
  | mmpPageService (k frame : Nat)
  /-- `MMP_ENTRY_CHANGE` (R374). The memory-management processor rewrites a page-table entry and invalidates TLBs. -/
  | mmpEntryChange (domain : Nat) (va : Addr) (level : Nat) (entry : Word)
  /-- `BAD_PAGE_ADD` (R377). System software asks for a frame to be added to the bad-page list. -/
  | badPageAdd (frame : Nat)
  /-- `WAITP_COMPLETE` (R211). The awaited in-flight counter falls to its bound and the split continues. -/
  | waitpComplete (core slot split : Nat)
  /-- `WAITGE_COMPLETE` (R212). The completion counter reaches its target and its value is written. -/
  | waitgeComplete (core slot split : Nat)
  /-- `BWAIT_COMPLETE` (R213). The barrier word changes phase, reaches zero or shows a fault mark. -/
  | bwaitComplete (core slot split : Nat)
  /-- `WAIT_TIMEOUT` (R212). A WAITGE or SWAIT wait passes the launch's wait timeout. -/
  | waitTimeout (core slot split : Nat)
  /-- `BARRIER_TIMEOUT` (R213). A BWAIT passes the launch's wait timeout. -/
  | barrierTimeout (core slot split : Nat)
  /-- `BAR_COMPLETE` (R214). Every group of the crew has arrived and the barrier completes. -/
  | barComplete (launch core crew n : Nat)
  /-- `RBAR_COMPLETE` (R215). Every group of the sub-rectangle has arrived and the barrier completes. -/
  | rbarComplete (launch x y : Nat) (imm : Tern 8)
  /-- `XBAR_COMPLETE` (R216). MEMBERS devices have arrived and the generation number is written. -/
  | xbarComplete (launch others : Nat)
  /-- `XBAR_TIMEOUT` (R216). An XBAR wait passes its TIMEOUT. -/
  | xbarTimeout (core slot split : Nat)
  /-- `XBAR_MEMBER_LOST` (R216). A gang member is lost after GO and surviving members trap at XBAR. -/
  | xbarMemberLost (launch : Nat)
  /-- `SLEEP_END` (R222). The sleep count expires and the split continues. -/
  | sleepEnd (core slot split : Nat)
  /-- `TKLD_WAIT_ALLOCATE` (R251). A blocking TKLD waiting at a full slice takes an entry as one frees. -/
  | tkldWaitAllocate (slice : Nat)
  /-- `TICKET_SNAPSHOT_COMPLETE` (R246). A mooring snapshot completes and the entry becomes MOORED or a locked redemption proceeds. -/
  | ticketSnapshotComplete (slice entry : Nat)
  /-- `TICKET_DELIVERY_COMPLETE` (R257). A redemption's delivery is written and the entry becomes FREE, REDEEMED. -/
  | ticketDeliveryComplete (slice entry : Nat)
  /-- `TICKET_AGE_EXPIRY` (R250). A moored entry's age passes the launch limit and it is reclaimed. -/
  | ticketAgeExpiry (slice entry : Nat)
  /-- `TCOPY_TILE_COMPLETE` (R276). A target tile of a tensor copy is written, published if asked, and arrives at the barrier. -/
  | tcopyTileComplete (job plane tile : Nat)
  /-- `TCOPY_JOB_COMPLETE` (R242). A tensor copy job completes and releases held jobs. -/
  | tcopyJobComplete (job : Nat)
  /-- `DIRECTORY_UNPINNED_UPDATE` (R283). A PUBLISH or WITHDRAW delayed by pins takes effect once PINS reaches 0. -/
  | directoryUnpinnedUpdate (core slot split : Nat)
  /-- `MIGRATE_FIRST_STEP` (R304). Once the source is unpinned, it becomes FORWARDED and the destination INCOMING. -/
  | migrateFirstStep (core slot split : Nat)
  /-- `MIGRATE_SECOND_STEP` (R304). After the engine copy, the destination becomes LIVE, the source FREE, and the barrier is arrived at. -/
  | migrateSecondStep (job : Nat)
  /-- `CENSUS_KEY_ARRIVAL` (R286). A key reaches a cluster node, matches and pins entries. -/
  | censusKeyArrival (census cluster : Nat)
  /-- `RESPONDER_START` (R290). A responder group starts once a slot, registers and LIVE entries are available. -/
  | responderStart (census core launch crew : Nat)
  /-- `CENSUS_COMPLETE` (R286). All responders have finished and completion reaches the asker's core. -/
  | censusComplete (census : Nat)
  /-- `MATRIX_UNIT_COMPLETE` (R323). A matrix unit or micro-tile completes and writes its C elements. -/
  | matrixUnitComplete (instr : Nat)
  /-- `MATRIX_INSTR_COMPLETE` (R320). A queued matrix instruction completes, recording any deferred fault or barrier arrival. -/
  | matrixInstrComplete (instr : Nat)
  /-- `CONTEXT_END` (R308). A sequencer context ends after its matrix instructions complete, releasing claims. -/
  | contextEnd (core slot : Nat)
  /-- `DOORBELL_WRITE` (R335). A notify-register write updates WRITE and sets the pending-kick bit. -/
  | doorbellWrite (port queue value : Nat) (relaxed : Bool := false)
  /-- `QUEUE_VISIT` (R342). Daymark visits a queue in round order, credits it and accepts head packets. -/
  | queueVisit (queue : Nat)
  /-- `LAUNCH_PACKET` (R338). Daymark accepts a LAUNCH packet after reading its argument block. -/
  | launchPacket (queue : Nat)
  /-- `COPY_PACKET` (R339). Daymark accepts a COPY packet and starts its engine job. -/
  | copyPacket (queue : Nat)
  /-- `COPY_JOB_COMPLETE` (R242). An engine COPY job completes and signals its counter. -/
  | copyJobComplete (job : Nat)
  /-- `WAITC_PACKET` (R340). Daymark accepts a WAITC packet that blocks later packets. -/
  | waitcPacket (queue : Nat)
  /-- `WAITC_SATISFIED` (R340). The WAITC counter reaches VALUE and the queue proceeds. -/
  | waitcSatisfied (queue : Nat)
  /-- `WAITC_TIMEOUT` (R340). A WAITC passes its timeout and the queue stops. -/
  | waitcTimeout (queue : Nat)
  /-- `GANG_PACKET` (R340). Daymark accepts a GANG packet announcing the next LAUNCH as a gang member. -/
  | gangPacket (queue : Nat)
  /-- `MARKER_PACKET` (R340). A MARKER completes on acceptance, emitting records and adding its increment. -/
  | markerPacket (queue : Nat)
  /-- `LAUNCH_START` (R343). An accepted LAUNCH takes its sequencer contexts once every cluster has one free. -/
  | launchStart (launch : Nat)
  /-- `CREW_PLACE` (R343). A crew is placed on a core once its resources are free, and its groups start. -/
  | crewPlace (launch core crew : Nat)
  /-- `CREW_END` (R344). A crew ends once its groups, responders and jobs are done. -/
  | crewEnd (launch core crew : Nat)
  /-- `LAUNCH_COMPLETE` (R344). All crews and contexts have ended; tickets are reclaimed and a completion record queued. -/
  | launchComplete (launch : Nat)
  /-- `COMPLETION_RECORD_RELEASE` (R351). A journalled completion record is released, written to rings and its counter added. -/
  | completionRecordRelease
  /-- `GANG_ARM` (R350). A gang member's resources fit, are reserved, and ARMED is sent to the coordinator. -/
  | gangArm (launch : Nat)
  /-- `GANG_ARMED_RECEIVE` (R350). The coordinator receives ARMED and sends GO once it holds MEMBERS reports. -/
  | gangArmedReceive (gang member : Nat)
  /-- `GANG_GO` (R350). A member receives GO and places its crews. -/
  | gangGo (launch : Nat)
  /-- `GANG_DISARM` (R350). A member receives DISARM or loses the link and releases its reservations. -/
  | gangDisarm (launch : Nat)
  /-- `GANG_ARM_TIMEOUT` (R350). The coordinator's arm timeout expires before GO and DISARM is sent. -/
  | gangArmTimeout (launch : Nat)
  /-- `SLICE_EXPIRY` (R345). A share's time slice expires and Daymark may pre-empt it. -/
  | sliceExpiry (launch cluster : Nat)
  /-- `PREEMPT_REQUEST` (R345). System software asks Daymark to pre-empt a share. -/
  | preemptRequest (launch cluster : Nat)
  /-- `SHARE_SAVE` (R349). A share is stopped, drained and saved to device memory. -/
  | shareSave (launch cluster : Nat) (area : Bool)
  /-- `DRAIN_TIMEOUT` (R347). A draining share not ended within 2 × DRAIN µs is saved. -/
  | drainTimeout (launch cluster : Nat)
  /-- `SHARE_RESTORE` (R349). A saved share is restored on its cores, side log replayed first. -/
  | shareRestore (launch cluster : Nat)
  /-- `SWAP_IN` (R349). The page of a swapped-out share is served and the share re-enters the distributor. -/
  | swapIn (launch cluster : Nat)
  /-- `DAYMARK_FAILOVER` (R351). An uncorrectable Daymark instruction-memory error hands scheduling to the standby core. -/
  | daymarkFailover
  /-- `CREW_EXIT_OUTSTANDING` (R365). A crew still waiting to end after WAITTO is reported once in a trace record. -/
  | crewExitOutstanding (launch core crew : Nat)
  /-- `TRACE_RECORD_ACCEPT` (R383). A Lantern core accepts a record, runs Lens and writes kept records to the ring. -/
  | traceRecordAccept (k : Nat)
  /-- `PC_SAMPLE` (R395). Each sampling period a core samples one group slot. -/
  | pcSample (core : Nat)
  /-- `LANE_INTERVAL_END` (R398). At each lane interval a core emits LANES records per bin. -/
  | laneIntervalEnd (core : Nat)
  /-- `ENERGY_INTERVAL_END` (R401). At each 1 µs interval energy is charged to accounts and ENERGYCR updated. -/
  | energyIntervalEnd
  /-- `PC_BREAK_STOP` (R388). A split whose next instruction lies at an enabled PC break stops before it. -/
  | pcBreakStop (core slot split : Nat)
  /-- `WATCHPOINT_STOP` (R388). An access touching a watchpoint stops its split once the instruction has returned. -/
  | watchpointStop (core slot split : Nat)
  /-- `SINGLE_STEP_STOP` (R388). The stepped instruction completes and the group stops with SINGLE_STEP. -/
  | singleStepStop (core slot : Nat)
  /-- `DBG_HALT` (R418). Debug command that rings the fog-bell for a launch. -/
  | dbgHalt (launch : Nat)
  /-- `DBG_RELEASE` (R390). Debug command that resumes a halted launch. -/
  | dbgRelease (launch : Nat)
  /-- `DBG_END` (R390). Debug command that aborts a halted launch. -/
  | dbgEnd (launch : Nat)
  /-- `DBG_STEP` (R388). Debug command that single-steps a named split. -/
  | dbgStep (launch core slot split : Nat)
  /-- `DBG_DUMP` (R392). Debug command that writes a dump of a halted launch. -/
  | dbgDump (launch hostAddr size : Nat)
  /-- `DBG_DEBUGSET` (R387). Debug command that writes a launch's debug set. -/
  | dbgDebugset (launch : Nat) (set : DebugSet)
  /-- `DBG_SESSION` (R382). Debug command that writes a trace session descriptor and loads its Lens program. -/
  | dbgSession (launch session : Nat) (desc prog : List (BitVec 8))
  /-- `DBG_READST` (R418). Debug command that reads state of a halted launch. -/
  | dbgReadst (launch core slot kind : Nat)
  /-- `MEMORY_READ` (R408). A host read through a MEMORY aperture. -/
  | memoryRead (port offset len : Nat)
  /-- `MEMORY_WRITE` (R408). A host write through a MEMORY aperture. -/
  | memoryWrite (port offset : Nat) (data : List (BitVec 8)) (relaxed : Bool)
  /-- `INBOUND_WRITE_ACK` (R409). A compute die acknowledges an inbound write and held requests are forwarded. -/
  | inboundWriteAck (port k : Nat)
  /-- `SEM_READ` (R406). A read of a hardware semaphore acquires it or reports its holder. -/
  | semRead (port n : Nat)
  /-- `SEM_WRITE` (R406). A write of 0 by the holder frees a semaphore. -/
  | semWrite (port n value : Nat) (relaxed : Bool := false)
  /-- `CTRL_WRITE` (R404). A write to a CTRL register without behaviour of its own. -/
  | ctrlWrite (port offset width value : Nat) (relaxed : Bool := false)
  /-- `PEER_REQUEST` (R413). A peer request arrives and is translated through the IMPORT table or refused. -/
  | peerRequest (device domain : Nat) (req : PeerReq)
  /-- `PCIE_LINK_DOWN` (R406). A host port's link goes down, freeing its semaphores and posting LINK_DOWN. -/
  | pcieLinkDown (port : Nat)
  /-- `SCALEUP_LINK_DOWN` (R412). A scale-up link goes down and outstanding requests fail. -/
  | scaleupLinkDown (port : Nat)
  /-- `PTM_ALIGN` (R223). The host aligns the device time base by Precision Time Measurement. -/
  | ptmAlign (ns : Nat)
  /-- `LOADKEY` (R415). Security mailbox command that unwraps and loads a key slot. -/
  | loadkey (slot domain : Nat) (debug : Bool) (pub blob : List (BitVec 8))
  /-- `UNLOADKEY` (R415). Security mailbox command that clears an unused key slot. -/
  | unloadkey (slot : Nat)
  /-- `ATTEST` (R417). Returns a signed attestation report over a nonce. -/
  | attest (nonce : List (BitVec 8))
  /-- `STARTINFO` (R421). Returns the start record. -/
  | startinfo
  /-- `CLEARSTART` (R420). Sets the failed-start count to 0 and requests a start. -/
  | clearstart
  /-- `POWERCAP` (R422). Sets or returns the package power limit. -/
  | powercap (watts : Option Nat)
  /-- `START` (R419). Power-on or reset runs the start sequence to READY or a failed start. -/
  | start (failure : Option StartFailure) (images : List Image := [])
  /-- `THERMAL_SAMPLE` (R424). Every 10 µs each die measures its temperature and applies the thermal response. -/
  | thermalSample (die temp : Nat)
  /-- `LONG_LATENCY_UNIT_RESULT` (R119). The divider or the long-latency float unit delivers a scoreboarded DIV, REM, FDIV, FSQRT, FRCP, FRSQ, FEXP3 or FLOG3 result and frees the unit. -/
  | longLatencyUnitResult (core slot k : Nat)
  /-- `SOFT_ERROR` (R27). A trit of an on-chip array or a DRAM word is corrupted, leading later to a corrected count or an uncorrectable cause or POISON. -/
  | softError (site : ErrorSite)
  /-- `POWER_FAILURE` (R238). Power fails and writes still in an HBM controller's queue are lost. -/
  | powerFailure
  /-- `SCALEUP_LINK_UP` (R412). A scale-up link comes up and routing again uses the lowest-numbered port of each ROUTE mask whose link is up. -/
  | scaleupLinkUp (port : Nat)
  /-- `RDPTR_WRITE` (R383). The host writes a trace session's read pointer, freeing ring space so that a pending TRACE_BUFFER_FULL EVENT enters the ring. -/
  | rdptrWrite (session value : Nat)
  /-- `HOST_RESERVE_CLAIM` (R335). The host claims a queue slot by compare-and-swap of RESERVE when i < READ + 2^LOGSLOTS. -/
  | hostReserveClaim (queue index : Nat)
  /-- `KEY_SLOT_LOAD_COMPLETE` (R374). The security processor finishes or refuses loading a key slot that the memory-management processor asked for, so the access proceeds or raises KEY_UNAVAILABLE. -/
  | keySlotLoadComplete (slot : Nat) (loaded : Bool)
  /-- A read of the CTRL window (R404): the other half of the host access of which `CTRL_WRITE` is one. -/
  | ctrlRead (port offset width : Nat)
  /-- The memory-management processor writes an entry of the outbound table as system software asks (R410), as `MMP_ENTRY_CHANGE` writes one of a
  page table. -/
  | outboundWrite (entry bus port : Nat) (valid : Bool)
  /-- A read of host memory completes with Unsupported Request, Completer Abort or a poisoned completion (R410): that of load `k`, another way in
  which `LOAD_RETURN` comes about, or that of a split's `WAITGE` or next `RECLD`. -/
  | hostReadFail (core slot k : Nat) (split : Option Nat := none)
  /-- A peer member of a gang is switched out, or has returned: its proxy absence token comes or goes (R216), which bears on `XBAR_COMPLETE`. -/
  | peerAbsence (gang member : Nat) (absent : Bool)
  /-- System software reads an energy coefficient or the device account (R399, R401), which `ENERGY_INTERVAL_END` keeps. -/
  | energyRead (k : Nat)
  /-- A `TCOPY` job has written one tryte of a tile that is not complete (R243), ahead of its `TCOPY_TILE_COMPLETE`. -/
  | tcopyTryte (job tile idx : Nat)
  /-- A COPY job has moved one tryte while it is not complete (R243), ahead of its `COPY_JOB_COMPLETE`. -/
  | copyTryte (job idx : Nat)
deriving DecidableEq, Repr

end Sys2Proof
end

