-- ==== Sys2Proof/Machine/State.lean ====
section
/-! DEFINITION. The state of the machine: everything the spec gives it, as plain data. -/

namespace Sys2Proof.Machine

/-- Why the machine stops with a fault. -/
inductive Fault where
  /-- Raised by a Torade instruction when `State.cur` names no live split: there is nothing to execute it. Safe: the
  hardware never issues an instruction for a split that does not exist. -/
  | noExecutor
  /-- Raised by a Lens instruction when no record is being filtered. Safe: the hardware never issues one then. -/
  | noRecord
deriving DecidableEq, Repr

/-- Why the machine refuses. -/
inductive Refusal where
  /-- Raised by an arm of `exec` whose instruction has no meaning yet. Safe: nothing is claimed of it. -/
  | notModelled (mnemonic : String)
deriving DecidableEq, Repr

/-! ## Where trytes lie -/

/-- The place of one tryte (R162 to R169). -/
inductive Loc where
  /-- tryte `pos` of the page that a packed frame holds (R168) -/
  | packed (frame pos : Nat)
  /-- byte `pos` of a binary frame (R169) -/
  | binary (frame pos : Nat)
  /-- tryte `idx` of a core's typed buffer, `path` 0 A, 1 W, 2 C (R20, R166) -/
  | buf (core path idx : Nat)
  /-- the byte at a host bus address, reached through a port (R170, R410) -/
  | host (port addr : Nat)
  /-- a tryte of another device, by the index of its global address there (R165) -/
  | peer (dev addr : Nat)
deriving DecidableEq, Repr

/-- One lane's element of an access: its trytes in rising address order, and for a store their values (R191). -/
structure LaneAcc where
  lane : Nat
  locs : List Loc
  /-- the virtual address of the first tryte, for watchpoints and the side log -/
  va : Addr
  /-- the values stored, one a tryte -/
  data : List Tryte
  /-- whether the access looks in L1 and allocates there, and whether it allocates in L2 (R172, R368) -/
  l1 : Bool
  l2 : Bool
  /-- the path as R233 tells paths apart: 0 paths 0 and +2, 1 path +1, 2 own buffer, 3 peer buffer, 4 path +3, 5 path +4 -/
  cls : Nat
  /-- the path is +2 (R233) -/
  stream : Bool
  /-- the B operand and the compare value of an atomic (R194) -/
  b : Addr
  cmp : Addr
  /-- the scale-up port on which it left for a peer device (R412) -/
  port : Option Nat := none
deriving DecidableEq, Repr

/-- What an access in flight does. -/
inductive AccKind where
  | load
  | store
  /-- `toReg`: the atomic has a destination; without one it is a reduction (R177) -/
  | atomic (op : AtomOp) (toReg : Bool)
  /-- the cache write-back of `CFLUSH`, which counts on GS (R220) -/
  | flush
  /-- the snapshot of a `TKLD`, which counts on GL until its entry is MOORED (R255) -/
  | snapshot (slice entry : Nat)
  /-- the delivery of a `REDEEM`, which counts on GL until the registers are written (R257) -/
  | delivery (slice entry : Nat)
deriving DecidableEq, Repr

/-- The conversion a record asks for (R178 to R181, R442). -/
structure Conv where
  enc : Nat
  policy : Int
  count : Nat
  scale : Word
  cslot : Int
  float : Bool
deriving DecidableEq, Repr

/-- A load's destination: the file, the first register, how many words, and the width in trits of what it holds. -/
structure Dest where
  vec : Bool
  reg : Nat
  words : Nat
deriving DecidableEq, Repr

/-- An access in flight (R184): held from issue until every older access of its counters has returned. -/
structure Access where
  /-- issue order within the group -/
  seq : Nat
  kind : AccKind
  pc : Addr
  split : Nat
  /-- the splits whose later accesses it precedes, and those of them that a `JOIN` has ordered after it (R96) -/
  before : List Nat
  joined : List Nat
  /-- the number of the counter that a deferred fault names (R200 INFO, R187) -/
  path : Nat
  /-- the in-flight counters it counts on (R184) -/
  counters : List Nat
  lanes : List LaneAcc
  dest : Option Dest
  /-- lanes of a destination register that a later instruction has since written (R74) -/
  killed : List (Nat × BitVec 32)
  conv : Option Conv
  /-- trytes of an element: 1, 3 or 6 -/
  size : Nat
  /-- the region state of its split at issue (R186) -/
  region : Option Addr
  ecount : Word
  /-- it has returned, and waits for older accesses before its counters fall -/
  done : Bool
  acq : Bool
  rel : Bool
  scope : Nat
  /-- counted conversion events of a store: lane, and 0 saturation, 1 flush, 2 NaN-or-infinity (R181, R183) -/
  events : List (Nat × Nat)
  /-- its split is held until the data returns (paths +3 and +4, R177) -/
  hold : Bool
  /-- index of the watchpoint that it touches (R388) -/
  watch : Option Nat
  /-- trytes that a load has read before it returns, since its trytes may be read one after another (R228, R243): lane, place in the
  element, value -/
  early : List (Nat × Nat × Tryte) := []
deriving DecidableEq, Repr

/-- A recorded deferred fault (R186). -/
structure Deferred where
  seq : Nat
  cause : Cause
  lane : Nat
  path : Nat
  pc : Addr
  split : Nat
  region : Option Addr
  ecount : Word
  dest : Option Dest
  /-- the cycle in which it was recorded (R355) -/
  at_ : Nat
deriving DecidableEq, Repr

/-- A scoreboarded result of the divider or the long-latency float unit, computed and not yet delivered (R73, R119, R146). -/
structure LongRes where
  split : Nat
  /-- the lanes whose later reads come after it: those of its split, and those that a `JOIN` has ordered after it (R96, R130) -/
  lanes : BitVec 32
  vec : Bool
  /-- each register with its lanes and values; lane 0 for a scalar register -/
  parts : List (Nat × List (Nat × Word))
  /-- the flags that its delivery adds to FSTAT (R48) -/
  flags : Flags
  /-- float unit, or the divider -/
  float : Bool
deriving DecidableEq, Repr

/-- A result of fixed latency that is not yet guaranteed (R71, R72, R75). -/
structure Pend where
  /-- 0 vector, 1 scalar, 2 predicate -/
  file : Nat
  reg : Nat
  lam : Nat
  /-- G from the writing instruction to the next one of the split -/
  dist : Nat
  /-- the values before the write, by lane -/
  old : List (Nat × Word)
deriving DecidableEq, Repr

/-! ## Tile directories and engine jobs -/

/-- A tile address of a crew: what a directory entry is found by (R282, R283). `buf` is 0 A or 1 W. -/
structure DirAt where
  core : Nat
  launch : Nat
  crew : Nat
  buf : Nat
  pos : Nat
deriving DecidableEq, Repr

/-- A directory event that waits for pins (R283, R301, R302, R304). -/
inductive DirOp where
  | publish (at_ : DirAt) (tensor : Word) (row col : Int)
  /-- the register of its result -/
  | withdraw (at_ : DirAt) (dest : Nat)
  /-- source, destination and the places of the barrier word -/
  | migrate (src dst : DirAt) (barrier : List Loc)
deriving DecidableEq, Repr

/-- The options of a `TCOPY` and its box (R268). -/
structure CopyOpts where
  trans : Bool
  conj : Bool
  smooth : Bool
  gather : Bool
  pub : Bool
  brows : Nat
  bcols : Nat
  fh : Int
  fw : Int
  row0 : Int
  col0 : Int
deriving DecidableEq, Repr

/-- A layout record as a copy uses it (R263, R266). -/
structure Layout where
  base : Addr
  tensor : Word
  elt : Int
  enc : Nat
  policy : Int
  cslot : Int
  tiled : Bool
  complex : Bool
  rows : Int
  cols : Int
  rstride : Int
  pstride : Int
  scale : Word
  imgh : Int
  imgw : Int
  batch : Int
  step : Int
  padh : Int
  padw : Int
  padval : Word
  smooth : Int
  outh : Int
  outw : Int
deriving DecidableEq, Repr

/-- A region that an engine job reads or writes: a global range of a domain, or a range of a core's buffer (R240). -/
structure Foot where
  global : Bool
  /-- the domain, or 3 · core + path -/
  space : Nat
  lo : Int
  hi : Int
  write : Bool
deriving DecidableEq, Repr

/-- What a job of a copy request unit does (R268 to R274, R304). -/
inductive TcWork where
  /-- a tensor copy: its record, options, smoothing factors by column, the frames of its source pages (binary or not, and
  frame), and its target: core, path and first tile -/
  | tcopy (lay : Layout) (o : CopyOpts) (factors : FMap Word) (pages : FMap (Bool × Nat)) (core path tile0 : Nat)
  /-- a migration: the keys of its two directory entries, and its source and destination tiles as core, path and tile -/
  | migrate (src dst : Nat) (from_ to_ : Nat × Nat × Nat)
deriving DecidableEq, Repr

/-- An accepted, incomplete `TCOPY` or `MIGRATE` job (R269, R304). -/
structure TcJob where
  /-- the core whose copy request unit accepted it, and its launch and domain -/
  core : Nat
  launch : Nat
  domain : Nat
  work : TcWork
  barrier : List Loc
  /-- crews whose buffers it touches: (core, crew) -/
  crews : List (Nat × Nat)
  /-- tiles complete: (plane, tile); a tile's data is written with its plane 0 -/
  done : List (Nat × Nat)
  /-- the first fault in the order of R272: plane, tile, row, column, and the cause's code -/
  fault : Option (List Nat × Nat)
  foot : List Foot
  /-- earlier jobs that it waits for (R241) -/
  waits : List Nat
  /-- trytes that it has written before their tile is complete, each once (R243): by tile, the trytes of its planes -/
  early : FMap (List Nat) := []
  /-- the codes of the elements that it has read so, by 243 · tile + element (R243, R271) -/
  fixed : FMap (List Int) := []
deriving DecidableEq, Repr

/-! ## Splits and groups -/

/-- What a split waits for (R98, R217). -/
inductive Wait where
  | none
  /-- its next instruction could not yet issue: an operand, a full counter, a translation, an earlier access (R98) -/
  | blocked
  /-- its next instruction reads a result that has not been delivered (R73, R98) -/
  | stalled
  /-- its next instruction found a full in-flight counter or a busy unit (R184, R119, R146) -/
  | full
  /-- at a `JOIN` in wait mode (R92) -/
  | join (token : Int)
  /-- in-flight counter and bound (R211) -/
  | waitp (path : Nat) (bound : Nat)
  /-- the eight bytes' places, the target, the destination pair, when the wait began, the last value read (R212) -/
  | waitge (locs : List Loc) (target : Nat) (dest : Nat) (since last : Nat)
  /-- the barrier word's place, the phase of interest, the destination, when the wait began (R213) -/
  | bwait (locs : List Loc) (phase : Int) (dest : Nat) (since : Nat) (last : Word)
  | bar (n : Nat)
  | rbar (imm : Tern 8)
  /-- members, timeout in µs, destination, when the wait began (R216) -/
  | xbar (members timeout dest since : Nat)
  /-- the cycle at which it ends (R222) -/
  | sleep (until_ : Nat)
  /-- at a `SWAIT`: the census slot, its generation, the destination, when the wait began, and its place in the order in which requests
  reached the slot (R300) -/
  | swait (census : Nat) (gen : Int) (dest since ask : Nat)
  /-- a blocking `TKLD` at a full slice, and its place in the slice's arrival order (R251) -/
  | tkld (slice seq : Nat)
  /-- a redemption of a mooring entry that its slice has not yet accepted (R256) -/
  | redeem (slice entry : Nat)
  /-- a `PUBLISH`, `WITHDRAW` or `MIGRATE` delayed by pins (R283, R304) -/
  | pins (op : DirOp)
  /-- a load on path +3 or +4, a redemption, or an access that touches a watchpoint, held until it returns (R177, R256,
  R388) -/
  | held (seq : Nat)
  /-- the held access has returned, and the split is to stop for its watchpoint (R388) -/
  | watched (index : Nat)
  /-- the last `EXIT` of a group, waiting for its counters and side log (R109) -/
  | ending
deriving DecidableEq, Repr

/-- A fallback entry (R89). -/
structure Fallback where
  pc : Addr
  mask : BitVec 32
  parked : Bool
deriving DecidableEq, Repr

/-- A split record (R89). -/
structure Split where
  idx : Nat
  pc : Addr
  mask : BitVec 32
  /-- the place in the arbitration order: smaller is older -/
  age : Nat
  waitCount : Nat
  /-- join tokens, the top first -/
  tokens : List Int
  /-- fallback entries, the top first -/
  falls : List Fallback
  /-- the region-entry PC, when inside a region -/
  region : Option Addr
  ecount : Word
  wait : Wait
  /-- the address that its last `BWAIT` or `WAITGE` names (R393) -/
  waitAt : Addr
  /-- the first cycle in which R71 and R103 let it issue -/
  nextAt : Nat
  pend : List Pend
  /-- the PC break at which it has already stopped, so that the instruction issues without a second break (R388) -/
  passBreak : Bool
  /-- the lanes active for the instruction that it last issued (R378) -/
  lastAct : BitVec 32
deriving DecidableEq, Repr

/-- A value that a vector register lane held, as a cross-lane read may still see it (R130): the key 32 · register + lane, the value, and
the lanes whose reads come after the replacement: those of the split that made it, and those that a `JOIN` has since ordered after it
(R96). -/
structure Hist where
  key : Nat
  val : Word
  hidden : BitVec 32
deriving DecidableEq, Repr

/-- Flags of results of fixed latency that are not yet written (R48): the split, and the cycle at which they are, when FSTAT takes them. -/
structure LateFlags where
  split : Nat
  due : Nat
  flags : Flags
deriving DecidableEq, Repr

/-- A trap to be taken: the cause, its lane and INFO, the EPC, and for a deferred fault the trigger and the recorded region
state (R200, R205). -/
structure TrapInfo where
  cause : Cause
  lane : Nat := 0
  info : Int := 0
  epc : Addr
  /-- the trigger PC, and the region-entry PC and count recorded with the fault -/
  deferred : Option (Addr × Option Addr × Word) := none
deriving DecidableEq, Repr

/-- How a group stands. -/
inductive Status where
  | running
  /-- stopped under step 3 of R205 or by a debug cause -/
  | stopped (cause : Cause) (split : Nat)
  /-- stopped by a fog-bell, to resume at RELEASE (R389) -/
  | halted (cause : Cause)
deriving DecidableEq, Repr

/-- What a responder group answers (R290). -/
structure Responder where
  census : Nat
  gen : Int
  handle : Word
  replied : Bool
  /-- directory entries matched: their indices -/
  hits : List Nat
deriving DecidableEq, Repr

/-- A miss that the walker serves (R371, R199): the address, its domain, and its requester. -/
structure Miss where
  core : Nat
  domain : Nat
  va : Addr
  /-- -1 load, 0 store, +1 fetch -/
  access : Int
  path : Int
  /-- the requester's group key and split -/
  key : Nat
  split : Nat
deriving DecidableEq, Repr

/-- The matrix side of a sequencer context (R305, R308, R323). -/
structure CtxState where
  binding : Nat
  ksplit : Nat
  claims : List Nat
  sat : Word
  ovf : Word
  flush : Word
  nan : Word
  records : List (List Word)
  /-- matrix instructions issued (R332) -/
  issuedMx : Nat
  /-- the most recently issued `MMA` or `MMAC`: its job and its micro-tiles (R333) -/
  lastMma : Option (Nat × Nat)
  /-- the cycle at which it took its context, and its cycles and its arrays' passes in this accounting interval (R342, R399) -/
  since : Nat
  cycles : Nat
  passes : Nat
deriving DecidableEq, Repr

/-- A block of element tiles of a buffer (R312): core, path, first tile, type code, rows and columns. -/
structure MxRegion where
  core : Nat
  path : Nat
  tile : Nat
  ty : Int
  rows : Nat
  cols : Nat
deriving DecidableEq, Repr

/-- What a matrix instruction does on its array (R315 to R319, R328 to R331). -/
inductive MxOp where
  /-- `MLDW`: compressed or plain, the word past its allocation, and the smoothing factors -/
  | load (src : MxRegion) (comp : Bool) (limit : Nat) (factors : List Word)
  /-- `MMA` and `MMAC`: K of each array, BETA, FOVF, SATTRAP and the window precision -/
  | mma (a c : MxRegion) (k : Nat) (beta : Bool) (fovf : Int) (sattrap : Bool) (prec : Nat)
  | zero (d : MxRegion)
  | acc (d src : MxRegion) (fovf : Int) (sattrap : Bool)
  | out (c o : MxRegion) (neg : Bool) (shift : Int) (ovf : Int)
  /-- an `MMA` or `MMAC` issued on an array whose block was not decompressed: no effect (R328) -/
  | void
deriving DecidableEq, Repr

/-- A matrix instruction issued and not complete, or complete with a recorded fault (R320, R322). -/
structure MxJob where
  launch : Nat
  cluster : Nat
  /-- its place among the matrix instructions of its context, and in the issue order of its split (R362) -/
  nth : Nat
  seq : Nat
  op : MxOp
  /-- the cores whose arrays it uses, the executing one first (R318) -/
  arrays : List Nat
  words : List Word
  pc : Addr
  region : Option Addr
  ecount : Word
  /-- the D, A and B pairs as read at issue -/
  ops : List (Option Addr)
  crews : List (Nat × Nat)
  foot : List Foot
  /-- the places of the barrier word and the trytes of its arrival; no place for none (R331) -/
  barrier : List Loc
  arrive : Nat
  units : Nat
  done : List Nat
  /-- type tags that its issue replaced: tag key, old, new (R313) -/
  tags : List (Nat × Int × Int)
  fault : Option Cause
  complete : Bool
deriving DecidableEq, Repr

/-- The descriptor of the last `MLDW` issued on an array (R309, R324). -/
structure MxDesc where
  job : Nat
  ty : Int
  k : Nat
  n : Nat
  words : List Word
  waddr : Addr
  saddr : Option Addr
  op : MxOp
  /-- its stream could not be decompressed (R328) -/
  void : Bool
  /-- PC, region state and place in issue order of the `MLDW`, for a fault met when its block is loaded again (R324) -/
  seq : Nat
  pc : Addr
  region : Option Addr
  ecount : Word
  /-- the crew whose W buffer holds its block (R307, R309) -/
  crews : List (Nat × Nat)
deriving DecidableEq, Repr

/-- A loaded block (R309): its element parts by row and column, the check value of R324, and the `MLDW` that loaded it. -/
structure MxBlock where
  els : List (List (List Int))
  check : Word
  desc : MxDesc
deriving DecidableEq, Repr

/-- The array of a core (R309). -/
structure MxArray where
  desc : Option MxDesc
  block : Option MxBlock
  /-- the last `MLDW` executed on it failed (R328) -/
  void : Bool
deriving DecidableEq, Repr

/-- A group, a responder group, the walker, or a sequencer context run as a group of one lane (R86, R114, R371). -/
structure Group where
  core : Nat
  /-- 0 to 190 a group, 191 the walker, 192 + n sequencer context n (R18, R378) -/
  slot : Nat
  launch : Nat
  crew : Nat
  /-- the group's index in its crew (R141) -/
  gidx : Nat
  /-- vector and scalar registers allocated (R63) -/
  nv : Nat
  ns : Nat
  /-- v registers, key 32 · register + lane -/
  v : FMap Word
  /-- s registers -/
  s : FMap Word
  /-- predicate registers, key 32 · register + lane -/
  p : FMap Trit
  splits : List Split
  /-- lanes that have left under EXIT (R87) -/
  absent : BitVec 32
  fstat : Flags
  /-- flags whose results are still to be written, and which FSTAT does not yet show (R48) -/
  late : List LateFlags
  cause : Word
  epc : Addr
  epc2 : Addr
  eregion : Addr
  ecount : Word
  tvec : Addr
  scheck : Bool
  role : Int
  hdepth : Nat
  /-- the split that entered the handler, and those held until it leaves: the splits live at the trap (R97, R205) -/
  trapSplit : Option Nat
  heldSplits : List Nat
  domain : Nat
  privileged : Bool
  /-- PERF counters 0 to 7 (R224) -/
  perf : List Nat
  /-- order of group starts, for ages (R99) -/
  startSeq : Nat
  nextAge : Nat
  nextSeq : Nat
  status : Status
  /-- values that registers held since the group last had one live split (R130) -/
  hist : List Hist
  infl : List Access
  faults : List Deferred
  longs : List LongRes
  resp : Option Responder
  walk : Option Miss
  /-- cycle at which the walk began (R372) -/
  walkAt : Nat
  /-- the walk has filled the page (R372), and a `TLBINV` has covered it meanwhile (R366) -/
  walkFilled : Bool
  walkStale : Bool
  ctx : Option CtxState
  /-- a split that the debugger steps (R388) -/
  stepping : Option Nat
  /-- a MARK of the group has been dropped since its last one (R381) -/
  markLoss : Bool
  /-- tiles that each split has stored to and that no fence of system scope has written on (R238): split, tile -/
  stored : List (Nat × Nat)
  /-- when it was last halted or stopped (R217) -/
  haltedAt : Nat
  /-- stopped at its boundaries because its share is being saved, restarted or aborted (R348, R349, R356) -/
  parked : Bool
  /-- the stepped split has issued its one instruction (R388) -/
  stepIssued : Bool
  /-- trits corrupted by soft errors in a register word since it was last written (R27): key 32 · register + lane for a vector
  register, 2^15 + 32 · register for a scalar register, 2^16 + register for a predicate register's word of 32 lanes -/
  bad : FMap Nat
  /-- a fault recorded and not yet taken, because its launch was halted at the same boundary: it is taken first on release (R366) -/
  pending : Option (Nat × TrapInfo)
  /-- the PERF counters as the last energy interval left them (R399) -/
  perfAt : List Nat
  /-- it has been released while its STOP record was held, and goes on once that is accepted (R381) -/
  resumeDue : Bool
deriving DecidableEq, Repr

/-! ## Caches, translation and the side log -/

/-- A tile copy in a core's L1 (R171, R172): its tag, its trytes as they were read, and the trits that soft errors have corrupted in its
words (R27). The tag is the tensor identifier, 0 for a tile of a linear page, with the coordinate. -/
structure L1Line where
  core : Nat
  tensor : Word
  tile : Nat
  ro : Bool
  data : List Tryte
  bad : FMap Nat
deriving DecidableEq, Repr

/-- A TLB entry (R370). `unit` is a core 0 to 255, or 256 + cluster. -/
structure TlbEntry where
  unit_ : Nat
  domain : Nat
  /-- the page number, or the number of the large page's first page -/
  page : Nat
  large : Bool
  pte : Word
deriving DecidableEq, Repr

/-- What a side-log entry does when replayed (R359). -/
inductive SideOp where
  | store (data : List Tryte)
  | reduce (op : AtomOp) (b cmp : Addr)
deriving DecidableEq, Repr

/-- A side-log entry (R359). -/
structure SideEntry where
  core : Nat
  va : Addr
  domain : Nat
  op : SideOp
  /-- the group key, split, PC, and region state at issue -/
  key : Nat
  split : Nat
  pc : Addr
  region : Option Addr
  ecount : Word
  seq : Nat
  /-- the access counter a deferred fault names: 1 GS or 4 HW -/
  path : Nat
  /-- none: waiting; some true: its page is served; some false: it will not be served -/
  served : Option Bool
  /-- it belongs to a release, which no earlier access of its split may follow, or to an acquire of a scope, which no later one may
  pass (R231, R232) -/
  rel : Bool
  acq : Bool
  scope : Nat
  /-- the splits whose later accesses it precedes, and those of them that a `JOIN` has ordered after it (R96) -/
  before : List Nat
  joined : List Nat
deriving DecidableEq, Repr

/-- A page whose walk ended with TRAP 1 and that the memory-management processor has still to serve (R374). -/
structure PageAsk where
  miss : Miss
deriving DecidableEq, Repr

/-- A region of a domain that system software has declared allocatable, with the trits and the key setting that its pages
receive (R374). -/
structure AllocRegion where
  domain : Nat
  page : Nat
  pages : Nat
  write : Trit
  mode : Trit
  cache : Trit
  tiling : Trit
  key : Option Nat
deriving DecidableEq, Repr

/-- A key slot of the security processor (R414, R415): the two keys of AES-256-XTS and the AES-CMAC key, its domain, and whether that domain
may be debugged. -/
structure KeySlot where
  xts1 : BitVec 256
  xts2 : BitVec 256
  cmac : BitVec 256
  domain : Nat
  debug : Bool
deriving DecidableEq, Repr

/-! ## Mooring tables -/

/-- The state of a mooring entry (R245). -/
inductive MoorState where
  | free | pending | moored | redeeming
deriving DecidableEq, Repr

/-- How a FREE entry last ended (R245). -/
inductive MoorEnd where
  | none | redeemed | stale
deriving DecidableEq, Repr

/-- Where an accepted redemption delivers (R257, R258). -/
inductive Redemption where
  /-- registers: the group key, the access sequence number, first register, mask -/
  | regs (key seq reg : Nat) (mask : BitVec 32)
  /-- a buffer: the target's place of word 0, and the barrier word's place -/
  | buffer (key : Nat) (target : List Loc) (barrier : List Loc)
deriving DecidableEq, Repr

/-- A mooring-table entry (R245). An entry never allocated is not listed: it is FREE with GEN 0 and END NONE. -/
structure Moor where
  state : MoorState
  gen : Int
  end_ : MoorEnd
  domain : Nat
  launch : Nat
  extent : Bool
  len : Nat
  data : List Word
  poison : Bool
  age : Nat
  /-- the places of the words to fetch, and the issuing access (R254, R255) -/
  src : List (List Loc)
  key : Nat
  seq : Nat
  /-- the redemption that holds the entry, and whether it is only locked, its acceptance waiting for the snapshot (R246) -/
  red : Option Redemption
  locked : Bool
  /-- the launch exited while PENDING (R246) -/
  exited : Bool
  /-- trits that soft errors have corrupted in its words (R27) -/
  bad : FMap Nat
deriving DecidableEq, Repr

/-! ## Launches, crews, queues -/

/-- A crew on its core (R83, R173, R178). -/
structure Crew where
  launch : Nat
  core : Nat
  idx : Nat
  /-- first tile of its A, W and C allocations, and tiles allocated -/
  base : List Nat
  tiles : List Nat
  records : List (List Word)
  placedAt : Nat
  /-- nanojoules charged, and its remainder in picojoules (R399) -/
  energy : Nat
  energyPj : Nat
  /-- its last group has ended, and since when (R365) -/
  lastEnd : Option Nat
  reported : Bool
  /-- reserved for a gang member that is armed: no group has started (R350) -/
  reserved : Bool
  /-- instructions that its ended groups issued (R346) -/
  instr : Nat
  /-- group-slot cycles in this accounting interval (R400), and the microjoules that `ENERGYCR` shows (R401) -/
  slotCycles : Nat
  energyCr : Nat
  /-- cycles that it was resident before its share was last restored (R346) -/
  residentCycles : Nat
  /-- tiles moved on its behalf in this accounting interval (R399) -/
  moved : Nat
deriving DecidableEq, Repr

/-- A footprint region (R240): start, extent, written. -/
structure Region where
  start : Addr
  extent : Nat
  write : Bool
deriving DecidableEq, Repr

/-- How a share of a launch stands (R345 to R349): one cluster's part. `saving` says whether a swap-out asked for the save. -/
inductive ShareState where
  | resident
  | draining (since : Nat)
  | saving (swap : Bool)
  | restarting
  | saved
  | swapped
deriving DecidableEq, Repr

/-- A share of a launch: the crews on one cluster's four cores and its context there (R345). -/
structure Share where
  cluster : Nat
  state : ShareState
  /-- cycles of its slice used -/
  slice : Nat
  savedGroups : List Group
  savedCrews : List Crew
  /-- its saved buffer words: (core, path, word index, value), and type tags -/
  savedBufs : FMap Word
  savedTags : FMap Int
  savedLog : List SideEntry
  /-- its matrix instructions, and the arrays that its context held, by core (R324) -/
  savedJobs : FMap MxJob
  savedArrays : FMap MxArray
  /-- accounts of crews whose work a restart has discarded (R401) -/
  kept : List Crew
  /-- system software has asked for its pre-emption while it was halted (R345) -/
  asked : Bool
  /-- its groups wait for their side-log entries to be replayed (R349) -/
  replaying : Bool
deriving DecidableEq, Repr

/-- How far a gang member has come (R350). -/
inductive GangState where
  | no | wanting | armed | go
deriving DecidableEq, Repr

/-- A GANG packet's fields (R340). -/
structure Gang where
  gang : Nat
  members : Nat
  member : Nat
  coordinator : Nat
  armTimeout : Nat
deriving DecidableEq, Repr

/-- The group, split, `EPC` and active mask that a stop or an abort names (R356, R402). -/
structure Who where
  key : Nat
  split : Nat
  epc : Addr
  mask : BitVec 32
deriving DecidableEq, Repr

/-- An abort under way (R356). -/
structure Abort where
  cause : Cause
  who : Option Who
deriving DecidableEq, Repr

/-- A launch (R338, R341). -/
structure Launch where
  id : Nat
  queue : Nat
  index : Nat
  domain : Nat
  privileged : Bool
  x : Nat
  y : Nat
  logw : Nat
  logh : Nat
  crewsPer : Nat
  groupsPer : Nat
  nv : Nat
  ns : Nat
  aTiles : Nat
  wTiles : Nat
  cTiles : Nat
  sliceUs : Nat
  entry : Addr
  seqEntry : Addr
  argptr : Addr
  counter : Addr
  increment : Nat
  expectKi : Nat
  idempotent : Bool
  gangBit : Bool
  role : Int
  /-- argument block (R341) -/
  jcb : Addr
  nslot : Nat
  handler : Addr
  laypos : Int
  lcount : Nat
  waitTo : Nat
  tkAge : Nat
  drain : Nat
  foot : List Region
  records : List (List Word)
  layouts : List (List Word)
  /-- has taken its contexts and begun (R343) -/
  started : Bool
  complete : Bool
  /-- crews placed, as (core, crew index) -/
  placed : List (Nat × Nat)
  crewsEnded : List (Nat × Nat)
  shares : List Share
  gang : Option Gang
  gangState : GangState
  armedAt : Nat
  armedReports : List Nat
  /-- lost gang member seen (R216) -/
  memberLost : Bool
  /-- XBAR generation, and the members whose proxy absence tokens hold the barrier open (R216) -/
  xbarGen : Nat
  xbarAbsent : List Nat
  dbg : DebugSet
  /-- the cause of the ring that halted it, and when (R389) -/
  halted : Option Cause
  haltedAt : Nat
  tkReclaimed : Nat
  /-- sequencer account, nanojoules and picojoules; energy of ended crews (R399, R401) -/
  seqEnergy : Nat
  seqEnergyPj : Nat
  crewEnergy : Nat
  /-- the microjoules that `ENERGYCR` shows a context (R401, R202) -/
  seqEnergyCr : Nat
  /-- tiles moved for its contexts in this accounting interval (R399) -/
  seqMoved : Nat
  /-- contexts that have left their sequencer in this accounting interval: cluster and cycles (R399) -/
  seqLeft : List (Nat × Nat)
  /-- the contexts that it occupies for as long as it runs, by group key (R305) -/
  ctxs : List Nat
  abort : Option Abort
deriving DecidableEq, Repr

/-- A packet accepted and not complete, or waiting as the head of its queue. -/
inductive Work where
  | launch (id : Nat)
  | copy (id : Nat)
  | waitc (locs : Addr) (value : Nat) (timeoutMs since : Nat)
  | gang (g : Gang)
deriving DecidableEq, Repr

/-- An accepted, incomplete packet of a queue, with its index and fence bits (R337). -/
structure Accepted where
  queue : Nat
  index : Nat
  release : Bool
  work : Work
deriving DecidableEq, Repr

/-- Where a page of an extent table lies (R375). -/
inductive PageAt where
  | packed (frame : Nat)
  | binary (frame : Nat)
  | host (port base : Nat)
deriving DecidableEq, Repr

/-- A COPY engine job (R339) with its extent table resolved at acceptance (R375). -/
structure CopyJob where
  id : Nat
  queue : Nat
  index : Nat
  domain : Nat
  src : Addr
  dst : Addr
  length : Nat
  sstride : Int
  dstride : Int
  rows : Nat
  counter : Addr
  increment : Nat
  foot : List Foot
  /-- the destination allocates nothing in L2 (R339) -/
  noAlloc : Bool
  /-- the cluster of its engine, and the launch and crew whose buffers it reaches there -/
  cluster : Nat
  crew : Option (Nat × Nat)
  /-- the extent table: read side and written side, by page; whether every page of it has been served (R375), and whether Daymark has
  issued the job to its engine (R351) -/
  pages : FMap PageAt × FMap PageAt
  served : Bool
  started : Bool
  energy : Nat
  energyPj : Nat
  /-- tiles moved in this accounting interval (R399) -/
  moved : Nat
  /-- what it has moved before it is complete (R243): the trytes of its rows, how many were clamped, the trytes that each destination tile has
  received, and the tiles that receive poison -/
  early : List Nat := []
  clamped : Nat := 0
  whole : FMap Nat := []
  poison : List Nat := []
deriving DecidableEq, Repr

/-- A completion record waiting in the FIFO (R351, R402) and the counter addition it carries. -/
structure Completion where
  queue : Nat
  ptype : Nat
  status : Nat
  index : Nat
  energy : Nat
  extra : Nat
  launch : Nat
  domain : Nat
  counter : Addr
  increment : Nat
  /-- the group, split and PC that an abort names -/
  who : Option Who
  /-- when it was made (R378, R402) -/
  time : Nat
deriving DecidableEq, Repr

/-! ## The tile directory and the census -/

/-- The state of a directory entry that is not FREE (R282). -/
inductive DirState where
  | live | incoming | forwarded
deriving DecidableEq, Repr

/-- A tile-directory entry that is not FREE (R282). -/
structure DirEntry where
  state : DirState
  pins : Nat
  tensor : Word
  trow : Int
  tcol : Int
  /-- 0 A, 1 W -/
  buf : Nat
  pos : Nat
  launch : Nat
  crew : Nat
  domain : Nat
  /-- the other entry of a migration: its key -/
  peer : Option Nat
deriving DecidableEq, Repr

/-- A responder of a census, started or due to start (R290, R292). -/
structure Resp where
  core : Nat
  launch : Nat
  crew : Nat
  /-- keys of the directory entries it matched and pinned -/
  hits : List Nat
  started : Bool
  finished : Bool
  reply : Option Word
  fault : Option Cause
deriving DecidableEq, Repr

/-- A census (R286 to R289). -/
structure Census where
  gen : Int
  /-- asking core, and the asker's launch, domain and group -/
  core : Nat
  launch : Nat
  domain : Nat
  op : Int
  scope : Int
  tensor : Word
  row0 : Int
  nrows : Int
  col0 : Int
  ncols : Int
  /-- the placement: level, and the origin of its square -/
  level : Nat
  px : Nat
  py : Nat
  /-- clusters that the key has reached -/
  arrived : List Nat
  matched : Nat
  resps : List Resp
  /-- the cause of the first responder that stopped -/
  fault : Option Cause
  complete : Bool
  /-- its launch has ended: it is freed once complete (R288) -/
  orphan : Bool
  result : Word
  sat : Bool
deriving DecidableEq, Repr

/-! ## Observation -/

/-- A record made and not yet accepted by a Lantern core (R378 to R381). -/
structure TraceRec where
  bytes : List (BitVec 8)
  kind : Nat
  launch : Nat
  die : Nat
  /-- its source (R380): a group key, 100000 + core a sampler, 200000 + core a lane accumulator, 300000 Daymark, 400000 + die
  another unit -/
  src : Nat
deriving DecidableEq, Repr

/-- A trace session (R382, R383). -/
structure Session where
  desc : List (BitVec 8)
  prog : List (BitVec 32)
  wrptr : Nat
  rdptr : Nat
  drops : Nat
  counters : List (BitVec 64)
  /-- a TRACE_BUFFER_FULL event waits for ring space -/
  fullPending : Bool
deriving DecidableEq, Repr

/-- A Lens program in progress on one record (R384). -/
structure LensRun where
  session : Nat
  prog : List (BitVec 32)
  pc : Nat
  k : List (BitVec 64)
  record : TraceRec
  /-- sessions that it reaches after this one -/
  rest : List Nat
deriving DecidableEq, Repr

/-! ## Lanes, samples and issue -/

/-- What an issue slot did in a cycle, for lane accounting and PC samples (R395, R397). -/
structure Issued where
  slot : Nat
  key : Nat
  split : Nat
  launch : Nat
  pc : Addr
  /-- lanes of each class: active, in the mask and not active, in the group and not in the mask, absent -/
  active : Nat
  predoff : Nat
  diverged : Nat
  absent : Nat
  /-- the lanes active for the instruction (R378) -/
  mask : BitVec 32
  /-- the group was neither halted nor the walker (R397) -/
  counts : Bool
  /-- it completes in the next cycle (R71, R100) -/
  two : Bool
deriving DecidableEq, Repr

/-- A core's sampler (R395, R396): the next slot, and dropped samples. -/
structure Sampler where
  next : Nat
  overruns : Nat
  /-- the cycle after its last sample -/
  at_ : Nat
deriving DecidableEq, Repr

/-- A core's lane accumulator (R397, R398): cycles since the last interval, and by bin the five counts. -/
structure LaneSum where
  cycles : Nat
  bins : FMap (List Nat)
deriving DecidableEq, Repr

/-! ## Daymark -/

/-- The head packet of a queue as Daymark has read it (R336, R341): its index, its 64 bytes, and a LAUNCH packet's parsed form. -/
structure HeadPkt where
  index : Nat
  bytes : List (BitVec 8)
  launch : Option Launch
deriving DecidableEq, Repr

/-- What a record of the active Daymark core's journal tells (R351). -/
inductive JournalRec where
  /-- a packet accepted: queue, index, the packet's type and its job: the launch or the COPY job that it becomes, 0 for none -/
  | accept (queue index ptype job : Nat)
  /-- READ advanced to an index, and DEFICIT changed -/
  | read (queue value : Nat)
  | deficit (queue : Nat) (value : Int)
  /-- a gang member's state changed -/
  | gang (launch : Nat) (state : GangState)
  /-- a job started, pre-empted on a cluster, or completed; `copy` tells a COPY job from a launch -/
  | start (copy : Bool) (job : Nat)
  | preempt (launch cluster : Nat)
  | complete (queue index : Nat)
deriving DecidableEq, Repr

/-- Daymark's own state (R336, R342, R350). -/
structure Daymark where
  heads : FMap HeadPkt
  /-- WRITE as read after the last kick, by queue -/
  seen : FMap Nat
  /-- the queue being visited, and the last one visited -/
  visit : Option Nat
  last : Nat
  /-- fractional core-cycles of each queue, in 191ths (R342) -/
  rest : FMap Nat
  /-- GANG packets whose LAUNCH has not come: by queue, the GANG's index and fields -/
  gangs : FMap (Nat × Gang)
  /-- ARMED reports that have come: (gang, member) (R350) -/
  reports : List (Nat × Nat)
  /-- the journal, oldest first; and whether the active core has trapped and the standby has still to take over (R351) -/
  journal : List JournalRec
  down : Bool
  /-- what has come while no core acts, for the standby to do: crew time to charge to queues, in 191ths of a core-cycle, and ARMED reports as
  gang and member (R351) -/
  owed : List (Nat × Nat)
  late : List (Nat × Nat)
deriving DecidableEq, Repr

/-- A message to another device (R216, R350): the device, or none for every other member of the gang. -/
inductive PeerMsg where
  | armed (device gang member : Nat)
  | go (gang : Nat)
  | disarm (gang : Nat)
  | absent (gang member : Nat)
  | present_ (gang member : Nat)
deriving DecidableEq, Repr

/-! ## The binary shell -/

/-- Registers of the CTRL window that no other part of the state holds (R404, R405, R406). -/
structure Ctrl where
  ready : Bool
  minimal : Bool
  nostandby : Bool
  schedstop : Bool
  qtable : Nat
  /-- whether QTABLE has been written since reset, and before that the bytes of queue descriptors that are not 0, by 64 · queue + byte: each
  descriptor then holds its reset values (R334, R404) -/
  qset : Bool
  qboot : FMap Nat
  evbase : Nat
  evsize : Nat
  evwr : Nat
  evrd : Nat
  /-- an event has been dropped since the last one written (R405) -/
  evLost : Bool
  /-- held semaphores: holder -/
  sems : FMap Nat
  faqwr : Nat
  faqrd : Nat
  faqdrop : Nat
  /-- fault-address records by slot (R376) -/
  faq : FMap (List (BitVec 8))
  /-- bytes of APER0 to APER63, of the debug mailbox and of the security mailbox -/
  aper : FMap (BitVec 8)
  dbgBox : FMap (BitVec 8)
  secBox : FMap (BitVec 8)
  imports : FMap Nat
deriving DecidableEq, Repr

/-- What a byte of a MEMORY window stands for (R407): a byte that reads as a fixed value and discards writes, a byte of a binary
frame, or a byte of a packed tile's slot. -/
inductive ByteAt where
  | fixed (b : BitVec 8)
  | binary (frame pos : Nat)
  | slot (frame tile ofs : Nat)
deriving DecidableEq, Repr

/-- What a request at the inbound ordering point asks for (R406, R408, R409, R413). -/
inductive InOp where
  | read (bytes : List ByteAt)
  /-- a refused MEMORY read of so many bytes -/
  | refused (bytes : Nat)
  /-- a MEMORY read or write at a byte of the window that waits until a key slot has been loaded or refused (R374, R408) -/
  | askRead (offset len : Nat)
  | askWrite (offset : Nat) (data : List (BitVec 8))
  | write (bytes : List (ByteAt × BitVec 8))
  | doorbell (queue value : Nat)
  | ctrl (offset width value : Nat)
  | ctrlRead (offset width : Nat)
  | semRead (n : Nat)
  | semWrite (n value : Nat)
  /-- a peer's access, translated: its places, and data or atomic -/
  | peer (locs : List Loc) (req : PeerReq)
  /-- a peer's request that waits until a key slot has been loaded or refused (R374, R413): its device and domain -/
  | askPeer (device domain : Nat) (req : PeerReq)
  /-- this device's access to itself (R165): the group key and the access's sequence number -/
  | own (key seq : Nat)
deriving DecidableEq, Repr

/-- A request, or a part of one (R439), that has arrived and is not yet done. Ports 0 and 1 are the host's, 2 + d is device d.
Routes 0 to 3 are compute dies and 4 is the I/O die. -/
structure InReq where
  id : Nat
  port : Nat
  route : Nat
  write : Bool
  relaxed : Bool
  forwarded : Bool
  op : InOp
deriving DecidableEq, Repr

/-- What the device has answered to a port: bytes of a read, or the status and bytes of a mailbox command, for which the debug mailbox stands
as port 1000 and the security mailbox as port 1001. -/
structure Reply where
  port : Nat
  bytes : List (BitVec 8)
deriving DecidableEq, Repr

/-- The module's record of its starts (R420, R421). -/
structure Bringup where
  failcount : Nat
  reason : Nat
  info : Nat
  stage : Nat
  starts : Nat
  readyNs : Nat
deriving DecidableEq, Repr

/-! ## The machine -/

/-- A stop, or an END command, that Daymark has still to handle (R356, R292, R390). -/
structure StopAsk where
  launch : Nat
  cause : Cause
  who : Option Who
deriving DecidableEq, Repr

/-- The whole machine. -/
structure State where
  /-- arithmetic-clock cycles since reset (R9, R223) -/
  now : Nat
  /-- the device time base in tenths of a nanosecond, and how far a backward alignment has still to slow it (R223) -/
  timeBase : Nat
  timeSlow : Nat
  /-- the split that executes: (group key, split index), the key being 256 · core + slot -/
  cur : Nat × Nat
  /-- issue slots that have issued in this cycle: 4 · core + slot div 48, sequencers 1024 + cluster (R18, R99) -/
  issued : List Issued
  /-- two-cycle instructions issued in the cycle before (R71, R100) -/
  carry : List Issued
  /-- the cycle from which a divider (2 · issue slot) or long-latency float unit (2 · issue slot + 1) accepts again (R119) -/
  units : FMap Nat
  /-- splits looked at in this cycle that do not issue in it -/
  tried : List (Nat × Nat)
  /-- issue slots whose pick of this cycle trapped instead of issuing: slot, group key and split (R99) -/
  spent : List (Nat × Nat × Nat)
  /-- every resident group, walker and sequencer context -/
  groups : FMap Group
  /-- groups that have taken a trap in this cycle: the trap, and the group as it stood before it (R355, R366) -/
  fresh : FMap ((Nat × TrapInfo) × Group)
  startSeq : Nat
  /-- DRAM bytes by physical address: 2^36 · stack + offset (R25, R167) -/
  mem : List Host.Cell
  /-- host memory bytes by host bus address (R410) -/
  hostMem : List Host.Cell
  /-- trytes of other devices' memory that this device has written (R165) -/
  peerMem : FMap Tryte
  /-- key slot of each encrypted frame, plus one (R374, R414) -/
  frameKey : FMap Nat
  keys : FMap KeySlot
  /-- the key under which each tile of DRAM was last written; 0 is no key (R414) -/
  sealed : FMap Nat
  /-- binary tiles that are poisoned, by tile coordinate (R168, R169, R242) -/
  binPoison : List Nat
  /-- runs of frames to which the memory-management processor has given a MODE and a TILING, the latest first: first frame, how many, whether
  binary, and whether tensor-tiled; every other frame is packed and linear, as bring-up leaves it (R28, R171, R374) -/
  frameModes : List (Nat × Nat × Bool × Bool)
  /-- the frame of each domain's level-4 table (R369) -/
  roots : FMap Nat
  /-- host ports whose link is up (R406) -/
  pcieUp : List Nat
  /-- first frame and number of frames of the outbound table (R410) -/
  outFrame : Nat
  outFrames : Nat
  /-- typed-buffer words: key (3 · core + path) · 59049 + word (R20) -/
  bufs : FMap Word
  /-- tile type tags: key (3 · core + path) · 729 + tile (R313) -/
  tags : FMap Int
  l1 : List L1Line
  /-- tiles that the L2 slices hold, by tile coordinate; true where dirty (R171, R172) -/
  l2 : FMap Bool
  /-- the tensor identifier under which a tensor-tiled tile is held there, by tile coordinate; a tile not listed has tensor 0 (R171) -/
  l2tags : FMap Word
  /-- fetched instruction words: key unit · 2^40 + physical word number (R221) -/
  icache : FMap Word
  tlbs : List TlbEntry
  misses : List Miss
  /-- misses that found 81 others waiting, in the order in which they arrived (R371) -/
  heldMisses : List Miss
  asks : List PageAsk
  /-- the entry of walker firmware placed at bring-up; 0 stands for the shipped firmware of R373 -/
  walkerEntry : Addr
  allocatable : List AllocRegion
  /-- frames that the memory-management processor has allocated (R374) -/
  allocated : List Nat
  /-- the bad-page list, and frames retired until the next reset only (R377) -/
  badFrames : List Nat
  retired : List Nat
  /-- key slots that the security processor has been asked to load (R374) -/
  keyAsks : List Nat
  /-- key slots whose loading it has refused (R374) -/
  keyRefused : List Nat
  /-- this device's index in the scale-up domain (R404) -/
  devid : Nat
  /-- route mask of each destination device, and the scale-up links that are up (R404, R412) -/
  route : FMap Nat
  linksUp : List Nat
  /-- walks that ended with a cause, which the requester raises when its access issues again (R372) -/
  walkFails : List (Miss × Cause)
  sideLog : List SideEntry
  /-- mooring entries: key 243 · slice + entry (R245) -/
  moor : FMap Moor
  /-- tile directories: key 243 · core + index (R282) -/
  dir : FMap DirEntry
  /-- censuses by slot, and the generation each slot has reached (R286, R297) -/
  census : FMap Census
  censusGen : FMap Int
  /-- the launch and PC of the last EXIT of a group slot that has not been taken again (R395) -/
  exited : FMap (Nat × Addr)
  crews : List Crew
  launches : List Launch
  nextLaunch : Nat
  stops : List StopAsk
  accepted : List Accepted
  copyJobs : List CopyJob
  nextJob : Nat
  /-- jobs of the cores' copy request units, by number -/
  tcJobs : FMap TcJob
  /-- matrix instructions, by number, and the arrays by core -/
  mxJobs : FMap MxJob
  arrays : FMap MxArray
  kicks : List Nat
  fifo : List Completion
  records : List TraceRec
  sessions : FMap Session
  lens : Option LensRun
  /-- dump commands of halted launches whose accepted jobs have still to drain: launch, host address and size (R390, R392) -/
  dumps : List (Nat × Nat × Nat)
  samplers : FMap Sampler
  lanes : FMap LaneSum
  /-- the device account, nanojoules and picojoules; nanojoules of each core's static energy already charged in this interval;
  and when the interval began, in cycles and in microseconds of the time base (R399, R400) -/
  energy : Nat
  energyPj : Nat
  /-- tiles moved for the device itself in this interval: write-backs by eviction and walker loads (R399) -/
  moved : Nat
  /-- crews that have left in this interval, whose accounts close with it (R400, R401) -/
  leftCrews : List Crew
  energyEarly : FMap Nat
  intervalAt : Nat
  intervalTick : Nat
  day : Daymark
  /-- messages sent to other devices -/
  outbox : List PeerMsg
  ctrl : Ctrl
  inbound : List InReq
  nextReq : Nat
  /-- splits whose next `RECLD` of host memory will meet a failed read: group key and split (R410) -/
  hostFails : List (Nat × Nat)
  replies : List Reply
  /-- MSI-X messages sent, in order: 0 the event ring, 1 the fault-address queue (R403) -/
  msix : List Nat
  /-- non-fatal errors reported through Advanced Error Reporting, by port (R403, R408) -/
  aer : List Nat
  bringup : Bringup
  /-- the six firmware images and the fused rollback counter (R416) -/
  images : List Image
  rollback : Nat
  /-- a start that the part has still to make: CLEARSTART has requested it, or the part has cooled down (R420, R424) -/
  startDue : Bool
  /-- watts (R422), and the thermal step and last temperature of each die (R424) -/
  powerCap : Nat
  hot : FMap Nat
  temps : FMap Nat
  /-- corrected DRAM errors by frame since reset, and corrected errors of on-chip storage (R27, R376) -/
  dramErrors : FMap Nat
  corrected : Nat
  /-- trits corrupted by soft errors in a word since it was last written or corrected (R27, R357): fetched words by the keys of
  `icache` (with 16 added once its line has been fetched again), buffer words, words of L2 tiles by 81 · tile + word; and in
  Daymark's instruction memory -/
  badIc : FMap Nat
  badBufs : FMap Nat
  badL2 : FMap Nat
  badDay : Nat
  /-- a script of events and host inputs: the head is carried out before anything else -/
  agenda : List Instr
  /-- draws made of the free values of `Config` (the model's own) -/
  free : Nat
deriving DecidableEq, Repr

/-- The machine right after reset (R28, R86, R419): no launch is resident, every array and all DRAM hold what clearing leaves
(an empty list reads as zero, and DRAM as `memDefault` says), the start sequence has not yet set READY, and counters of time
are 0. Fields for which the spec states no value hold those of the assumption log. -/
def State.reset : State :=
  {
    now := 0
    timeBase := 0
    timeSlow := 0
    cur := (0, 0)
    issued := []
    carry := []
    units := []
    tried := []
    spent := []
    groups := []
    fresh := []
    startSeq := 0
    mem := []
    hostMem := []
    peerMem := []
    frameKey := []
    keys := []
    sealed := []
    binPoison := []
    frameModes := []
    roots := []
    pcieUp := [0, 1]
    outFrame := 0
    outFrames := 0
    bufs := []
    tags := []
    l1 := []
    l2 := []
    l2tags := []
    icache := []
    tlbs := []
    misses := []
    heldMisses := []
    asks := []
    walkerEntry := Tern.zero 54
    allocatable := []
    allocated := []
    badFrames := []
    retired := []
    keyAsks := []
    keyRefused := []
    devid := 0
    route := []
    linksUp := List.range 16
    walkFails := []
    sideLog := []
    moor := []
    dir := []
    census := []
    censusGen := []
    exited := []
    crews := []
    launches := []
    nextLaunch := 1
    stops := []
    accepted := []
    copyJobs := []
    nextJob := 1
    tcJobs := []
    mxJobs := []
    arrays := []
    kicks := []
    fifo := []
    records := []
    sessions := []
    lens := none
    dumps := []
    samplers := []
    lanes := []
    energy := 0
    energyPj := 0
    moved := 0
    leftCrews := []
    energyEarly := []
    intervalAt := 0
    intervalTick := 0
    day := ⟨[], [], none, 0, [], [], [], [], false, [], []⟩
    outbox := []
    ctrl := ⟨false, false, false, false, 0, false, [], 0, 0, 0, 0, true, [], 0, 0, 0, [], [], [], [], []⟩
    inbound := []
    nextReq := 1
    hostFails := []
    replies := []
    msix := []
    aer := []
    bringup := ⟨0, 0, 0, 0, 0, 0⟩
    images := List.replicate 6 ⟨0, true⟩
    rollback := 0
    startDue := false
    powerCap := 2400
    hot := []
    temps := []
    dramErrors := []
    corrected := 0
    badIc := []
    badBufs := []
    badL2 := []
    badDay := 0
    agenda := []
    free := 0 }

end Sys2Proof.Machine
end

