-- ==== Sys2Proof/Machine/Mem.lean ====
section
/-! DEFINITION. The stores of data: DRAM bytes in packed and binary frames, typed buffers, host and peer memory (R20, R28,
R163 to R173, R410, R414). -/

namespace Sys2Proof.Machine

/-! ## DRAM -/

/-- Bytes of a frame slot (R167). -/
def frameBytes : Nat := 108864
/-- Frames of the package (R167). -/
def frameCount : Nat := 10099856

/-- What a DRAM byte that nothing has written reads as (R28, R168). -/
def memDefault (a : Nat) : BitVec 8 := if a % 2 ^ 36 % 448 < 438 then 0x79#8 else 0#8

/-- A DRAM byte. -/
def memByte (m : List Host.Cell) (a : Nat) : BitVec 8 := mapGet (memDefault a) m a
/-- A DRAM byte written. -/
def memPut (m : List Host.Cell) (a : Nat) (b : BitVec 8) : List Host.Cell := mapSet (memDefault a) m a b

/-- Consecutive bytes. -/
def memBytes (m : List Host.Cell) (a : Nat) : Nat → List (BitVec 8)
  | 0 => []
  | n + 1 => memByte m a :: memBytes m (a + 1) n

/-- Consecutive bytes written. -/
def memPuts (m : List Host.Cell) (a : Nat) : List (BitVec 8) → List Host.Cell
  | [] => m
  | b :: t => memPuts (memPut m a b) (a + 1) t

/-- The canonical form of DRAM: addresses rising, no entry equal to what an unlisted address reads as. -/
def Memory.wf (m : List Host.Cell) : Bool := mapSorted m && m.all (fun c => decide (c.2 ≠ memDefault c.1))

/-- The physical address of a frame's first byte (R167). -/
def frameAddr (f : Nat) : Nat := 2 ^ 36 * (f % 16) + frameBytes * (f / 16)
/-- The physical address of a tile slot's first byte (R168). -/
def tileAddr (f t : Nat) : Nat := frameAddr f + 448 * t
/-- The coordinate T of a tile of a frame (R171). -/
def tileCoord (f t : Nat) : Nat := 243 * f + t
/-- The home slice of a tile coordinate (R171). -/
def homeSlice (t : Nat) : Nat := t % 128

/-- The tryte at a position of a packed page, or BAD_BYTE_CODE (R54, R168). -/
def packedTryte (m : List Host.Cell) (f pos : Nat) : Except Cause Tryte :=
  let i := pos % 243
  let q := 9 * i / 5
  let bs := memBytes m (tileAddr f (pos / 243) + q) ((9 * i + 8) / 5 - q + 1)
  if p5Valid bs then .ok (Tern.ofIndex 9 (p5Nat bs / 3 ^ (9 * i - 5 * q))) else .error .badByteCode

/-- A tryte of a packed page written: only its own nine trits change (R168). -/
def packedPut (m : List Host.Cell) (f pos : Nat) (v : Tryte) : List Host.Cell :=
  let i := pos % 243
  let q := 9 * i / 5
  let n := (9 * i + 8) / 5 - q + 1
  let a := tileAddr f (pos / 243) + q
  let x := p5Nat ((memBytes m a n).map (fun b => BitVec.ofNat 8 (b.toNat % 243)))
  let w := 3 ^ (9 * i - 5 * q)
  let y := x - x / w % 3 ^ 9 * w + v.index * w
  memPuts m a (p5Digits n y)

/-- The tryte of a byte: a T9 value 0 to 255 (R169). -/
def byteTryte (b : BitVec 8) : Tryte := Tern.ofInt 9 (b.toNat : Int)
/-- The byte that a tryte 0 to 255 stands for, if it does (R169). -/
def tryteByte (t : Tryte) : Option (BitVec 8) :=
  if 0 ≤ t.val ∧ t.val ≤ 255 then some (BitVec.ofNat 8 t.val.toNat) else none

/-! ## Keys and poison -/

/-- The three keys of a slot as one number, not 0, by which a tile's last writing is remembered (R414). -/
def KeySlot.num (k : KeySlot) : Nat := 1 + k.xts1.toNat + 2 ^ 256 * k.xts2.toNat + 2 ^ 512 * k.cmac.toNat
/-- The bytes of key 0, 1 or 2 of such a number: the two keys of XTS and that of CMAC. -/
def keyBytes (num i : Nat) : List Nat := (leBytes 32 ((num - 1) / 2 ^ (256 * i))).map BitVec.toNat

/-- A data unit as the shell gives it to DRAM, and as it takes it back, under the keys of a number; 0 is no key (R414). DRAM is held here as it is
before encryption, and what the stacks hold is a function of it. -/
def sealBytes (num unit_ : Nat) (bs : List (BitVec 8)) : List Nat :=
  let plain := bs.map BitVec.toNat
  if num = 0 then plain else xtsEnc (keyBytes num 0) (keyBytes num 1) unit_ plain
def openBytes (num unit_ : Nat) (bs : List Nat) : List Nat :=
  if num = 0 then bs else xtsDec (keyBytes num 0) (keyBytes num 1) unit_ bs

/-- The integrity tag of a packed tile from its DATA and its STATUS byte (R414). -/
def tileTag (num unit_ : Nat) (data : List (BitVec 8)) (status : BitVec 8) : List (BitVec 8) :=
  ((aesCmac (keyBytes num 2) ((leBytes 16 unit_).map BitVec.toNat ++ sealBytes num unit_ data ++ [status.toNat])).take 8).map (BitVec.ofNat 8)

/-- The number of the keys in force for a frame: 0 for none (R414). -/
def State.frameKeyId (s : State) (f : Nat) : Nat :=
  match mapFind f s.frameKey with
  | none => 0
  | some slot1 => match mapFind (slot1 - 1) s.keys with | some k => k.num | none => 0

/-- Whether a tile of an encrypted frame holds what the frame's allocation cleared it to (R28, R374, R169). -/
def State.clearedTile (s : State) (f t : Nat) : Bool :=
  decide (mapGet 0 s.sealed (tileCoord f t) = 0) && (mapFind f s.frameKey).isSome

/-- Whether a tile was last written under the keys now in force, so that its tag holds and its bytes decrypt, or has not been written since
its frame was allocated (R414, R169). A tag made under other keys does not hold (DEDUCED, log 42). -/
def State.sealOk (s : State) (f t : Nat) : Bool :=
  decide (mapGet 0 s.sealed (tileCoord f t) = s.frameKeyId f) || s.clearedTile f t

/-- Whether a packed tile reads as poisoned: its STATUS bit, or a tag that fails (R168, R414). -/
def State.poisoned (s : State) (f t : Nat) : Bool :=
  (memByte s.mem (tileAddr f t + 446)).getLsbD 0 || !s.sealOk f t

/-- The TAG of a packed tile written: the integrity tag under the key in force, and zero without one (R168, R414). -/
def State.setIntegrity (s : State) (f t : Nat) : State :=
  let key := s.frameKeyId f
  let tag := if key = 0 then List.replicate 8 0#8
    else tileTag key (tileCoord f t) (memBytes s.mem (tileAddr f t) 438) (memByte s.mem (tileAddr f t + 446))
  { s with mem := memPuts s.mem (tileAddr f t + 438) tag }

/-- The TAG of a tile of an encrypted frame follows what has been written there (R414). -/
def State.retag (s : State) (f t : Nat) : State := if s.frameKeyId f = 0 then s else s.setIntegrity f t

/-- A packed tile's POISON bit written (R168). -/
def State.setPoison (s : State) (f t : Nat) (on : Bool) : State :=
  { s with mem := memPut s.mem (tileAddr f t + 446) (if on then 1#8 else 0#8) }.retag f t

/-- The mark of a binary tile that is poisoned: a binary frame has no STATUS byte, and the spec does not say where its mark is kept
(R169, R242). -/
def State.setBinPoison (s : State) (f t : Nat) (on : Bool) : State :=
  let rest := s.binPoison.filter (fun c => c != tileCoord f t)
  { s with binPoison := if on then tileCoord f t :: rest else rest }

/-- Whether a frame is a binary one: the memory-management processor has made it so, or the queue table or the outbound table lies in it
(R169, R374, R404, R410). -/
def State.binaryFrame (s : State) (f : Nat) : Bool :=
  ((s.frameModes.find? (fun r => decide (r.1 ≤ f ∧ f < r.1 + r.2.1))).any (fun r => r.2.2.1)) ||
  (s.ctrl.qset && decide (s.ctrl.qtable ≤ f ∧ f < s.ctrl.qtable + 5)) ||
  decide (s.outFrame ≤ f ∧ f < s.outFrame + s.outFrames)

/-- Whether a frame is tensor-tiled (R171, R374). -/
def State.tiledFrame (s : State) (f : Nat) : Bool :=
  (s.frameModes.find? (fun r => decide (r.1 ≤ f ∧ f < r.1 + r.2.1))).any (fun r => r.2.2.2)

/-- A tile poisoned by an error (R168, R357): in a packed frame by its STATUS, in a binary one by its mark. -/
def State.spoilTile (s : State) (f t : Nat) : State :=
  if s.binaryFrame f then s.setBinPoison f t true else s.setPoison f t true

/-- A tile that is being written is written under the key in force; a tile whose tag failed stays poisoned (R168, R414). -/
def State.reseal (s : State) (f t : Nat) (packed : Bool) : State :=
  if mapGet 0 s.sealed (tileCoord f t) = s.frameKeyId f then s
  else
    let s1 := { s with sealed := mapSet 0 s.sealed (tileCoord f t) (s.frameKeyId f) }
    if !packed then s1
    else if s.clearedTile f t then s1.setIntegrity f t
    else (s1.setIntegrity f t).setPoison f t true

/-! ## Buffers -/

/-- The key of a buffer word (R20). -/
def bufKey (core path word : Nat) : Nat := (3 * core + path) * 59049 + word
/-- The key of a buffer tile's type tag (R313). -/
def tagKey (core path tile : Nat) : Nat := (3 * core + path) * 729 + tile

/-- A buffer word; a word that nothing has written holds zero (R28, R173). -/
def State.bufWord (s : State) (core path word : Nat) : Word := mapGet wzero s.bufs (bufKey core path word)
/-- A buffer word written. -/
def State.setBufWord (s : State) (core path word : Nat) (v : Word) : State :=
  { s with
    bufs := mapSet wzero s.bufs (bufKey core path word) v
    badBufs := mapErase (bufKey core path word) s.badBufs }

/-! ## Trytes by place -/

/-- A byte of a binary tile that was written under other keys than those now in force: what deciphering gives (R414). -/
def State.alienByte (s : State) (f pos : Nat) : BitVec 8 :=
  let unit_ := tileCoord f (pos / 243)
  let raw := sealBytes (mapGet 0 s.sealed unit_) unit_ (memBytes s.mem (frameAddr f + pos / 243 * 243) 243)
  BitVec.ofNat 8 ((openBytes (s.frameKeyId f) unit_ raw).getD (pos % 243) 0)

/-- The tryte at a place, with the fault that its bytes raise (R54, R169, R410). -/
def State.readLoc (s : State) : Loc → Except Cause Tryte
  | .packed f pos => packedTryte s.mem f pos
  | .binary f pos =>
    if s.sealOk f (pos / 243) then .ok (byteTryte (memByte s.mem (frameAddr f + pos)))
    else .ok (byteTryte (s.alienByte f pos))
  | .buf core path idx =>
    if 2 ≤ mapGet 0 s.badBufs (bufKey core path (idx / 3)) then .error .bufferUncorrectable
    else .ok ((s.bufWord core path (idx / 3)).field (9 * (idx % 3)) 9)
  | .host _ a => .ok (byteTryte (match mapFind a s.hostMem with | some b => b | none => Config.hostByte a))
  | .peer dev a =>
    .ok (match mapFind (dev * 3 ^ 54 + a) s.peerMem with
      | some t => t
      | none => Tern.ofIndex 9 (Config.peerTryte dev a))

/-- A tryte written at a place. A byte location takes the tryte's value, which its checks hold to 0 to 255 (R169). -/
def State.writeLoc (s : State) : Loc → Tryte → State
  | .packed f pos, v =>
    let s1 := s.reseal f (pos / 243) true
    { s1 with mem := packedPut s1.mem f pos v }.retag f (pos / 243)
  | .binary f pos, v =>
    let s1 := s.reseal f (pos / 243) false
    { s1 with mem := memPut s1.mem (frameAddr f + pos) ((tryteByte v).getD 0#8) }
  | .buf core path idx, v =>
    { s with bufs := mapSet wzero s.bufs (bufKey core path (idx / 3)) ((s.bufWord core path (idx / 3)).setField (9 * (idx % 3)) v) }
  | .host _ a, v => { s with hostMem := mapInsert a ((tryteByte v).getD 0#8) s.hostMem }
  | .peer dev a, v => { s with peerMem := mapInsert (dev * 3 ^ 54 + a) v s.peerMem }

/-- Trytes written at places, one after another. -/
def State.writeEach (s : State) : List Loc → List Tryte → State
  | l :: ls, v :: vs => (s.writeLoc l v).writeEach ls vs
  | _, _ => s

/-- The key of the buffer word that a place lies in. -/
def Loc.bufWordKey : Loc → Option Nat
  | .buf core path idx => some (bufKey core path (idx / 3))
  | _ => none

/-- Buffer words that a write covers whole hold no soft error any more (R27). -/
def State.mendBufs (s : State) (ls : List Loc) : State :=
  if s.badBufs.isEmpty then s
  else { s with badBufs := s.badBufs.filter (fun e => decide ((ls.eraseDups.filter (fun l => l.bufWordKey == some e.1)).length < 3)) }

/-- Trytes written at places, one a place. -/
def State.writeLocs (s : State) (ls : List Loc) (vs : List Tryte) : State := (s.mendBufs ls).writeEach ls vs

/-- The trytes at places, or the first fault. -/
def State.readLocs (s : State) : List Loc → Except Cause (List Tryte)
  | [] => .ok []
  | l :: ls =>
    match s.readLoc l, s.readLocs ls with
    | .ok v, .ok vs => .ok (v :: vs)
    | .error c, _ => .error c
    | _, .error c => .error c

/-- The place of a tile, if it lies in DRAM: frame, tile and whether the frame is packed. -/
def Loc.tile : Loc → Option (Nat × Nat × Bool)
  | .packed f pos => some (f, pos / 243, true)
  | .binary f pos => some (f, pos / 243, false)
  | _ => none

/-- The route of a place at the inbound ordering point: the compute die of its home slice (R171, R409). -/
def Loc.route (l : Loc) : Nat := match l.tile with | some (f, t, _) => homeSlice (tileCoord f t) / 32 | none => 4

/-- Whether a place lies in a tile that reads as poisoned (R168). -/
def State.locPoisoned (s : State) (l : Loc) : Bool :=
  match l with
  | .packed f pos => s.poisoned f (pos / 243)
  | .binary f pos => s.binPoison.contains (tileCoord f (pos / 243))
  | _ => false

/-- The word of three trytes, the lowest first (R3). -/
def wordOfTrytes : List Tryte → Word
  | a :: b :: c :: _ => Tern.ofIndex 27 (a.index + 3 ^ 9 * b.index + 3 ^ 18 * c.index)
  | _ => wzero

/-- The trytes of a word, the lowest first (R3). -/
def trytesOfWord (w : Word) : List Tryte := [w.field 0 9, w.field 9 9, w.field 18 9]

/-- The low and the high word of a pair (R2). -/
def pairLo (a : Addr) : Word := a.field 0 27
def pairHi (a : Addr) : Word := a.field 27 27
/-- The pair of two words. -/
def mkPair (lo hi : Word) : Addr := Tern.ofIndex 54 (lo.index + 3 ^ 27 * hi.index)

/-- The places of the three trytes of the word whose central tryte is at a place's position (R163). -/
def wordLocs (f : Nat → Loc) (pos : Nat) : List Loc := [f (pos - 1), f pos, f (pos + 1)]

end Sys2Proof.Machine
end

