-- ==== Sys2Proof/Machine/Trace.lean ====
section
/-! DEFINITION. Making trace records: the header of R378, the record types of R379, and which records reach a source's queue
(R380 to R383). -/

namespace Sys2Proof.Machine

/-- The key of a group: 256 · core + slot. -/
def gkey (core slot : Nat) : Nat := 256 * core + slot
/-- A core's number from its coordinates, and back (R14). -/
def coreOf (x y : Nat) : Nat := 16 * y + x
def coreX (c : Nat) : Nat := c % 16
def coreY (c : Nat) : Nat := c / 16
/-- The cluster of a core, its rank there, and the core of a rank (R15). -/
def clusterOf (c : Nat) : Nat := 8 * (coreY c / 2) + coreX c / 2
def rankOf (c : Nat) : Nat := 2 * (coreY c % 2) + coreX c % 2
def coreOfRank (cl r : Nat) : Nat := coreOf (2 * (cl % 8) + r % 2) (2 * (cl / 8) + r / 2)
/-- The compute die of a core (R14). -/
def dieOf (c : Nat) : Nat := coreX c / 8 + 2 * (coreY c / 8)

/-- The local index of a cluster on its die, and the numbers of its L2 slices and of its copy engines, `i` being 0 or 1 (R16). -/
def localCluster (cl : Nat) : Nat := 4 * (cl / 8 % 4) + cl % 8 % 4
def dieOfCluster (cl : Nat) : Nat := cl % 8 / 4 + 2 * (cl / 32)
def unitOfCluster (cl i : Nat) : Nat := 32 * dieOfCluster cl + 2 * localCluster cl + i
/-- The cluster whose slices and engines carry a number (R16). -/
def clusterOfUnit (u : Nat) : Nat :=
  let d := u / 32
  let lc := u % 32 / 2
  8 * (4 * (d / 2) + lc / 4) + 4 * (d % 2) + lc % 4

def State.group? (s : State) (k : Nat) : Option Group := mapFind k s.groups
def State.setGroup (s : State) (k : Nat) (g : Group) : State := { s with groups := mapInsert k g s.groups }
/-- A group changed, if it is there. -/
def State.modGroup (s : State) (k : Nat) (f : Group → Group) : State :=
  match s.group? k with
  | some g => s.setGroup k (f g)
  | none => s
/-- The key of a group. -/
def Group.key (g : Group) : Nat := gkey g.core g.slot

def Group.split? (g : Group) (i : Nat) : Option Split := g.splits.find? (fun x => x.idx == i)
/-- A split record changed. -/
def Group.modSplit (g : Group) (i : Nat) (f : Split → Split) : Group :=
  { g with splits := updFirst (fun x => x.idx == i) f g.splits }
def State.modSplit (s : State) (k i : Nat) (f : Split → Split) : State := s.modGroup k (fun g => g.modSplit i f)

/-- Whether a group is a sequencer context, or the walker (R18, R114, R378). -/
def Group.isSeq (g : Group) : Bool := decide (192 ≤ g.slot)
def Group.isWalker (g : Group) : Bool := g.slot == 191

def State.launch? (s : State) (id : Nat) : Option Launch := s.launches.find? (fun l => l.id == id)
def State.modLaunch (s : State) (id : Nat) (f : Launch → Launch) : State :=
  { s with launches := updFirst (fun l => l.id == id) f s.launches }
def State.crew? (s : State) (launch core idx : Nat) : Option Crew :=
  s.crews.find? (fun c => c.launch == launch && c.core == core && c.idx == idx)
def State.modCrew (s : State) (launch core idx : Nat) (f : Crew → Crew) : State :=
  { s with crews := updFirst (fun c => c.launch == launch && c.core == core && c.idx == idx) f s.crews }

/-- A signed value in `n` bytes, saturated (R378). -/
def signedBytes (n : Nat) (x : Int) : List (BitVec 8) :=
  let h : Int := ((2 ^ (8 * n - 1) : Nat) : Int)
  let y := if x < -h then -h else if h - 1 < x then h - 1 else x
  leBytes n (y % ((2 ^ (8 * n) : Nat) : Int)).toNat

/-- Bytes of a mask. -/
def maskBytes (m : BitVec 32) : List (BitVec 8) := leBytes 4 m.toNat

/-- Zero bytes. -/
def zeroBytes (n : Nat) : List (BitVec 8) := List.replicate n 0#8

/-- (PC - entry) / 3 of R378: from the kernel entry, or from the sequencer entry for a context. -/
def pcOffset (s : State) (launch slot : Nat) (pc : Addr) : Int :=
  match s.launch? launch with
  | none => 0
  | some l => (pc.val - (if 192 ≤ slot then l.seqEntry else l.entry).val) / 3

/-- The 48-byte header of R378. `who` is the core, slot, split, mask and PC; without it the record names no group. -/
def recHeader (s : State) (kind len launch : Nat) (loss : Bool) (who : Option (Nat × Nat × Nat × BitVec 32))
    (pc : Option Addr) : List (BitVec 8) :=
  let flags := (if who.isSome then 0 else 1) + (if pc.isSome then 0 else 2) + (if loss then 4 else 0)
  let head := leBytes 1 kind ++ leBytes 1 flags ++ leBytes 2 len
  let grp := match who with
    | some (core, slot, split, mask) =>
      leBytes 1 (coreX core + 16 * coreY core) ++ leBytes 1 slot ++ leBytes 1 split ++ [0#8] ++ maskBytes mask
    | none => [0#8, 255#8, 0#8, 0#8] ++ zeroBytes 4
  let pcb := (match pc with | some p => p5enc p | none => List.replicate 11 0x79#8) ++ [0#8]
  let ofs := match pc, who with
    | some p, some (_, slot, _, _) => pcOffset s launch slot p
    | some p, none => pcOffset s launch 0 p
    | none, _ => 0
  head ++ grp ++ pcb ++ leBytes 8 s.now ++ leBytes 8 launch ++ signedBytes 8 ofs

/-- A little-endian field of a descriptor or record. -/
def byteField (bs : List (BitVec 8)) (ofs n : Nat) : Nat := leNat ((bs.drop ofs).take n)

/-- Bytes of a mailbox written. -/
def putBox (m : FMap (BitVec 8)) (at_ : Nat) (bs : List (BitVec 8)) : FMap (BitVec 8) :=
  (List.range bs.length).foldl (fun m i => mapSet 0#8 m (at_ + i) (bs.getD i 0#8)) m

/-- Whether a session is enabled (R382). -/
def Session.enabled (x : Session) : Bool := byteField x.desc 0 1 % 2 == 1

/-- Whether an enabled session observes a launch: SELECT names it, or SELECT is 0 and it is a launch of DOMAIN; a device
record reaches only sessions of domain 0 (R382, R383). -/
def Session.observes (x : Session) (s : State) (launch : Nat) : Bool :=
  let sel := byteField x.desc 4 8
  let dom := byteField x.desc 12 2
  if launch = 0 then dom == 0 && sel == 0
  else sel == launch || (sel == 0 && (match s.launch? launch with | some l => l.domain == dom | none => false))

/-- Whether an enabled session accepts a record type of a launch (R383). -/
def Session.accepts (x : Session) (s : State) (kind launch : Nat) : Bool :=
  x.enabled && (byteField x.desc 1 1 / 2 ^ (kind - 1) % 2 == 1) && x.observes s launch

/-- Whether tracing of a record type of a launch is on. -/
def State.traced (s : State) (kind launch : Nat) : Bool := s.sessions.any (fun e => e.2.accepts s kind launch)

/-- A record handed to its source's queue; it is not made when no session would take it (R225, R383). -/
def State.emit (s : State) (kind launch die src : Nat) (bytes : List (BitVec 8)) : State :=
  if s.traced kind launch then { s with records := s.records ++ [⟨bytes, kind, launch, die, src⟩] } else s

/-- The source numbers of a core's sampler, a core's lane accumulator, Daymark and another unit of a die (R380). -/
def samplerSrc (core : Nat) : Nat := 100000 + core
def lanesSrc (core : Nat) : Nat := 200000 + core
def daymarkSrc : Nat := 300000
def unitSrc (die : Nat) : Nat := 400000 + die

/-- An EVENT record (R379). -/
def State.emitEvent (s : State) (code launch detail die src : Nat) : State :=
  s.emit 6 launch die src (recHeader s 6 64 launch false none none ++ leBytes 1 code ++ zeroBytes 7 ++ leBytes 8 detail)

/-- An EVENT record whose DETAIL the spec does not give: a free value. -/
def State.emitEventAny (s : State) (code launch die src : Nat) : State :=
  { s.emitEvent code launch (Config.pick s.free % 2 ^ 64) die src with free := s.free + 1 }

/-- Words of the instruction at which a split waits after its PC has passed it. -/
def Wait.len : Wait → Nat
  | .waitp _ _ => 1
  | .tkld _ _ => 2
  | .pins (.publish _ _ _ _) => 2
  | .pins (.withdraw _ _) => 1
  | .pins (.migrate _ _ _) => 2
  | .waitge _ _ _ _ _ => 1
  | .bwait _ _ _ _ _ => 1
  | .bar _ => 1
  | .rbar _ => 1
  | .xbar _ _ _ _ => 2
  | .sleep _ => 1
  | .swait _ _ _ _ _ => 1
  | _ => 0

/-- A split's PC as a stop or a dump shows it: that of the waiting instruction while it waits (R434, R436). -/
def Split.atPc (x : Split) : Addr := Tern.ofInt 54 (x.pc.val - 3 * (x.wait.len : Int))

/-- The STOP record of a group's split (R379). -/
def State.emitStop (s : State) (g : Group) (sp : Split) (code code2 : Nat) (info : Int) : State :=
  s.emit 2 g.launch (dieOf g.core) g.key
    (recHeader s 2 64 g.launch false (some (g.core, g.slot, sp.idx, sp.mask)) (some sp.atPc)
      ++ leBytes 1 code ++ leBytes 1 code2 ++ signedBytes 2 info ++ leBytes 1 g.hdepth ++ zeroBytes 11)

/-! ## Events for the host -/

/-- An event record put into the event ring (R405), and for an X cause an EVENT record beside it (R379); a ring that was empty is signalled by
MSI-X vector 0 (R403; DESIGN CHOICE, log 98: once, as it becomes nonempty). -/
def State.hostEvent (s0 : State) (code port detail : Nat) : State :=
  let s := if 92 ≤ code then s0.emitEvent code 0 detail 0 (unitSrc 4) else s0
  let c := s.ctrl
  if c.evbase = 0 ∨ c.evsize = 0 ∨ c.evrd + c.evsize ≤ c.evwr then { s with ctrl := { c with evLost := true } }
  else
    let at_ := c.evbase + 16 * (c.evwr % c.evsize)
    let bs := leBytes 1 code ++ leBytes 1 port ++ zeroBytes 6 ++ leBytes 8 (detail % 2 ^ 63 + (if c.evLost then 2 ^ 63 else 0))
    let mem := (List.range 16).foldl (fun m i => mapInsert (at_ + i) (bs.getD i 0#8) m) s.hostMem
    { s with
      hostMem := mem
      ctrl := { c with evwr := c.evwr + 1, evLost := false }
      msix := if c.evrd = c.evwr then s.msix ++ [0] else s.msix }

end Sys2Proof.Machine
end

