-- ==== Sys2Proof/Machine/Ops.lean ====
section
/-! DEFINITION. The shared operations: registers and lanes, decode checks (R70), the scoreboard and the stall contract (R71 to
R75), taking a trap (R205, R206, R352 to R356, R372), and running one instruction (R57, R88). -/

namespace Sys2Proof.Machine

/-! ## Operands -/

/-- The register files. -/
inductive RFile where
  | vec | scal | pred
deriving DecidableEq, Repr

/-- A register operand: its file, its index, the words it covers, whether a pair or complex rule holds for its index, and
whether it is read or written (R61, R62, R39). -/
structure Opd where
  file : RFile
  idx : Nat
  words : Nat := 1
  /-- the index must be a multiple of this (1, 2 for a pair, 4 for CF54) -/
  align : Nat := 1
  rd : Bool := false
  wr : Bool := false
  /-- lanes other than the active ones are read too (R130) -/
  across : Bool := false
  /-- of the active lanes only the lowest is read (R131, R252) -/
  elected : Bool := false
deriving DecidableEq, Repr

/-- What an instruction uses, for its decode checks (R70). -/
structure Use where
  /-- a vector form, or a form that no sequencer runs -/
  vector : Bool := false
  /-- a block +3 form -/
  matrix : Bool := false
  priv : Bool := false
  resv : Bool := false
  opds : List Opd := []
  /-- a cause that follows the seven checks (R137, R139) -/
  late : Option Cause := none
  /-- the issue cost w of R71 -/
  cost : Nat := 1
  /-- every lane of the split counts as active for lane accounting: `SEL` (R397) -/
  every : Bool := false
deriving DecidableEq, Repr

/-! ## Traps -/

/-- CAUSE from its fields (R200). -/
def causeWord (code lane split defer : Nat) (info : Int) (code2 : Nat) : Word :=
  Tern.ofInt 27 ((code : Int) + (lane : Int) * 3 ^ 5 + (split : Int) * 3 ^ 10 + (defer : Int) * 3 ^ 12
    + info * 3 ^ 14 + (code2 : Int) * 3 ^ 22)

/-- The zero address. -/
def azero : Addr := Tern.zero 54

/-- A PC advanced by words (R55). -/
def pcAdd (p : Addr) (words : Int) : Addr := Tern.ofInt 54 (p.val + 3 * words)

/-- FSTAT once some late flags have been added to it (R48). -/
def lateInto (f : Flags) (l : List LateFlags) : Flags := l.foldl (fun a e => a.or e.flags) f

/-- FSTAT as it stands once every result of fixed latency that has been computed is written (R48). -/
def Group.allFlags (g : Group) : Flags := lateInto g.fstat g.late

/-- Outstanding fixed-latency results of the group are written with their flags: no guaranteed distance crosses this (R71, R48). -/
def Group.drain (g : Group) : Group := { g with splits := g.splits.map (fun x => { x with pend := [] }), fstat := g.allFlags, late := [] }

/-- The trap registers written in full, and the split's region state left (R205 step 2). -/
def Group.writeTrap (g : Group) (i : Nat) (t : TrapInfo) : Group :=
  match g.split? i with
  | none => g
  | some sp =>
    let region := match t.deferred with | some (_, r, _) => r | none => sp.region
    let count := match t.deferred with | some (_, _, c) => c | none => sp.ecount
    let g1 := { g with
      cause := causeWord t.cause.code t.lane i (if t.deferred.isSome then 1 else 0) t.info 0
      epc := t.epc
      epc2 := (match t.deferred with | some (q, _, _) => q | none => azero)
      eregion := region.getD azero
      ecount := if region.isSome then count else wzero }
    g1.modSplit i (fun x => { x with region := none })

/-- What a stop inside the handler writes (R205 step 3, R206). -/
def Group.stopInHandler (g : Group) (c : Cause) : Group :=
  { g with cause := g.cause.setField 22 (Tern.ofInt 5 (c.code : Int)), hdepth := 2 }

/-- What a stop of a group writes (R205 step 3, R206): one for an attached debugger writes what R434 names; any other, a debug cause with no
debugger among them, all that a trap does (R353). -/
def Group.stopRegs (g : Group) (i : Nat) (t : TrapInfo) (debug : Bool) : Group :=
  if g.hdepth ≠ 0 then g.stopInHandler t.cause
  else if debug then { g with cause := causeWord t.cause.code 0 i 0 t.info 0, epc := t.epc, epc2 := azero }
  else g.writeTrap i t

/-- The group stops at this boundary (R205 step 3, R206, R434). -/
def Group.stopAt (g : Group) (i : Nat) (t : TrapInfo) (debug : Bool) (now : Nat) : Group :=
  { g.stopRegs i t debug with status := .stopped t.cause i, haltedAt := now }

/-- The handler is entered (R205 step 2, R97). -/
def Group.enterHandler (g : Group) (i : Nat) (t : TrapInfo) : Group :=
  let g1 := { g.writeTrap i t with hdepth := 1, trapSplit := some i, heldSplits := (g.splits.map (fun (x : Split) => x.idx)).filter (fun j => j != i) }
  g1.modSplit i (fun x => { x with pc := g.tvec, wait := .none })

/-- Whether a debugger is attached to a launch (R387). -/
def State.attached (s : State) (launch : Nat) : Bool :=
  match s.launch? launch with | some l => l.dbg.attached | none => false

/-- A stop presented to the debugger or to Daymark, with its STOP record (R356, R379). -/
def State.recordStop (s : State) (key i : Nat) (t : TrapInfo) : State :=
  match s.group? key with
  | none => s
  | some g =>
    let mask := match g.split? i with | some sp => sp.mask | none => 0#32
    let s1 := { s with stops := s.stops ++ [⟨g.launch, t.cause, some ⟨key, i, g.epc, mask⟩⟩] }
    match g.split? i with
    | none => s1
    | some sp => s1.emitStop g sp (g.cause.field 0 5).val.toNat (g.cause.field 22 5).val.toNat t.info

/-- Picojoules added to an account of whole nanojoules with its remainder (R399). -/
def addPj (nj pj d : Nat) : Nat × Nat := (nj + (pj + d) / 1000, (pj + d) % 1000)

/-- Picojoules of a group's or context's activity that no interval has charged yet: its PERF counters and, for a context, its arrays'
passes, each times its coefficient (R399). -/
def Group.activityPj (g : Group) : Nat :=
  let kind : Nat := if g.isSeq then 8 else 0
  (List.range 8).foldl (fun a i => a + Config.energyCoef (kind + i) * (g.perf.getD i 0 - g.perfAt.getD i 0)) 0 +
  (match g.ctx with | some c => Config.energyCoef 16 * c.passes | none => 0)

/-- The activity of a group that leaves its slot charged: to its crew, to its launch's sequencer account, or for the walker to the device
(R399). -/
def State.settleGroup (s : State) (g : Group) : State :=
  let d := g.activityPj
  if g.isWalker then
    let e := addPj s.energy s.energyPj d
    { s with energy := e.1, energyPj := e.2 }
  else if g.isSeq then
    s.modLaunch g.launch (fun l => { l with seqEnergy := (addPj l.seqEnergy l.seqEnergyPj d).1, seqEnergyPj := (addPj l.seqEnergy l.seqEnergyPj d).2 })
  else s.modCrew g.launch g.core g.crew (fun c => { c with energy := (addPj c.energy c.energyPj d).1, energyPj := (addPj c.energy c.energyPj d).2 })

/-- How a walk ends (R372). -/
inductive WalkEnd where
  | exited | trap1 | trap2 | failed
deriving DecidableEq, Repr

/-- Whether two addresses of one domain lie in one page (R163, R371). -/
def samePage (a b : Addr) : Bool := (a.index / 3 ^ 10) % 3 ^ 36 == (b.index / 3 ^ 10) % 3 ^ 36

/-- Whether two misses are of one page of one domain at one core, so that they are combined (R371). -/
def Miss.same (a b : Miss) : Bool := a.core == b.core && a.domain == b.domain && samePage a.va b.va

/-- The misses of a list, one for each page of a domain: misses of one page are combined (R371). -/
def missPages : List Miss → List Miss
  | [] => []
  | m :: t => m :: (missPages t).filter (fun x => !x.same m)

/-- Misses that wait in a core's walker queue (R371): combined by page, the one that the walker serves not among them. -/
def State.walkWaiting (s : State) (core : Nat) : Nat :=
  let served := fun (m : Miss) => match (s.group? (gkey core 191)).bind (fun g => g.walk) with | some w => w.same m | none => false
  (missPages (s.misses.filter (fun m => m.core == core && !served m))).length

/-- Whether a miss enters its core's queue at once: it joins one of its page, or there is room and none is held before it (R371). -/
def State.missFits (s : State) (m : Miss) : Bool :=
  s.misses.any (fun x => x.same m) || (decide (s.walkWaiting m.core < 81) && !s.heldMisses.any (fun x => x.core == m.core))

/-- A miss joins its core's queue, or is held at the L1 TLB while the queue is full, if it is not there already (R371). -/
def State.queueMiss (s : State) (m : Miss) : State :=
  if (s.misses ++ s.heldMisses).any (fun x => x.same m && x.key == m.key && x.split == m.split) then s
  else if s.missFits m then { s with misses := s.misses ++ [m] }
  else { s with heldMisses := s.heldMisses ++ [m] }

/-- Held misses of a core enter its queue in the order in which they arrived, as places come free (R371). -/
def State.admitMisses (s : State) (core : Nat) : Nat → State
  | 0 => s
  | n + 1 =>
    match s.heldMisses.find? (fun m => m.core == core) with
    | none => s
    | some m =>
      if s.misses.any (fun x => x.same m) || decide (s.walkWaiting core < 81) then
        { s with misses := s.misses ++ [m], heldMisses := s.heldMisses.erase m }.admitMisses core n
      else s

/-- The end of a walk: the walker group leaves its slot and the misses of its page are answered (R372). -/
def State.endWalk (s : State) (key : Nat) (e : WalkEnd) : State :=
  match s.group? key with
  | none => s
  | some g =>
    let s1 := { s.settleGroup g with groups := mapErase key s.groups }
    match g.walk with
    | none => s1
    | some m =>
      let mine := s1.misses.filter (fun x => x.same m)
      let s2 := { s1 with misses := s1.misses.filter (fun x => !x.same m) }.admitMisses m.core s1.heldMisses.length
      match e with
      | .exited => if g.walkFilled then s2 else { s2 with walkFails := s2.walkFails ++ mine.map (fun x => (x, .walkerFault)) }
      | .trap1 => { s2 with asks := s2.asks ++ mine.map (fun x => ⟨x⟩) }
      | .trap2 => { s2 with walkFails := s2.walkFails ++ mine.map (fun x => (x, .tableFormat)) }
      | .failed => { s2 with walkFails := s2.walkFails ++ mine.map (fun x => (x, .walkerFault)) }

/-- How a trap that ends a walk ends it (R372). -/
def walkEndOf (t : TrapInfo) : WalkEnd :=
  if t.cause = .softwareTrap then (if t.info = 1 then .trap1 else if t.info = 2 then .trap2 else .failed) else .failed

/-- Whether a cause is delivered to the group's handler: kinds G and T, and BREAKPOINT with no debugger attached (R353). -/
def State.toHandler (s : State) (launch : Nat) (c : Cause) : Bool :=
  match c.delivery with
  | .group => true
  | .translation => true
  | .debugger => c == .breakpoint && !s.attached launch
  | _ => false

/-- A walk's answer is used up once its requester has raised it, or has issued (R372). -/
def State.answered (s : State) (key i : Nat) : State :=
  { s with walkFails := s.walkFails.filter (fun e => !(e.1.key == key && e.1.split == i)) }

/-- A group without the trap that split `i` has taken in this cycle: the trap registers, the handler's state and the split's place as
they stood before it (R355, R366). -/
def Group.untrap (g g0 : Group) (i : Nat) : Group :=
  { g with
    cause := g0.cause, epc := g0.epc, epc2 := g0.epc2, eregion := g0.eregion, ecount := g0.ecount, hdepth := g0.hdepth
    trapSplit := g0.trapSplit, heldSplits := g0.heldSplits, status := g0.status, haltedAt := g0.haltedAt }.modSplit i
    (fun x => match g0.split? i with
      | some x0 => { x with pc := x0.pc, wait := x0.wait, region := x0.region, ecount := x0.ecount }
      | none => x)

/-- The last record of a source taken out of the queue of records. -/
def dropLastOf (src : Nat) (l : List TraceRec) : List TraceRec :=
  let back := l.reverse
  (back.takeWhile (fun x => x.src != src) ++ (back.dropWhile (fun x => x.src != src)).drop 1).reverse

/-- Whether a group has stopped under step 3 of R205. -/
def Group.hasStopped (g : Group) : Bool := match g.status with | .stopped _ _ => true | _ => false

/-- The stop that a group's trap of this cycle led to, and its record, taken back. -/
def State.unstop (s : State) (key : Nat) (g : Group) : State :=
  if !g.hasStopped then s
  else
    { s with
      stops := s.stops.filter (fun x => (x.who.map (fun w => w.key)) != some key)
      records := if s.traced 2 g.launch then dropLastOf key s.records else s.records }

/-- What precedes a machine cause in its group in this cycle is not recorded: a trap taken, the stop that it led to, and deferred
faults (R355). -/
def State.forgetCycle (s : State) (key : Nat) : State :=
  let fresh := fun (g : Group) => { g with faults := g.faults.filter (fun d => d.at_ != s.now) }
  match s.group? key, mapFind key s.fresh with
  | some g, some ((i, _), g0) => { s.unstop key g with groups := mapInsert key (fresh (g.untrap g0 i)) s.groups, fresh := mapErase key s.fresh }
  | some g, none => s.setGroup key (fresh g)
  | none, _ => s

/-- Whether a group has stopped for a machine cause (R353 kind M). -/
def Group.machineStopped (g : Group) : Bool :=
  match g.status with | .stopped c _ => c.delivery == .machine | _ => false

/-- A trap is taken by a split (R205, R206, R353, R355, R372). -/
def State.takeTrap (s0 : State) (key i : Nat) (t : TrapInfo) : State :=
  let s := if t.cause.delivery == .machine then s0.forgetCycle key else s0
  match s.group? key with
  | none => s
  | some g =>
    if g.isWalker then s.endWalk key (walkEndOf t)
    else if g.machineStopped then s
    else
      let s1 := { s.answered key i with fresh := mapInsert key ((i, t), g) s.fresh }
      let g1 := g.drain
      if s1.toHandler g.launch t.cause && g.hdepth == 0 && g.tvec != azero then s1.setGroup key (g1.enterHandler i t)
      else (s1.setGroup key (g1.stopAt i t (t.cause.delivery == .debugger && s1.attached g.launch) s.now)).recordStop key i t

/-- The split of a group at which a stop of the whole group is taken: the handler's, or the lowest (R206, R434). -/
def Group.stopSplit (g : Group) : Nat :=
  match g.trapSplit with
  | some i => i
  | none => match g.splits with | [] => 0 | x :: _ => x.idx

/-- The group as a halt finds it: a fault that it has taken in this cycle, to its handler or to a stop outside one, stays pending (R366);
one in its handler has stopped it (R206), and so has a machine cause (R355). -/
def State.beforeHalt (s : State) (key : Nat) (g : Group) : Group :=
  match mapFind key s.fresh with
  | some ((i, t), g0) =>
    if g0.hdepth = 0 ∧ g0.status = .running ∧ (s.toHandler g.launch t.cause = true ∨ (t.cause.delivery ≠ .machine ∧ t.cause.delivery ≠ .debugger)) ∧ g.hdepth ≠ 2 then
      { g.untrap g0 i with pending := some (i, t) }
    else g
  | none => g

/-- A running group halted by a ring of its launch's fog-bell (R389, R366). -/
def State.haltGroup (s : State) (key : Nat) (c : Cause) (info : Int) : State :=
  match s.group? key with
  | none => s
  | some g' =>
    let g := s.beforeHalt key g'
    if g.status ≠ .running then s.setGroup key { g' with resumeDue := false }
    else
      match g.split? g.stopSplit with
      | none => s
      | some sp =>
        let s1 := if g' = g then s else s.unstop key g'
        let g1 := { g.drain.stopRegs sp.idx { cause := c, info := info, epc := sp.atPc } (s.attached g.launch) with status := .halted c, haltedAt := s.now }
        (s1.setGroup key g1).emitStop g1 sp (g1.cause.field 0 5).val.toNat (g1.cause.field 22 5).val.toNat info

/-- The keys of a launch's groups and contexts, in order. -/
def State.launchKeys (s : State) (id : Nat) : List Nat := (s.groups.filter (fun e => e.2.launch == id && !e.2.isWalker)).map (·.1)

/-- The fog-bell rung for a launch (R389): every group and context halts; a halted launch is not changed. With no debugger
attached the stop goes to Daymark (R353, R356). -/
def State.ring (s : State) (id : Nat) (c : Cause) (info : Int) : State :=
  match s.launch? id with
  | none => s
  | some l =>
    if l.halted.isSome || l.complete then s
    else
      let s1 := s.modLaunch id (fun l => { l with halted := some c, haltedAt := s.now })
      let keys := s.launchKeys id
      let s2 := keys.foldl (fun st k => st.haltGroup k c info) s1
      if l.dbg.attached then s2
      else
        let who := keys.findSome? (fun k => match s2.group? k with
          | some g => if g.status == .halted c then some ⟨k, g.stopSplit, g.epc, (match g.split? g.stopSplit with | some sp => sp.mask | none => 0#32)⟩ else none
          | none => none)
        { s2 with stops := s2.stops ++ [⟨id, c, who⟩] }

/-- ERET to an address with a region state (R208): the handler is left and the held splits are released. -/
def Group.leaveHandler (g : Group) (i : Nat) (pc : Addr) (region : Option Addr) (count : Option Word) : Group :=
  let g1 := { g.drain with hdepth := 0, trapSplit := none, heldSplits := [] }
  g1.modSplit i (fun x => { x with pc := pc, region := region, ecount := count.getD x.ecount })

/-- The handler is left because the trapping split ended inside it (R208). -/
def Group.dropHandler (g : Group) : Group := { g.drain with hdepth := 0, trapSplit := none, heldSplits := [] }

/-- Whether a split is held because another is in the handler (R97). -/
def Group.holds (g : Group) (i : Nat) : Bool := g.heldSplits.contains i

/-! ## The executing split -/

/-- The executing split with the state it issues in, and the lanes active for its instruction (R57). -/
structure Fr where
  s : State
  key : Nat
  g : Group
  sp : Split
  act : BitVec 32
  h : Head
deriving DecidableEq, Repr

/-- Values among which the reader of a result that is not yet guaranteed finds its element (R75): the value now, then the
values before each undersized write, the newest first. -/
def Split.choices (sp : Split) (file reg lane : Nat) (cur : Word) : List Word :=
  cur :: (sp.pend.filter (fun p => p.file == file && p.reg == reg && decide (p.dist < p.lam))).filterMap
    (fun p => (p.old.find? (fun e => e.1 == lane)).map (·.2))

/-- A word each of whose elements of `n` trits is taken freely from one of the candidates (R75, R130). -/
def mixWord (n seed : Nat) (c : List Word) : Word :=
  match c with
  | [] => wzero
  | [w] => w
  | _ => ofEls n ((List.range (27 / n)).map (fun j => el (c.getD (Config.pick (seed + j) % c.length) wzero) j n))

/-- A register's word as the file holds it; index 80 reads as zero (R61). -/
def Group.vreg (g : Group) (r lane : Nat) : Word := if 80 ≤ r then wzero else mapGet wzero g.v (32 * r + lane)
def Group.sreg (g : Group) (r : Nat) : Word := if 80 ≤ r then wzero else mapGet wzero g.s r
def Group.preg (g : Group) (r lane : Nat) : Trit := mapGet (Tern.zero 1) g.p (32 * r + lane)

/-- The seed of the free choices of one operand read. -/
def Fr.seed (fr : Fr) (field reg lane : Nat) : Nat := fr.s.free * 2 ^ 20 + field * 2 ^ 16 + reg * 2 ^ 9 + lane * 2 ^ 4

/-- A vector register read by one lane of an instruction whose elements have `n` trits (R61, R75). -/
def Fr.readV (fr : Fr) (field r lane : Nat) (n : Nat := 27) : Word :=
  if 80 ≤ r then wzero
  else if fr.g.scheck then fr.g.vreg r lane
  else mixWord n (fr.seed field r lane) (fr.sp.choices 0 r lane (fr.g.vreg r lane))
/-- A scalar register read (R61, R75). -/
def Fr.readS (fr : Fr) (field r : Nat) (n : Nat := 27) : Word :=
  if 80 ≤ r then wzero
  else if fr.g.scheck then fr.g.sreg r
  else mixWord n (fr.seed field r 0) (fr.sp.choices 1 r 0 (fr.g.sreg r))
/-- A predicate trit read (R72, R75, R87). -/
def readP (g : Group) (sp : Split) (seed r lane : Nat) : Int :=
  let cur := (g.preg r lane).val
  if g.scheck then cur
  else
    let c := sp.choices 2 r lane (Tern.ofInt 27 cur)
    match c with
    | [_] => cur
    | _ => (c.getD (Config.pick seed % c.length) wzero).val
def Fr.readP (fr : Fr) (r lane : Nat) : Int := Sys2Proof.Machine.readP fr.g fr.sp (fr.seed 7 r lane) r lane

/-- Guaranteed distances of the undersized writes that a reader of a register lane meets, the newest first: one for each writer (R75). -/
def Split.dists (sp : Split) (file reg lane : Nat) : List Nat :=
  (sp.pend.filter (fun p => p.file == file && p.reg == reg && decide (p.dist < p.lam) && p.old.any (fun e => e.1 == lane))).map (·.dist)

/-- A register lane as it stood before every undersized write of a guaranteed distance of at most `d` (R75). -/
def Split.before (sp : Split) (file reg lane d : Nat) (cur : Word) : Word :=
  (((sp.pend.filter (fun p => p.file == file && p.reg == reg && decide (p.dist < p.lam) && decide (p.dist ≤ d))).filterMap
    (fun p => (p.old.find? (fun e => e.1 == lane)).map (·.2))).getLast?).getD cur

/-- An element of two registers: as they stand, or both as they stood before some undersized write, never half of each (R62, R75). -/
def Split.pair (sp : Split) (seed file reg lane : Nat) (lo hi : Word) : Addr :=
  match (sp.dists file reg lane ++ sp.dists file (reg + 1) lane).eraseDups with
  | [] => mkPair lo hi
  | ds =>
    match Config.pick seed % (ds.length + 1) with
    | 0 => mkPair lo hi
    | k + 1 => mkPair (sp.before file reg lane (ds.getD k 0) lo) (sp.before file (reg + 1) lane (ds.getD k 0) hi)

/-- A scalar pair (R62, R75); index 80 reads as a zero pair. -/
def Fr.readS2 (fr : Fr) (field r : Nat) : Addr :=
  if 80 ≤ r then azero
  else if fr.g.scheck then mkPair (fr.g.sreg r) (fr.g.sreg (r + 1))
  else fr.sp.pair (fr.seed field r 0) 1 r 0 (fr.g.sreg r) (fr.g.sreg (r + 1))
/-- A vector pair (R62, R75). -/
def Fr.readV2 (fr : Fr) (field r lane : Nat) : Addr :=
  if 80 ≤ r then azero
  else if fr.g.scheck then mkPair (fr.g.vreg r lane) (fr.g.vreg (r + 1) lane)
  else fr.sp.pair (fr.seed field r lane) 0 r lane (fr.g.vreg r lane) (fr.g.vreg (r + 1) lane)

/-- The lanes of an instruction, in rising order. -/
def Fr.lanes (fr : Fr) : List Nat := lanesOf fr.act
/-- Whether some lane is active (R88, R117). -/
def Fr.any (fr : Fr) : Bool := fr.act != 0#32

/-- The lanes of a split active under a predicate field (R57). -/
def activeLanes (g : Group) (sp : Split) (seed : Nat) (h : Head) : BitVec 32 :=
  let pr := h.pred.index
  if pr = 8 then sp.mask
  else maskOf (fun l => sp.mask.getLsbD l && readP g sp (seed + 2 ^ 4 * l) pr l == h.psense.val)

/-- Fallback entries whose PC is the split's join its lanes, from the top (R91, meeting). -/
def meetFalls (pc : Addr) (m : BitVec 32) : List Fallback → BitVec 32 × List Fallback
  | [] => (m, [])
  | e :: t => if e.pc = pc then meetFalls pc (m ||| e.mask) t else (m, e :: t)

/-- The lanes of a split: those it runs and those its fallback entries hold (R89). -/
def Split.ownLanes (x : Split) : BitVec 32 := x.falls.foldl (fun m e => m ||| e.mask) x.mask

/-- A split after its meetings (R91). -/
def Split.meet (x : Split) : Split :=
  { x with mask := (meetFalls x.pc x.mask x.falls).1, falls := (meetFalls x.pc x.mask x.falls).2 }

/-- The frame of a split that meets nothing. -/
def mkFrame (s : State) (k : Nat) (g : Group) (sp : Split) (h : Head) : Fr :=
  ⟨s, k, g, sp, activeLanes g sp (s.free * 2 ^ 20 + 7 * 2 ^ 16 + h.pred.index * 2 ^ 9) h, h⟩

/-- The executing split of the state, if there is one; meetings happen before its instruction issues (R91). -/
def State.frame? (s : State) (h : Head) : Option Fr :=
  match s.group? s.cur.1 with
  | none => none
  | some g =>
    match g.split? s.cur.2 with
    | none => none
    | some sp =>
      if sp.falls.isEmpty then some (mkFrame s s.cur.1 g sp h)
      else
        let g1 := g.modSplit sp.idx Split.meet
        some (mkFrame (s.setGroup s.cur.1 g1) s.cur.1 g1 sp.meet h)

/-! ## Decode checks -/

/-- Whether a register operand is outside the allocation or names a predicate above c7 (R61, R63). An index that breaks the pair or
complex rule implies no further register, so that only the named one counts (R62, R39; DEDUCED, log 85). -/
def Opd.bad (g : Group) (o : Opd) : Bool :=
  let words := if o.idx % o.align = 0 then o.words else 1
  match o.file with
  | .pred => decide (7 < o.idx)
  | .vec => decide (o.idx < 80) && decide (g.nv < o.idx + words)
  | .scal => decide (o.idx < 80) && decide (g.ns < o.idx + words)

/-- Whether an operand breaks the pair or complex rule (R62, R39). -/
def Opd.badPair (o : Opd) : Bool := decide (o.idx < 80) && decide (o.idx % o.align ≠ 0)

/-- A group or context is privileged (R198). -/
def Group.priv (g : Group) : Bool := g.isWalker || g.privileged

/-- The decode checks 3 to 7 of R70 in order, and the checks that follow them. -/
def decodeCause (g : Group) (u : Use) : Option Cause :=
  if (u.vector && g.isSeq) || (u.matrix && !g.isSeq) then some .wrongUnit
  else if u.priv && !g.priv then some .privileged
  else if u.resv then some .reservedField
  else if u.opds.any (fun o => o.bad g) then some .badRegister
  else if u.opds.any (fun o => o.badPair) then some .badPair
  else u.late

/-! ## The scoreboard and the stall contract -/

/-- Whether a destination covers a register. -/
def Dest.covers (d : Dest) (vec : Bool) (r : Nat) : Bool := d.vec == vec && decide (d.reg ≤ r) && decide (r < d.reg + d.words)

/-- Whether an operand covers a register of a destination (R187). -/
def Opd.touches (o : Opd) (d : Dest) : Bool :=
  decide (o.idx < 80) && decide (d.reg < 80) &&
  (match o.file with | .vec => d.vec | .scal => !d.vec | .pred => false) &&
  decide (o.idx < d.reg + d.words) && decide (d.reg < o.idx + o.words)

/-- The lanes of a register that an access will still write. -/
def Access.liveLanes (a : Access) (r : Nat) : BitVec 32 :=
  let m := maskOf (fun l => a.lanes.any (fun x => x.lane == l))
  a.killed.foldl (fun acc e => if e.1 == r then acc &&& ~~~ e.2 else acc) m

/-- The scalar registers that the end of a wait writes (R212, R213, R216, R256, R300, R251). -/
def Wait.dests : Wait → List Nat
  | .waitge _ _ d _ _ => [d, d + 1]
  | .bwait _ _ d _ _ => [d]
  | .xbar _ _ d _ => [d]
  | .swait _ _ d _ _ => [d, d + 1]
  | .pins (.withdraw _ d) => [d]
  | _ => []

/-- Whether a register that an operand covers awaits a scoreboarded result (R73): of an access, of a long-latency unit, or of a wait. -/
def Group.awaited (g : Group) (o : Opd) : Bool :=
  decide (o.idx < 80) &&
  ((List.range o.words).any (fun j =>
    (o.file == .scal && g.splits.any (fun x => x.wait.dests.contains (o.idx + j))) ||
    g.infl.any (fun a => match a.dest with
      | some d => d.covers (o.file == .vec) (o.idx + j) && o.file != .pred && a.liveLanes (o.idx + j) != 0#32 && !a.done
      | none => false)
    || g.longs.any (fun r => r.vec == (o.file == .vec) && o.file != .pred &&
        r.parts.any (fun q => q.1 == o.idx + j && !q.2.isEmpty))))

/-- Whether an instruction waits at issue for an operand that it reads (R73). -/
def Fr.operandsPending (fr : Fr) (u : Use) : Bool := fr.any && u.opds.any (fun o => o.rd && fr.g.awaited o)

/-- The number of a file in a split's list of unguaranteed results. -/
def RFile.num : RFile → Nat
  | .vec => 0
  | .scal => 1
  | .pred => 2

/-- The lanes of which an instruction active in `lanes` reads an operand; those of a cross-lane read are looked at where they are known
(`Fr.acrossCause`). -/
def Opd.lanes (o : Opd) (lanes : List Nat) : List Nat := if o.across then [] else if o.elected then lanes.take 1 else lanes

/-- Whether a pending result is read by an operand in some active lane. -/
def Pend.hits (p : Pend) (act : BitVec 32) (o : Opd) : Bool :=
  o.rd && decide (o.idx < 80) && p.file == o.file.num && decide (o.idx ≤ p.reg) && decide (p.reg < o.idx + o.words) &&
  (p.file == 1 || (o.lanes (lanesOf act)).any (fun l => p.old.any (fun e => e.1 == l)))

/-- Whether the checking scoreboard finds a read whose guaranteed distance is too short (R75). -/
def Fr.undersized (fr : Fr) (u : Use) : Bool :=
  fr.g.scheck &&
  fr.sp.pend.any (fun p => decide (p.dist < p.lam) &&
    ((decide (fr.h.pred.index < 8) && p.file == 2 && p.reg == fr.h.pred.index && p.old.any (fun e => fr.sp.mask.getLsbD e.1))
      || (fr.any && u.opds.any (fun o => p.hits fr.act o))))

/-- The recorded deferred fault that an instruction triggers by touching its destination (R187). -/
def Fr.deferredHit (fr : Fr) (u : Use) : Bool :=
  fr.any && fr.g.faults.any (fun d => match d.dest with
    | some dd => u.opds.any (fun o => (o.rd || o.wr) && o.touches dd)
    | none => false)

/-- The oldest recorded deferred fault of a group (R187). -/
def oldestFault : List Deferred → Option Deferred
  | [] => none
  | d :: t =>
    match oldestFault t with
    | none => some d
    | some e => if e.seq < d.seq then some e else some d

/-- The oldest recorded fault is raised at a trigger, and the younger ones of its split are discarded (R187, R362). -/
def State.raiseDeferred (s : State) (key i : Nat) (trigger : Addr) : State :=
  match s.group? key with
  | none => s
  | some g =>
    match oldestFault g.faults with
    | none => s
    | some d =>
      let g1 := { g with faults := g.faults.filter (fun e => e.split != d.split) }
      let mx := if g.isSeq then s.mxJobs.filter (fun e =>
        !(e.2.launch == g.launch && e.2.cluster == clusterOf g.core && e.2.complete && decide (d.seq < e.2.seq))) else s.mxJobs
      ({ s with mxJobs := mx }.setGroup key g1).takeTrap key i
        { cause := d.cause, lane := d.lane, info := (d.path : Int), epc := d.pc
          deferred := some (trigger, d.region, d.ecount) }

/-! ## Issue -/

/-- The issue slot of a group, or the sequencer of a context (R18). -/
def Group.issueSlot (g : Group) : Nat := if g.isSeq then 1024 + clusterOf g.core else 4 * g.core + g.slot / 48

/-- A PERF counter raised, saturating at the T27 maximum (R224). -/
def bumpAt (l : List Nat) (i n : Nat) : List Nat := setAt l i (min (l.getD i 0 + n) (half 27))

/-- An error corrected, or recovered from, counted (R27, R357): one in the storage of a core for each group that is resident there (R224). -/
def State.corrects (s : State) (core : Option Nat := none) : State :=
  { s with
    corrected := s.corrected + 1
    groups := s.groups.map (fun (e : Nat × Group) =>
      (e.1, if core == some e.2.core && !e.2.isSeq && !e.2.isWalker then { e.2 with perf := bumpAt e.2.perf 7 1 } else e.2)) }

/-- What the issue slot did, for lane accounting and samples (R397). -/
def Fr.issuedAs (fr : Fr) (two every : Bool) : Issued :=
  let mask := fr.sp.mask
  let act := if every then mask else fr.act
  { slot := fr.g.issueSlot, key := fr.key, split := fr.sp.idx, launch := fr.g.launch, pc := fr.sp.pc, active := laneCount act
    predoff := laneCount (mask &&& ~~~ act), diverged := laneCount (~~~ mask &&& ~~~ fr.g.absent), absent := laneCount fr.g.absent
    mask := fr.act, counts := !fr.g.isWalker && (match fr.s.launch? fr.g.launch with | some l => l.halted.isNone | none => true)
    two := two }

/-- Older unguaranteed results lose the lanes that a later, guaranteed write of their register covers (R74). -/
def coverPends (p : Pend) (l : List Pend) : List Pend :=
  (l.map (fun q => if q.file == p.file && q.reg == p.reg then { q with old := q.old.filter (fun e => !p.old.any (fun d => d.1 == e.1)) } else q)).filter
    (fun q => !q.old.isEmpty)

/-- The unguaranteed results of a split, the newest first, after `w` more cycles of guaranteed distance (R71, R72, R74). -/
def agePends (w : Nat) : List Pend → List Pend
  | [] => []
  | p :: t =>
    if p.dist + w < p.lam then { p with dist := p.dist + w } :: agePends w t else coverPends p (agePends w t)

/-- The instruction issues: the spacing of R71, the guaranteed distances, the counters of R224, and the PC past it (R55). -/
def Fr.issue (fr : Fr) (cost len : Nat) (every : Bool := false) : State :=
  let w := cost + fr.h.stall.index
  let sp := { fr.sp with
    pc := pcAdd fr.sp.pc (len : Int)
    wait := .none
    waitCount := 0
    nextAt := fr.s.now + w
    passBreak := false
    lastAct := fr.act
    pend := agePends w fr.sp.pend }
  let g := { fr.g.modSplit fr.sp.idx (fun _ => sp) with
    stepIssued := fr.g.stepIssued || fr.g.stepping == some fr.sp.idx
    perf := bumpAt (bumpAt fr.g.perf 0 1) 1 (laneCount fr.act) }
  { (fr.s.answered fr.key fr.sp.idx).setGroup fr.key g with issued := fr.issuedAs (decide (2 ≤ cost)) every :: fr.s.issued, free := fr.s.free + 1 }

/-- Why an instruction does not complete. -/
inductive Halt where
  | trap (t : TrapInfo)
  /-- it cannot issue yet; the state it leaves beside the wait -/
  | block (s : State)
  /-- it waits for a full counter or a busy unit -/
  | full
  /-- it waits for a result -/
  | stall
deriving Repr

/-- The split waits to issue (R98). -/
def State.block (s : State) (key i : Nat) : State := s.modSplit key i (fun x => { x with wait := .blocked })

/-- The split waits for a full counter or a busy unit (R184, R119). -/
def State.waitFull (s : State) (key i : Nat) : State := s.modSplit key i (fun x => { x with wait := .full })

/-- The split waits for a scoreboarded operand (R73, R98). -/
def State.stall (s : State) (key i : Nat) : State := s.modSplit key i (fun x => { x with wait := .stalled })

/-- A precise trap of the executing instruction (R352 kind P). -/
def Fr.trap (fr : Fr) (c : Cause) (lane : Nat := 0) (info : Int := 0) : TrapInfo :=
  { cause := c, lane := lane, info := info, epc := fr.sp.pc }

/-- A trap as the result of a meaning's body. -/
def Fr.fail (fr : Fr) {α : Type} (c : Cause) (lane : Nat := 0) : Except Halt α := .error (.trap (fr.trap c lane))

/-- Whether two trits or more of a word of storage are wrong, so that its code detects them and cannot correct them (R27). -/
def uncorrectable (m : FMap Nat) (k : Nat) : Bool := decide (2 ≤ mapGet 0 m k)

/-- The key of a predicate register's 32 trits, which are one word of storage (R27; DESIGN CHOICE, log 36). -/
def predBadKey (r : Nat) : Nat := 2 ^ 16 + r

/-- Whether an operand or the predicate of the head reads an uncorrectable register word (R357). A cross-lane read is looked at where
its lanes are known (`Fr.acrossCause`). -/
def Fr.badOperand (fr : Fr) (u : Use) : Bool :=
  !fr.g.bad.isEmpty &&
  ((decide (fr.h.pred.index < 8) && uncorrectable fr.g.bad (predBadKey fr.h.pred.index)) ||
    u.opds.any (fun o => o.rd && decide (o.idx < 80) && (List.range o.words).any (fun j => match o.file with
      | .vec => (o.lanes fr.lanes).any (fun l => uncorrectable fr.g.bad (32 * (o.idx + j) + l))
      | .scal => fr.any && uncorrectable fr.g.bad (2 ^ 15 + 32 * (o.idx + j))
      | .pred => fr.any && uncorrectable fr.g.bad (predBadKey o.idx))))

/-- One instruction of `len` words carried through decode checks, operands, deferred faults and the checking scoreboard to
its own effect (R70, R73, R75, R187). -/
def Fr.run (fr : Fr) (u : Use) (len : Nat) (body : Fr → State → Except Halt State) : State :=
  match decodeCause fr.g u with
  | some c => fr.s.takeTrap fr.key fr.sp.idx (fr.trap c)
  | none =>
    if fr.operandsPending u then fr.s.stall fr.key fr.sp.idx
    else if fr.badOperand u then fr.s.takeTrap fr.key fr.sp.idx (fr.trap .regfileUncorrectable)
    else if fr.deferredHit u then fr.s.raiseDeferred fr.key fr.sp.idx fr.sp.pc
    else if fr.undersized u then fr.s.takeTrap fr.key fr.sp.idx (fr.trap .stallUndersized)
    else
      match body fr (fr.issue u.cost len u.every) with
      | .ok s => s
      | .error (.trap t) => fr.s.takeTrap fr.key fr.sp.idx t
      | .error (.block s) => s.block fr.key fr.sp.idx
      | .error .full => fr.s.waitFull fr.key fr.sp.idx
      | .error .stall => fr.s.stall fr.key fr.sp.idx

/-- Run one instruction of the executing split. -/
def runOp (s : State) (h : Head) (u : Use) (len : Nat) (body : Fr → State → Except Halt State) :
    Host.Outcome State Fault Refusal :=
  match s.frame? h with
  | none => .fault .noExecutor
  | some fr => .next (fr.run u len body)

/-! ## Writing registers -/

/-- A register write: lanes and values. Predicate values are one trit. -/
inductive Wr where
  | v (reg : Nat) (vals : List (Nat × Word))
  | s (reg : Nat) (val : Word)
  | p (reg : Nat) (vals : List (Nat × Trit))
deriving DecidableEq, Repr

/-- The file, the register and the lanes of a register write; lane 0 stands for a scalar. -/
def Wr.file : Wr → Nat
  | .v _ _ => 0
  | .s _ _ => 1
  | .p _ _ => 2
def Wr.reg : Wr → Nat
  | .v r _ => r
  | .s r _ => r
  | .p r _ => r
def Wr.lanes : Wr → List Nat
  | .v _ vals => vals.map (·.1)
  | .s _ _ => [0]
  | .p _ vals => vals.map (·.1)

/-- The lanes of split `i` of a group (R89). -/
def Group.lanesOfSplit (g : Group) (i : Nat) : BitVec 32 := ((g.split? i).map Split.ownLanes).getD 0#32

/-- Values that vector writes replace, kept while more than one split can read across; the reads of the lanes `after` come after the
writes (R130). -/
def Group.keepHist (g : Group) (after : BitVec 32) (reg : Nat) (vals : List (Nat × Word)) : List Hist :=
  if g.splits.length ≤ 1 then g.hist
  else g.hist ++ vals.map (fun e => ⟨32 * reg + e.1, g.vreg reg e.1, after⟩)

/-- Unguaranteed results of a split that a write which every later instruction may read replaces in these lanes (R74). -/
def Group.dropPends (g : Group) (i file reg : Nat) (lanes : List Nat) : Group :=
  g.modSplit i (fun x => { x with pend := coverPends ⟨file, reg, 0, 0, lanes.map (fun l => (l, wzero))⟩ x.pend })

/-- Earlier results of the split that are still to be delivered no longer write these lanes (R74). -/
def Group.kill (g : Group) (i : Nat) (vec : Bool) (reg : Nat) (m : BitVec 32) : Group :=
  { g with
    infl := g.infl.map (fun a => match a.dest with
      | some d => if a.split == i && d.covers vec reg then { a with killed := (reg, m) :: a.killed } else a
      | none => a)
    longs := g.longs.map (fun r =>
      if r.split == i && r.vec == vec then
        { r with parts := r.parts.map (fun q => if q.1 == reg then (q.1, q.2.filter (fun e => !m.getLsbD e.1)) else q) }
      else r) }

/-- Register words that a write makes good (R27). -/
def Group.mend (g : Group) (ks : List Nat) : Group := if g.bad.isEmpty then g else { g with bad := g.bad.filter (fun e => !ks.contains e.1) }

/-- One register write, with no latency to note; index 80 discards it (R61, R74). -/
def Group.write (g : Group) (i : Nat) : Wr → Group
  | .v r vals =>
    if 80 ≤ r then g
    else
      let g1 := { g.kill i true r (maskOf (fun l => vals.any (fun e => e.1 == l))) with hist := g.keepHist (g.lanesOfSplit i) r vals }
      { g1.mend (vals.map (fun e => 32 * r + e.1)) with v := vals.foldl (fun m e => mapSet wzero m (32 * r + e.1) e.2) g.v }
  | .s r w =>
    if 80 ≤ r then g
    else { (g.kill i false r allLanes).mend [2 ^ 15 + 32 * r] with s := mapSet wzero g.s r w }
  | .p r vals =>
    { g.mend (if vals.length = 32 then [predBadKey r] else []) with
      p := vals.foldl (fun m e => mapSet (Tern.zero 1) m (32 * r + e.1) e.2) g.p }

/-- The unguaranteed result that a write leaves behind (R72, R75). -/
def Group.pendOf (g : Group) (lam dist : Nat) : Wr → Option Pend
  | .v r vals => if 80 ≤ r then none else some ⟨0, r, lam, dist, vals.map (fun e => (e.1, g.vreg r e.1))⟩
  | .s r _ => if 80 ≤ r then none else some ⟨1, r, lam, dist, [(0, g.sreg r)]⟩
  | .p r vals => some ⟨2, r, lam, dist, vals.map (fun e => (e.1, Tern.ofInt 27 (g.preg r e.1).val))⟩

/-- One register write that every later instruction may read (R74). -/
def Group.writeNow (g : Group) (i : Nat) (w : Wr) : Group := (g.write i w).dropPends i w.file w.reg w.lanes

/-- Register writes with a fixed latency λ, made by an instruction whose issue spaces the next one by `dist` (R71, R72). A
result that every later instruction may read leaves nothing behind. -/
def Group.writeAll (g : Group) (i lam dist : Nat) : List Wr → Group
  | [] => g
  | w :: t =>
    let g1 := match (if lam ≤ dist then none else g.pendOf lam dist w) with
      | some p => (g.write i w).modSplit i (fun x => { x with pend := p :: x.pend })
      | none => g.writeNow i w
    g1.writeAll i lam dist t

/-- Register writes of the executing instruction with latency λ; `lam` 0 for a result with no latency (R72, R73). -/
def Fr.writes (fr : Fr) (s : State) (lam : Nat) (ws : List Wr) (cost : Nat := 1) : State :=
  s.modGroup fr.key (fun g => g.writeAll fr.sp.idx lam (cost + fr.h.stall.index) ws)

/-- Flags to be added to FSTAT when the results are written, `lam` cycles on (R48): a `WRST` that executes before then does not take them
away, and an `RDST` of the split waits for them. -/
def Fr.addFlags (fr : Fr) (s : State) (lam : Nat) (f : Flags) : State :=
  s.modGroup fr.key (fun g => { g with late := if f = .none then g.late else g.late ++ [⟨fr.sp.idx, fr.s.now + lam, f⟩] })

/-- A scalar pair's two writes (R62); index 80 discards both. -/
def wrPair (r : Nat) (a : Addr) : List Wr := if 80 ≤ r then [] else [.s r (pairLo a), .s (r + 1) (pairHi a)]

/-- The next instruction issues no earlier than `n` cycles from now (R103). -/
def Fr.spaceNext (fr : Fr) (s : State) (n : Nat) : State :=
  s.modSplit fr.key fr.sp.idx (fun x => { x with nextAt := max x.nextAt (fr.s.now + n) })

/-- The split goes on at an address (R103). -/
def Fr.goto (fr : Fr) (s : State) (pc : Addr) : State :=
  fr.spaceNext (s.modSplit fr.key fr.sp.idx (fun x => { x with pc := pc })) 3

/-- A reserved register field must hold index 40 (R60). -/
def resvReg (t : Tern 4) : Bool := t.index != 40
/-- PSENSE must be 0 with PRED index 8 (R56). -/
def resvPred (h : Head) : Bool := h.pred.index == 8 && h.psense.val != 0

end Sys2Proof.Machine
end

