-- ==== Sys2Proof/Machine/Flags.lean ====
section
/-! DEFINITION. Flags: FSTAT as a word (R47), and the evaluation of all elements of an instruction before any is written,
with the first cause by lane, then by element, and the OR of the flags (R46, R48, R118). -/

namespace Sys2Proof.Machine

/-- FSTAT as the word that `RDST` reads (R47). -/
def Flags.word (f : Flags) : Word :=
  Tern.ofInt 27 ((if f.invalid then 1 else 0) + (if f.overflow then 3 else 0) + (if f.flush then 9 else 0)
    + (if f.inexact then 27 else 0))

/-- The flags that a word written to FSTAT sets, if each flag trit is 0 or +1 and the reserved trits are 0 (R47). -/
def Flags.ofWord (w : Word) : Option Flags :=
  let f : Flags := ⟨w.trit 0 == 1, w.trit 1 == 1, w.trit 2 == 1, w.trit 3 == 1⟩
  if f.word = w then Option.some f else Option.none

/-- A result of one element: its value and flags, or the cause it raises. -/
abbrev ElemRes := Except Cause (Int × Flags)

/-- An element result that sets no flag. -/
def plain (x : Int) : ElemRes := .ok (x, .none)

/-- The elements of one word evaluated from element 0 upward: the word and the OR of the flags, or the first cause. -/
def elemWord (n : Nat) (f : Nat → ElemRes) : List Nat → Except Cause (List Int × Flags)
  | [] => .ok ([], .none)
  | j :: t =>
    match f j with
    | .error c => .error c
    | .ok (x, fl) =>
      match elemWord n f t with
      | .error c => .error c
      | .ok (xs, fl') => .ok (x :: xs, fl.or fl')

/-- A word of m elements of n trits, each computed by `f` (R116). -/
def mapWord (n m : Nat) (f : Nat → ElemRes) : Except Cause (Word × Flags) :=
  match elemWord n f (List.range m) with
  | .error c => .error c
  | .ok (xs, fl) => .ok (ofEls n xs, fl)

/-- All lanes evaluated before any is written (R118): their results and the OR of the flags, or the first cause with its
lane. -/
def evalLanes {α : Type} (f : Nat → Except Cause (α × Flags)) : List Nat → Except (Nat × Cause) (List (Nat × α) × Flags)
  | [] => .ok ([], .none)
  | l :: t =>
    match f l with
    | .error c => .error (l, c)
    | .ok (x, fl) =>
      match evalLanes f t with
      | .error e => .error e
      | .ok (xs, fl') => .ok ((l, x) :: xs, fl.or fl')

end Sys2Proof.Machine
end

