-- ==== Sys2Proof/Machine/Operands.lean ====
section
/-! DEFINITION. Operand forms: the fields of each format as indices and selectors, the reserved-field checks that go with
them (R56 to R66), and the generic effects of register instructions (R116 to R118). -/

namespace Sys2Proof

/-- The SHAPE or FMT trit, the OVF trit and the SRC trit of FN (R64). -/
def RFmt.shape (f : RFmt) : Int := f.fn.trit 2
def RFmt.ovf (f : RFmt) : Int := f.fn.trit 1
def RFmt.src (f : RFmt) : Int := f.fn.trit 0
/-- K and IMM7 of an immediate form (R136). -/
def IFmt.k (f : IFmt) : Int := f.imm.trit 7
def IFmt.imm7 (f : IFmt) : Int := (f.imm.field 0 7).val

end Sys2Proof

namespace Sys2Proof.Machine

/-- REUSE on a reserved field or on the zero register (R65). `a` and `b` say whether the fields are used. A field that names a predicate
and holds 80 counts as naming the zero register, so that check 5 comes before check 6 (DESIGN CHOICE, log 87). -/
def reuseBad (f : RFmt) (a b : Bool) : Bool :=
  (f.reuse.val == 1 && (!a || f.a.index == 80)) || (f.reuse.val == -1 && (!b || f.b.index == 80))

/-- A vector or scalar register operand. -/
def regOpd (vec : Bool) (idx : Nat) (rd wr : Bool) (words : Nat := 1) (align : Nat := 1) : Opd :=
  { file := if vec then .vec else .scal, idx := idx, words := words, align := align, rd := rd, wr := wr }
/-- A predicate register operand. -/
def predOpd (idx : Nat) (rd wr : Bool) : Opd := { file := .pred, idx := idx, rd := rd, wr := wr }
/-- A scalar pair operand (R62). -/
def pairOpd (idx : Nat) (rd wr : Bool) : Opd := regOpd false idx rd wr 2 2

/-- The use of a block -3 form with D, A and perhaps B (R116, R120): which FN trits it uses, which SRC it admits. A nonzero SRC makes it a
vector form, admitted or not (R64). -/
def elemUse (f : RFmt) (hasB dRead useShape useOvf : Bool) : Use :=
  let vec := f.src != 0
  { vector := vec
    resv := resvPred f.h || (!hasB && resvReg f.b) || (!useShape && f.shape != 0) || (!useOvf && f.ovf != 0)
      || (!hasB && f.src == 1) || reuseBad f true hasB
    opds := [regOpd vec f.d.index dRead true, regOpd vec f.a.index true false]
      ++ (if hasB then [regOpd (f.src == -1) f.b.index true false] else []) }

/-- The lanes over which a form is evaluated: every active lane of a vector form, once for a scalar form (R117). -/
def Fr.formLanes (fr : Fr) (vec : Bool) : List Nat := if vec then fr.lanes else [0]

/-- A register read by a form: a vector lane, or the scalar (R64). -/
def Fr.readForm (fr : Fr) (vec : Bool) (field r lane n : Nat) : Word :=
  if vec then fr.readV field r lane n else fr.readS field r n

/-- The write of a form's results (R117). -/
def formWr (vec : Bool) (r : Nat) (vals : List (Nat × Word)) : Wr :=
  if vec then .v r vals else .s r ((vals.head?.map (·.2)).getD wzero)

/-- A trap of the lowest lane that raises a cause (R46, R118); a scalar form names lane 0. -/
def Fr.failLane (fr : Fr) {α : Type} (e : Nat × Cause) : Except Halt α := fr.fail e.2 e.1

/-- The generic effect of a register instruction whose lane result is a word: evaluate all, then write with latency λ and
add the flags (R116, R118, R48). -/
def Fr.apply (fr : Fr) (s : State) (vec : Bool) (d lam : Nat) (f : Nat → Except Cause (Word × Flags)) (cost : Nat := 1) :
    Except Halt State :=
  if fr.any then
    match evalLanes f (fr.formLanes vec) with
    | .error e => fr.failLane e
    | .ok (vals, fl) => .ok (fr.addFlags (fr.writes s lam [formWr vec d vals] cost) lam fl)
  else .ok s

/-- The effect of a block -3 elementwise form (R116): `op` takes the elements of A, B and D and the width. -/
def Fr.elementwise (fr : Fr) (s : State) (f : RFmt) (lam : Nat) (op : Nat → Int → Int → Int → ElemRes) : Except Halt State :=
  let vec := f.src != 0
  let n := shapeBits f.shape
  fr.apply s vec f.d.index lam fun l =>
    let a := fr.readForm vec 1 f.a.index l n
    let b := fr.readForm (f.src == -1) 2 f.b.index l n
    let d := fr.readForm vec 0 f.d.index l n
    mapWord n (shapeCount f.shape) fun j => op n (el a j n) (el b j n) (el d j n)

/-- The write of one trit to every active lane of a predicate register (R117). -/
def Fr.predAll (fr : Fr) (s : State) (r lam : Nat) (t : Nat → Int) : State :=
  fr.writes s lam [.p r (fr.lanes.map (fun l => (l, Tern.ofInt 1 (t l))))]

/-- K of an immediate form: the file and the shape (R136). -/
def kVec (k : Int) : Bool := k != 0
def kBits (k : Int) : Nat := if k = 1 then 9 else 27
def kCount (k : Int) : Nat := if k = 1 then 3 else 1

/-- The use of an immediate form that reads K (R136). -/
def immUse (f : IFmt) (hasA : Bool) (resv : Bool := false) (late : Option Cause := none) (dRead : Bool := false) : Use :=
  { vector := kVec f.k
    resv := resvPred f.h || (!hasA && resvReg f.a) || resv
    opds := regOpd (kVec f.k) f.d.index dRead true :: (if hasA then [regOpd (kVec f.k) f.a.index true false] else [])
    late := late }

/-- The effect of an immediate form (R137): `op` takes the element of A, the immediate and the width. -/
def Fr.immediate (fr : Fr) (s : State) (f : IFmt) (lam : Nat) (op : Nat → Int → Int → ElemRes) : Except Halt State :=
  let vec := kVec f.k
  let n := kBits f.k
  fr.apply s vec f.d.index lam fun l =>
    let a := fr.readForm vec 1 f.a.index l n
    mapWord n (kCount f.k) fun j => op n (el a j n) f.imm7

end Sys2Proof.Machine
end

