-- ==== Sys2Proof/Machine/Integer.lean ====
section
/-! DEFINITION. Block -3, the integer register forms (R115 to R134). -/

namespace Sys2Proof.Machine

abbrev Out := Host.Outcome State Fault Refusal

/-- A block -3 elementwise instruction carried out (R116). -/
def runElem (s : State) (f : RFmt) (u : Use) (lam : Nat) (op : Nat → Int → Int → Int → ElemRes) : Out :=
  runOp s f.h u 1 fun fr s1 => fr.elementwise s1 f lam op

/-- ADD (R121). -/
def execAdd (f : RFmt) (s : State) : Out :=
  runElem s f (elemUse f true false true true) 3 fun n a b _ => narrow f.ovf n (a + b)
/-- SUB (R121). -/
def execSub (f : RFmt) (s : State) : Out :=
  runElem s f (elemUse f true false true true) 3 fun n a b _ => narrow f.ovf n (a - b)
/-- NEG (R121). -/
def execNeg (f : RFmt) (s : State) : Out :=
  runElem s f (elemUse f false false true false) 3 fun _ a _ _ => plain (-a)
/-- ABS (R121). -/
def execAbs (f : RFmt) (s : State) : Out :=
  runElem s f (elemUse f false false true false) 3 fun _ a _ _ => plain (a.natAbs : Int)
/-- SGN (R121). -/
def execSgn (f : RFmt) (s : State) : Out :=
  runElem s f (elemUse f false false true false) 3 fun _ a _ _ => plain (sgn a)
/-- MUL (R121). -/
def execMul (f : RFmt) (s : State) : Out :=
  runElem s f (elemUse f true false true true) 5 fun n a b _ => narrow f.ovf n (a * b)
/-- MULH (R122): the high half of the exact product. -/
def execMulh (f : RFmt) (s : State) : Out :=
  runElem s f (elemUse f true false true false) 5 fun n a b _ => plain (truncInt (a * b) n)
/-- MAD (R121): the product and sum are formed exactly and narrowed once. -/
def execMad (f : RFmt) (s : State) : Out :=
  runElem s f (elemUse f true true true true) 5 fun n a b d => narrow f.ovf n (a * b + d)
/-- MIN (R121). -/
def execMin (f : RFmt) (s : State) : Out :=
  runElem s f (elemUse f true false true false) 3 fun _ a b _ => plain (min a b)
/-- MAX (R121). -/
def execMax (f : RFmt) (s : State) : Out :=
  runElem s f (elemUse f true false true false) 3 fun _ a b _ => plain (max a b)

/-! ## Division -/

/-- The quotient of R123, with its zero divisor. -/
def divElem (o : Int) (n : Nat) (a b : Int) : ElemRes :=
  if b = 0 then (if o = 1 then .error .divideByZero else .ok (sgn a * (half n : Int), .ovf))
  else plain (divNear a b)

/-- The balanced remainder of R123, with its zero divisor. -/
def remElem (o : Int) (a b : Int) : ElemRes :=
  if b = 0 then (if o = 1 then .error .divideByZero else .ok (a, .ovf))
  else plain (a - b * divNear a b)

/-- The key of the divider (0) or the long-latency float unit (1) of an issue slot (R119, R146). -/
def unitKey (slot unit_ : Nat) : Nat := 2 * slot + unit_

/-- The lanes of a list of lane values. -/
def lanesIn (vals : List (Nat × Word)) : BitVec 32 := maskOf (fun l => vals.any (fun e => e.1 == l))

/-- Results handed to a long-latency unit (R73, R119): they wait there until they are delivered. -/
def Fr.toUnit (fr : Fr) (s : State) (unit_ busy : Nat) (r : LongRes) : State :=
  let s1 := s.modGroup fr.key (fun g =>
    let g1 := r.parts.foldl (fun g q => g.kill fr.sp.idx r.vec q.1 (lanesIn q.2)) g
    { g1 with longs := g1.longs ++ [r] })
  { s1 with units := mapInsert (unitKey fr.g.issueSlot unit_) (fr.s.now + busy) s1.units }

/-- Whether the unit of the group's issue slot accepts another operation in this cycle (R119). -/
def Fr.unitFree (fr : Fr) (unit_ : Nat) : Bool :=
  decide (mapGet 0 fr.s.units (unitKey fr.g.issueSlot unit_) ≤ fr.s.now)

/-- DIV or REM: evaluated whole, with any trap precise, and given to the divider (R119, R123). -/
def runDivide (s : State) (f : RFmt) (op : Nat → Int → Int → ElemRes) : Out :=
  runOp s f.h (elemUse f true false true true) 1 fun fr s1 =>
    if fr.any then
      if fr.unitFree 0 then
        let vec := f.src != 0
        let n := shapeBits f.shape
        let go := fun l =>
          let a := fr.readForm vec 1 f.a.index l n
          let b := fr.readForm (f.src == -1) 2 f.b.index l n
          mapWord n (shapeCount f.shape) fun j => op n (el a j n) (el b j n)
        match evalLanes go (fr.formLanes vec) with
        | .error e => fr.failLane e
        | .ok (vals, fl) =>
          .ok (fr.toUnit s1 0 8 { split := fr.sp.idx, lanes := fr.sp.ownLanes, vec := vec, parts := [(f.d.index, vals)], flags := fl, float := false })
      else .error .full
    else .ok s1

/-- DIV (R123). -/
def execDiv (f : RFmt) (s : State) : Out := runDivide s f fun n a b => divElem f.ovf n a b
/-- REM (R123). -/
def execRem (f : RFmt) (s : State) : Out := runDivide s f fun _ a b => remElem f.ovf a b

/-- One register's delivered values of split `i` written (R73, R61), before what the lanes `after` read (R130). -/
def Group.deliver (g : Group) (i : Nat) (after : BitVec 32) (vec : Bool) (reg : Nat) (vals : List (Nat × Word)) : Group :=
  if 80 ≤ reg then g
  else if vec then
    { (g.mend (vals.map (fun e => 32 * reg + e.1))).dropPends i 0 reg (vals.map (·.1)) with
      v := vals.foldl (fun m e => mapSet wzero m (32 * reg + e.1) e.2) g.v, hist := g.keepHist after reg vals }
  else match vals with
    | [] => g
    | e :: _ => { (g.mend [2 ^ 15 + 32 * reg]).dropPends i 1 reg [0] with s := mapSet wzero g.s reg e.2 }

/-- LONG_LATENCY_UNIT_RESULT (R119): entry `k` of the group's undelivered results is written and its flags are added. The unit stays busy
for as long as its acceptance said. -/
def execLongLatencyUnitResult (core slot k : Nat) (s : State) : Out :=
  .next (match s.group? (gkey core slot) with
    | none => s
    | some g =>
      match g.longs[k]? with
      | none => s
      | some r =>
        let g1 := r.parts.foldl (fun g q => g.deliver r.split (r.lanes ||| g.lanesOfSplit r.split) r.vec q.1 q.2) { g with longs := dropAt g.longs k }
        s.setGroup (gkey core slot) { g1 with fstat := g1.fstat.or r.flags })

/-! ## Compare, select, tritwise -/

/-- CMP (R124): whole words as T27 values into a predicate. -/
def execCmp (f : RFmt) (s : State) : Out :=
  let vec := f.src != 0
  let u : Use :=
    { vector := vec
      resv := resvPred f.h || f.shape != 0 || f.ovf != 0 || reuseBad f true true
      opds := [predOpd f.d.index false true, regOpd vec f.a.index true false, regOpd (f.src == -1) f.b.index true false] }
  runOp s f.h u 1 fun fr s1 => .ok (fr.predAll s1 f.d.index 3 fun l =>
    sgn ((fr.readForm vec 1 f.a.index l 27).val - (fr.readForm (f.src == -1) 2 f.b.index l 27).val))

/-- SEL (R125): PRED and PSENSE are its condition, and every lane of the split is examined. -/
def execSel (f : RFmt) (s : State) : Out :=
  let vec := f.src != 0
  let pr := f.h.pred.index
  let u : Use :=
    { vector := vec
      resv := resvPred f.h || (pr != 8 && f.h.psense.val == 0) || f.shape != 0 || f.ovf != 0 || reuseBad f true true
      opds := [regOpd vec f.d.index true true, regOpd vec f.a.index true false, regOpd (f.src == -1) f.b.index true false]
        ++ (if pr = 8 then [] else [predOpd pr true false])
      every := true }
  -- the lanes are those of the split's mask: the head is read as unpredicated
  runOp s { f.h with pred := Tern.ofIndex 2 8, psense := Tern.zero 1 } u 1 fun fr s1 =>
    let cond := fun l => if pr = 8 then 1 else fr.readP pr l * f.h.psense.val
    let pick := fun (t : Int) l =>
      if t = 1 then some (fr.readForm vec 1 f.a.index l 27)
      else if t = -1 then some (fr.readForm (f.src == -1) 2 f.b.index l 27)
      else none
    if vec then
      .ok (fr.writes s1 3 [.v f.d.index (fr.lanes.filterMap (fun l => (pick (cond l) l).map (fun w => (l, w))))])
    else
      match fr.lanes with
      | [] => .ok s1
      | l :: _ =>
        match pick (cond l) 0 with
        | some w => .ok (fr.writes s1 3 [.s f.d.index w])
        | none => .ok s1

/-- A tritwise form: every trit position alone (R126). It uses no SHAPE and so reads whole words (R115), also where a read comes too early
(R75). -/
def runTritwise (s : State) (f : RFmt) (op : Int → Int → Int) : Out :=
  let vec := f.src != 0
  runOp s f.h (elemUse f true false false false) 1 fun fr s1 =>
    fr.apply s1 vec f.d.index 3 fun l =>
      .ok (tritwise op (fr.readForm vec 1 f.a.index l 27) (fr.readForm (f.src == -1) 2 f.b.index l 27), .none)

/-- TADD (R126). -/
def execTadd (f : RFmt) (s : State) : Out := runTritwise s f tadd1
/-- TMUL (R126). -/
def execTmul (f : RFmt) (s : State) : Out := runTritwise s f (fun p q => p * q)
/-- TMIN (R126). -/
def execTmin (f : RFmt) (s : State) : Out := runTritwise s f (fun p q => min p q)
/-- TMAX (R126). -/
def execTmax (f : RFmt) (s : State) : Out := runTritwise s f (fun p q => max p q)

/-! ## Shifts and trit counts -/

/-- Whether a shift count lies outside 0..n (R127). -/
def badCount (k : Int) (n : Nat) : Bool := decide (k < 0) || decide ((n : Int) < k)

/-- SHL (R127). -/
def execShl (f : RFmt) (s : State) : Out :=
  runElem s f (elemUse f true false true true) 3 fun n a k _ =>
    if badCount k n then .error .shiftRange else narrow f.ovf n (a * ((3 ^ k.toNat : Nat) : Int))
/-- SHR (R127). -/
def execShr (f : RFmt) (s : State) : Out :=
  runElem s f (elemUse f true false true false) 3 fun n a k _ =>
    if badCount k n then .error .shiftRange else plain (truncInt a k.toNat)
/-- ROT (R127). -/
def execRot (f : RFmt) (s : State) : Out :=
  runElem s f (elemUse f true false true false) 3 fun n a k _ => plain (rotEl a n k)
/-- TCNT (R128). -/
def execTcnt (f : RFmt) (s : State) : Out :=
  runElem s f (elemUse f false false true false) 3 fun n a _ _ => plain (tcnt a n)
/-- TBAL (R128). -/
def execTbal (f : RFmt) (s : State) : Out :=
  runElem s f (elemUse f false false true false) 3 fun n a _ _ => plain (tbal a n)
/-- LEAD (R128). -/
def execLead (f : RFmt) (s : State) : Out :=
  runElem s f (elemUse f false false true false) 3 fun n a _ _ => plain (lead a n)

/-- MOV (R129): a whole word; with SRC +1 the scalar B to every active lane. -/
def execMov (f : RFmt) (s : State) : Out :=
  let vec := f.src != 0
  let bc := f.src == 1
  let u : Use :=
    { vector := vec
      resv := resvPred f.h || f.shape != 0 || f.ovf != 0 || (if bc then resvReg f.a else resvReg f.b) || reuseBad f (!bc) bc
      opds := [regOpd vec f.d.index false true, if bc then regOpd false f.b.index true false else regOpd vec f.a.index true false] }
  runOp s f.h u 1 fun fr s1 => fr.apply s1 vec f.d.index 3 fun l =>
    .ok (if bc then fr.readS 2 f.b.index else fr.readForm vec 1 f.a.index l 27, .none)

/-! ## Cross-lane forms -/

/-- A lane as an instruction reads it for the lanes `rd`: one of its own split as it stands, any other as it stood at some moment since the
last JOIN that ordered the two (R130). -/
def Fr.readAcross (fr : Fr) (rd : BitVec 32) (field r lane : Nat) : Word :=
  if 80 ≤ r then wzero
  else if fr.sp.ownLanes.getLsbD lane then fr.readV field r lane
  else mixWord 27 (fr.seed field r lane) (fr.g.vreg r lane ::
    (fr.g.hist.filter (fun e => e.key == 32 * r + lane && rd &&& ~~~ e.hidden != 0#32)).map (·.val))

/-- The cause that reading lanes of a vector register across the split raises: an uncorrectable word (R357), or a result of this split
that is read too early under the checking scoreboard (R75). -/
def Fr.acrossCause (fr : Fr) (r : Nat) (lanes : List Nat) : Option Cause :=
  if 80 ≤ r then none
  else if lanes.any (fun l => uncorrectable fr.g.bad (32 * r + l)) then some .regfileUncorrectable
  else if fr.g.scheck && fr.sp.pend.any (fun p => p.file == 0 && p.reg == r && decide (p.dist < p.lam) && p.old.any (fun e => lanes.contains e.1)) then
    some .stallUndersized
  else none

/-- The use of a cross-lane form, which is a vector form only, whatever its SRC says: on a sequencer check 3 comes first (R130, R70;
DESIGN CHOICE, log 87). -/
def crossUse (f : RFmt) (useShape useOvf hasB : Bool) : Use :=
  { vector := true
    resv := resvPred f.h || (!hasB && resvReg f.b) || (!useShape && f.shape != 0) || (!useOvf && f.ovf != 0)
      || f.src == 0 || (!hasB && f.src == 1) || reuseBad f true hasB
    opds := [regOpd true f.d.index false true, regOpd true f.a.index true false]
      ++ (if hasB then [regOpd (f.src == -1) f.b.index true false] else []) }

/-- SHUF (R131): each active lane takes A of the lane that B names; a lane outside 0..31 gives 0. -/
def execShuf (f : RFmt) (s : State) : Out :=
  let u : Use := { crossUse f false false true with
    opds := [regOpd true f.d.index false true, { regOpd true f.a.index true false with across := true }, regOpd (f.src == -1) f.b.index true false] }
  runOp s f.h u 1 fun fr s1 =>
    let from_ := fun l => (fr.readForm (f.src == -1) 2 f.b.index l 27).val
    let named := (fr.lanes.map from_).filterMap (fun k => if 0 ≤ k ∧ k ≤ 31 then some k.toNat else none)
    match fr.acrossCause f.a.index named with
    | some c => fr.fail c
    | none => fr.apply s1 true f.d.index 6 fun l =>
      .ok (if 0 ≤ from_ l ∧ from_ l ≤ 31 then fr.readAcross (maskOf (· == l)) 1 f.a.index (from_ l).toNat else wzero, .none)

/-- BCAST (R131): A of the lowest active lane, the only one that it reads (R75, R357). -/
def execBcast (f : RFmt) (s : State) : Out :=
  let u : Use := { crossUse f false false false with
    opds := [regOpd true f.d.index false true, { regOpd true f.a.index true false with elected := true }] }
  runOp s f.h u 1 fun fr s1 =>
    fr.apply s1 true f.d.index 6 fun _ => .ok (fr.readV 1 f.a.index (fr.lanes.headD 0), .none)

/-- VOTE (R132): the sum of a predicate's trits over the active lanes. -/
def execVote (f : RFmt) (s : State) : Out :=
  let u : Use :=
    { vector := true
      resv := resvPred f.h || resvReg f.b || f.shape != 0 || f.ovf != 0 || f.src != -1 || reuseBad f true false
      opds := [regOpd true f.d.index false true, predOpd f.a.index true false] }
  runOp s f.h u 1 fun fr s1 =>
    let sum := (fr.lanes.map (fun l => fr.readP f.a.index l)).foldl (· + ·) 0
    fr.apply s1 true f.d.index 6 fun _ => .ok (Tern.ofInt 27 sum, .none)

/-- A reduction of element j over the active lanes (R133): one word for every active lane, whose trap names the lowest. -/
def runReduce (s : State) (f : RFmt) (useOvf : Bool) (op : Nat → List Int → ElemRes) : Out :=
  runOp s f.h (crossUse f true useOvf false) 1 fun fr s1 =>
    let n := shapeBits f.shape
    let ws := fr.lanes.map (fun l => fr.readV 1 f.a.index l n)
    fr.apply s1 true f.d.index 6 fun _ =>
      mapWord n (shapeCount f.shape) fun j => op n (ws.map (fun w => el w j n))

/-- The sum of a list. -/
def sumInts (xs : List Int) : Int := xs.foldl (· + ·) 0

/-- RSUM (R133): the exact sum, narrowed once. -/
def execRsum (f : RFmt) (s : State) : Out := runReduce s f true fun n xs => narrow f.ovf n (sumInts xs)
/-- RMIN (R133). -/
def execRmin (f : RFmt) (s : State) : Out := runReduce s f false fun _ xs => plain (xs.foldl min (xs.headD 0))
/-- RMAX (R133). -/
def execRmax (f : RFmt) (s : State) : Out := runReduce s f false fun _ xs => plain (xs.foldl max (xs.headD 0))

/-- SCAN (R134): the exact inclusive prefix over the active lanes, narrowed. -/
def execScan (f : RFmt) (s : State) : Out :=
  runOp s f.h (crossUse f true true false) 1 fun fr s1 =>
    let n := shapeBits f.shape
    fr.apply s1 true f.d.index 6 fun l =>
      let ws := (fr.lanes.filter (fun k => decide (k ≤ l))).map (fun k => fr.readV 1 f.a.index k n)
      mapWord n (shapeCount f.shape) fun j => narrow f.ovf n (sumInts (ws.map (fun w => el w j n)))

end Sys2Proof.Machine
end

