-- ==== Sys2Proof/Machine/Immediate.lean ====
section
/-! DEFINITION. Block -2: immediates, moves and predicates (R135 to R143). -/

namespace Sys2Proof.Machine

/-- An immediate form carried out (R136, R137). -/
def runImm (s : State) (f : IFmt) (u : Use) (lam : Nat) (op : Nat → Int → Int → ElemRes) : Out :=
  runOp s f.h u 1 fun fr s1 => fr.immediate s1 f lam op

/-- ADDI (R137). -/
def execAddi (f : IFmt) (s : State) : Out := runImm s f (immUse f true) 3 fun n a i => narrow 0 n (a + i)
/-- MULI (R137). -/
def execMuli (f : IFmt) (s : State) : Out := runImm s f (immUse f true) 5 fun n a i => narrow 0 n (a * i)
/-- MINI (R137). -/
def execMini (f : IFmt) (s : State) : Out := runImm s f (immUse f true) 3 fun _ a i => plain (min a i)
/-- MAXI (R137). -/
def execMaxi (f : IFmt) (s : State) : Out := runImm s f (immUse f true) 3 fun _ a i => plain (max a i)
/-- CMPI (R137, R124). -/
def execCmpi (f : IFmt) (s : State) : Out :=
  let vec := kVec f.k
  let u : Use :=
    { vector := f.k == -1
      resv := resvPred f.h || f.k == 1
      opds := [predOpd f.d.index false true, regOpd vec f.a.index true false] }
  runOp s f.h u 1 fun fr s1 => .ok (fr.predAll s1 f.d.index 3 fun l =>
    sgn ((fr.readForm vec 1 f.a.index l 27).val - f.imm7))
/-- The cause of an immediate shift count, raised at decode after the checks of R70 (R137). -/
def immCount (f : IFmt) : Option Cause := if badCount f.imm7 (kBits f.k) then some .shiftRange else none
/-- SHLI (R137). -/
def execShli (f : IFmt) (s : State) : Out :=
  runImm s f (immUse f true false (immCount f)) 3 fun n a k => narrow 0 n (a * ((3 ^ k.toNat : Nat) : Int))
/-- SHRI (R137). -/
def execShri (f : IFmt) (s : State) : Out :=
  runImm s f (immUse f true false (immCount f)) 3 fun _ a k => plain (truncInt a k.toNat)
/-- ROTI (R137). -/
def execRoti (f : IFmt) (s : State) : Out := runImm s f (immUse f true) 3 fun n a k => plain (rotEl a n k)
/-- MOVI (R137): the A field is reserved. -/
def execMovi (f : IFmt) (s : State) : Out := runImm s f (immUse f false) 3 fun n _ i => narrow 0 n i

/-- LIMM (R138): the extension word, unchanged. -/
def execLimm (f : LFmt) (s : State) : Out :=
  let r := f.r
  let vec := r.src != 0
  let u : Use :=
    { vector := r.src == -1
      resv := resvPred r.h || resvReg r.a || resvReg r.b || r.shape != 0 || r.ovf != 0 || r.src == 1 || r.reuse.val != 0
      opds := [regOpd vec r.d.index false true] }
  runOp s r.h u 2 fun fr s1 => fr.apply s1 vec r.d.index 3 fun _ => .ok (f.ext, .none)

/-- POS and WIDTH of EXTR and INSR (R139). -/
def IFmtPos (f : IFmt) : Nat := (f.imm.field 4 3).index
def IFmtWidth (f : IFmt) : Nat := (f.imm.field 1 3).index + 1

/-- The use of EXTR and INSR (R139); K = +1 names no form. -/
def fieldUse (f : IFmt) (dRead : Bool) : Use :=
  { immUse f true (f.k == 1 || f.imm.trit 0 != 0) (if 27 < IFmtPos f + IFmtWidth f then some .shiftRange else none) dRead with
    vector := f.k == -1 }

/-- EXTR (R139): a balanced field carries its own sign. -/
def execExtr (f : IFmt) (s : State) : Out :=
  runOp s f.h (fieldUse f false) 1 fun fr s1 => fr.apply s1 (kVec f.k) f.d.index 3 fun l =>
    .ok (Tern.ofInt 27 ((fr.readForm (kVec f.k) 1 f.a.index l 27).field (IFmtPos f) (IFmtWidth f)).val, .none)
/-- INSR (R139): the saturated value into the field, D's other trits kept. -/
def execInsr (f : IFmt) (s : State) : Out :=
  runOp s f.h (fieldUse f true) 1 fun fr s1 => fr.apply s1 (kVec f.k) f.d.index 3 fun l =>
    match narrow 0 (IFmtWidth f) (fr.readForm (kVec f.k) 1 f.a.index l 27).val with
    | .error c => .error c
    | .ok (x, fl) => .ok ((fr.readForm (kVec f.k) 0 f.d.index l 27).setField (IFmtPos f) (Tern.ofInt (IFmtWidth f) x), fl)

/-- The use of WIDEN and NARROW (R140): K = +1 and j outside 0..2 are reserved. -/
def subUse (f : IFmt) (dRead : Bool) : Use :=
  { immUse f true (f.k == 1 || decide (f.imm7 < 0) || decide (2 < f.imm7)) none dRead with vector := f.k == -1 }

/-- WIDEN (R140). -/
def execWiden (f : IFmt) (s : State) : Out :=
  runOp s f.h (subUse f false) 1 fun fr s1 => fr.apply s1 (kVec f.k) f.d.index 3 fun l =>
    .ok (Tern.ofInt 27 (el (fr.readForm (kVec f.k) 1 f.a.index l 9) f.imm7.toNat 9), .none)
/-- NARROW (R140). -/
def execNarrow (f : IFmt) (s : State) : Out :=
  runOp s f.h (subUse f true) 1 fun fr s1 => fr.apply s1 (kVec f.k) f.d.index 3 fun l =>
    match narrow 0 9 (fr.readForm (kVec f.k) 1 f.a.index l 27).val with
    | .error c => .error c
    | .ok (x, fl) => .ok (setEl (fr.readForm (kVec f.k) 0 f.d.index l 9) f.imm7.toNat 9 x, fl)

/-! ## Lanes, identities, moves between files -/

/-- FN and REUSE reserved, as in block -2 unless a description uses them (R135). -/
def plainR (f : RFmt) : Bool := f.fn.val != 0 || f.reuse.val != 0

/-- LANE (R141). -/
def execLane (f : RFmt) (s : State) : Out :=
  let u : Use :=
    { vector := true, resv := resvPred f.h || resvReg f.a || resvReg f.b || plainR f, opds := [regOpd true f.d.index false true] }
  runOp s f.h u 1 fun fr s1 => fr.apply s1 true f.d.index 3 fun l => .ok (Tern.ofInt 27 (l : Int), .none)

/-- The identity that an IDS selector names (R141). -/
def Fr.identity (fr : Fr) (sel : Nat) : Int :=
  let g := fr.g
  let seq := g.isSeq
  let l := fr.s.launch? g.launch
  let fromLaunch := fun (p : Launch → Nat) => match l with | some x => (p x : Int) | none => 0
  match sel with
  | 0 => coreX g.core
  | 1 => coreY g.core
  | 2 => if seq then (g.slot : Int) - 192 else (g.slot : Int)
  | 3 => if seq then 0 else (g.crew : Int)
  | 4 => if seq then 0 else (g.gidx : Int)
  | 5 => if seq then 0 else (rankOf g.core : Int)
  | 6 => (fr.sp.idx : Int)
  | 7 => fromLaunch (·.x)
  | 8 => fromLaunch (·.y)
  | 9 => fromLaunch (fun x => 2 ^ x.logw)
  | 10 => fromLaunch (fun x => 2 ^ x.logh)
  | 11 => fromLaunch (·.crewsPer)
  | 12 => fromLaunch (·.groupsPer)
  | 13 => dieOf g.core
  | _ => clusterOf g.core

/-- IDS (R141): a scalar form whose A field is a selector. In the walker's group, which has no launch and no crew, selectors 3, 4 and 7 to
12 give 0 (DESIGN CHOICE, log 95). -/
def execIds (f : RFmt) (s : State) : Out :=
  let u : Use :=
    { resv := resvPred f.h || resvReg f.b || plainR f || decide (15 ≤ f.a.index), opds := [regOpd false f.d.index false true] }
  runOp s f.h u 1 fun fr s1 => fr.apply s1 false f.d.index 3 fun _ => .ok (Tern.ofInt 27 (fr.identity f.a.index), .none)

/-- A lane number modulo 32 (R142). -/
def laneMod (w : Word) : Nat := (w.val % 32).toNat

/-- MVS (R142): one lane of a vector register, read as R130 says, to a scalar. -/
def execMvs (f : RFmt) (s : State) : Out :=
  let u : Use :=
    { vector := true, resv := resvPred f.h || plainR f
      opds := [regOpd false f.d.index false true, { regOpd true f.a.index true false with across := true }, regOpd false f.b.index true false] }
  runOp s f.h u 1 fun fr s1 =>
    let k := laneMod (fr.readS 2 f.b.index)
    match (if fr.any then fr.acrossCause f.a.index [k] else none) with
    | some c => fr.fail c
    | none => fr.apply s1 false f.d.index 3 fun _ => .ok (fr.readAcross fr.act 1 f.a.index k, .none)

/-- MSV (R142): a scalar into one lane, if it is active. -/
def execMsv (f : RFmt) (s : State) : Out :=
  let u : Use :=
    { vector := true, resv := resvPred f.h || plainR f
      opds := [regOpd true f.d.index false true, regOpd false f.a.index true false, regOpd false f.b.index true false] }
  runOp s f.h u 1 fun fr s1 =>
    let k := laneMod (fr.readS 2 f.b.index)
    if fr.any && fr.act.getLsbD k then .ok (fr.writes s1 3 [.v f.d.index [(k, fr.readS 1 f.a.index)]]) else .ok s1

/-! ## Predicates -/

/-- CFROM (R143): the sign of A into a predicate. -/
def execCfrom (f : RFmt) (s : State) : Out :=
  let vec := f.src != 0
  let u : Use :=
    { vector := f.src == -1
      resv := resvPred f.h || resvReg f.b || f.shape != 0 || f.ovf != 0 || f.src == 1 || f.reuse.val != 0
      opds := [predOpd f.d.index false true, regOpd vec f.a.index true false] }
  runOp s f.h u 1 fun fr s1 =>
    .ok (fr.predAll s1 f.d.index 3 fun l => sgn (fr.readForm vec 1 f.a.index l 27).val)

/-- CTO (R143): a predicate's trit to each active lane. -/
def execCto (f : RFmt) (s : State) : Out :=
  let u : Use :=
    { vector := true, resv := resvPred f.h || resvReg f.b || plainR f
      opds := [regOpd true f.d.index false true, predOpd f.a.index true false] }
  runOp s f.h u 1 fun fr s1 => fr.apply s1 true f.d.index 3 fun l => .ok (Tern.ofInt 27 (fr.readP f.a.index l), .none)

/-- The use of a predicate form with predicate operands (R143). -/
def predUse (f : RFmt) (hasB : Bool) : Use :=
  { resv := resvPred f.h || (!hasB && resvReg f.b) || plainR f
    opds := [predOpd f.d.index false true, predOpd f.a.index true false] ++ (if hasB then [predOpd f.b.index true false] else []) }

/-- CMIN (R143). -/
def execCmin (f : RFmt) (s : State) : Out :=
  runOp s f.h (predUse f true) 1 fun fr s1 =>
    .ok (fr.predAll s1 f.d.index 3 fun l => min (fr.readP f.a.index l) (fr.readP f.b.index l))
/-- CMAX (R143). -/
def execCmax (f : RFmt) (s : State) : Out :=
  runOp s f.h (predUse f true) 1 fun fr s1 =>
    .ok (fr.predAll s1 f.d.index 3 fun l => max (fr.readP f.a.index l) (fr.readP f.b.index l))
/-- CNEG (R143). -/
def execCneg (f : RFmt) (s : State) : Out :=
  runOp s f.h (predUse f false) 1 fun fr s1 => .ok (fr.predAll s1 f.d.index 3 fun l => -fr.readP f.a.index l)
/-- CSETI (R143). -/
def execCseti (f : IFmt) (s : State) : Out :=
  let t := f.imm.val
  let u : Use :=
    { resv := resvPred f.h || resvReg f.a || decide (t < -1) || decide (1 < t), opds := [predOpd f.d.index false true] }
  runOp s f.h u 1 fun fr s1 => .ok (fr.predAll s1 f.d.index 3 fun _ => t)

end Sys2Proof.Machine
end

