-- ==== Sys2Proof/Machine/FloatOps.lean ====
section
/-! DEFINITION. Block -1, the float instructions (R144 to R161). -/

namespace Sys2Proof.Machine

/-- Registers that a float operand of a format takes, and the multiple its index must be (R144, R62). -/
def fmtWords (t : Int) : Nat := if t = 1 then 2 else 1

/-- The codes of a float operand in one lane, element 0 first (R144). -/
def Fr.readF (fr : Fr) (vec : Bool) (field r lane : Nat) (t : Int) : List Int :=
  if t = 1 then [(if vec then fr.readV2 field r lane else fr.readS2 field r).val]
  else if t = -1 then els 9 3 (fr.readForm vec field r lane 9)
  else [(fr.readForm vec field r lane 27).val]

/-- The integers that FSCL reads from B (R154): one word, or three T9. -/
def Fr.readScale (fr : Fr) (vec : Bool) (r lane : Nat) (t : Int) : List Int :=
  if t = -1 then els 9 3 (fr.readForm vec 2 r lane 9) else [(fr.readForm vec 2 r lane 27).val]

/-- The words of a float destination from its element codes (R144). -/
def fWords (t : Int) (xs : List Int) : List Word :=
  if t = 1 then let a : Addr := Tern.ofInt 54 (xs.headD 0); [pairLo a, pairHi a]
  else if t = -1 then [ofEls 9 xs]
  else [Tern.ofInt 27 (xs.headD 0)]

/-- The registers that a destination's lanes of words write, register by register. -/
def wordParts (d n : Nat) (vals : List (Nat × List Word)) : List (Nat × List (Nat × Word)) :=
  (List.range n).map (fun i => (if 80 ≤ d then d else d + i, vals.map (fun e => (e.1, e.2.getD i wzero))))

/-- The writes of a destination of several words (R62). -/
def partWr (vec : Bool) (parts : List (Nat × List (Nat × Word))) : List Wr := parts.map (fun q => formWr vec q.1 q.2)

/-- The fixed latency of a float format (R72). -/
def fmtLam (t : Int) : Nat := if t = -1 then 4 else if t = 1 then 12 else 6

/-- The issue cost of a float format (R71). -/
def fmtCost (t : Int) : Nat := if t = 1 then 2 else 1

/-- A float register operand (R144). -/
def fOpd (vec : Bool) (t : Int) (idx : Nat) (rd wr : Bool) : Opd := regOpd vec idx rd wr (fmtWords t) (fmtWords t)

/-- The use of a block -1 form (R147). -/
def floatUse (f : RFmt) (hasB dRead useOvf : Bool) : Use :=
  let vec := f.src != 0
  let t := f.shape
  { vector := vec
    resv := resvPred f.h || (!hasB && resvReg f.b) || (!useOvf && f.ovf != 0) || (!hasB && f.src == 1) || reuseBad f true hasB
    opds := [fOpd vec t f.d.index dRead true, fOpd vec t f.a.index true false]
      ++ (if hasB then [fOpd (f.src == -1) t f.b.index true false] else [])
    cost := fmtCost t }

/-- Elements evaluated side by side: the codes and the OR of the flags, or the first cause (R145). -/
def zipElems (op : Int → Int → Int → ElemRes) (as bs ds : List Int) : Except Cause (List Int × Flags) :=
  elemWord 0 (fun j => op (as.getD j 0) (bs.getD j 0) (ds.getD j 0)) (List.range as.length)

/-- The lane results of a float form: `op` takes the codes of A, B and D (R145). -/
def Fr.floatLane (fr : Fr) (f : RFmt) (hasB dRead : Bool) (op : Int → Int → Int → ElemRes) (l : Nat) :
    Except Cause (List Word × Flags) :=
  let vec := f.src != 0
  let t := f.shape
  let as := fr.readF vec 1 f.a.index l t
  let bs := if hasB then fr.readF (f.src == -1) 2 f.b.index l t else []
  let ds := if dRead then fr.readF vec 0 f.d.index l t else []
  match zipElems op as bs ds with
  | .error c => .error c
  | .ok (xs, fl) => .ok (fWords t xs, fl)

/-- A float form of fixed latency carried out (R145). -/
def Fr.applyF (fr : Fr) (s : State) (f : RFmt) (lam : Nat) (lane : Nat → Except Cause (List Word × Flags)) :
    Except Halt State :=
  if fr.any then
    let vec := f.src != 0
    match evalLanes lane (fr.formLanes vec) with
    | .error e => fr.failLane e
    | .ok (vals, fl) =>
      .ok (fr.addFlags (fr.writes s lam (partWr vec (wordParts f.d.index (fmtWords f.shape) vals)) (fmtCost f.shape)) lam fl)
  else .ok s

/-- A two-operand or three-operand float instruction (R145). -/
def runFloat (s : State) (f : RFmt) (hasB dRead useOvf : Bool) (op : Fmt → Int → Int → Int → ElemRes) : Out :=
  runOp s f.h (floatUse f hasB dRead useOvf) 1 fun fr s1 =>
    fr.applyF s1 f (fmtLam f.shape) (fr.floatLane f hasB dRead (op (fmtOf f.shape)))

/-- FADD (R148). -/
def execFadd (f : RFmt) (s : State) : Out :=
  runFloat s f true false true fun F a b _ => (Sys2Proof.Machine.fadd (fval F a) (fval F b)).pack F (ovfMode f.ovf)
/-- FSUB (R148). -/
def execFsub (f : RFmt) (s : State) : Out :=
  runFloat s f true false true fun F a b _ => (Sys2Proof.Machine.fsub (fval F a) (fval F b)).pack F (ovfMode f.ovf)
/-- FNEG (R149). -/
def execFneg (f : RFmt) (s : State) : Out := runFloat s f false false false fun F a _ _ => plain (fneg F a)
/-- FABS (R149). -/
def execFabs (f : RFmt) (s : State) : Out := runFloat s f false false false fun F a _ _ => plain (fabs F a)
/-- FMUL (R148). -/
def execFmul (f : RFmt) (s : State) : Out :=
  runFloat s f true false true fun F a b _ => (Sys2Proof.Machine.fmul (fval F a) (fval F b)).pack F (ovfMode f.ovf)
/-- FMA (R148). -/
def execFma (f : RFmt) (s : State) : Out :=
  runFloat s f true true true fun F a b d => (Sys2Proof.Machine.fma (fval F a) (fval F b) (fval F d)).pack F (ovfMode f.ovf)
/-- FMIN (R150). -/
def execFmin (f : RFmt) (s : State) : Out := runFloat s f true false false fun F a b _ => plain (fsel F true a b)
/-- FMAX (R150). -/
def execFmax (f : RFmt) (s : State) : Out := runFloat s f true false false fun F a b _ => plain (fsel F false a b)

/-- FCMP's trit and flags (R151). -/
def fcmpTrit (F : Fmt) (a b : Int) : Int × Flags :=
  match fval F a, fval F b with
  | .nan, _ => (0, .inv)
  | _, .nan => (0, .inv)
  | x, y => (fcmpV x y, .none)

/-- FCMP (R151): element 0 of A and B into a predicate. -/
def execFcmp (f : RFmt) (s : State) : Out :=
  let vec := f.src != 0
  let t := f.shape
  let u : Use :=
    { vector := vec
      resv := resvPred f.h || f.ovf != 0 || reuseBad f true true
      opds := [predOpd f.d.index false true, fOpd vec t f.a.index true false, fOpd (f.src == -1) t f.b.index true false]
      cost := fmtCost t }
  runOp s f.h u 1 fun fr s1 =>
    let r := fun l => fcmpTrit (fmtOf t) ((fr.readF vec 1 f.a.index l t).headD 0)
      ((fr.readF (f.src == -1) 2 f.b.index l t).headD 0)
    let fl := (fr.lanes.map (fun l => (r l).2)).foldl Flags.or .none
    .ok (fr.addFlags (fr.writes s1 (fmtLam t) [.p f.d.index (fr.lanes.map (fun l => (l, Tern.ofInt 1 (r l).1)))] (fmtCost t)) (fmtLam t) fl)

/-! ## The long-latency float unit -/

/-- Cycles for which the long-latency float unit accepts nothing more (R146). -/
def fmtBusy (t : Int) : Nat := if t = -1 then 4 else if t = 1 then 16 else 8

/-- A long-latency float instruction: evaluated whole, with any trap precise, and given to the unit (R146, R152, R153). -/
def runLong (s : State) (f : RFmt) (hasB : Bool) (op : FVal → FVal → FRes) : Out :=
  runOp s f.h (floatUse f hasB false true) 1 fun fr s1 =>
    if fr.any then
      if fr.unitFree 1 then
        let vec := f.src != 0
        let F := fmtOf f.shape
        match evalLanes (fr.floatLane f hasB false (fun a b _ => (op (fval F a) (fval F b)).pack F (ovfMode f.ovf)))
            (fr.formLanes vec) with
        | .error e => fr.failLane e
        | .ok (vals, fl) =>
          .ok (fr.toUnit s1 1 (fmtBusy f.shape)
            { split := fr.sp.idx, lanes := fr.sp.ownLanes, vec := vec, parts := wordParts f.d.index (fmtWords f.shape) vals, flags := fl, float := true })
      else .error .full
    else .ok s1

/-- FDIV (R152). -/
def execFdiv (f : RFmt) (s : State) : Out := runLong s f true Sys2Proof.Machine.fdiv
/-- FSQRT (R152). -/
def execFsqrt (f : RFmt) (s : State) : Out := runLong s f false fun a _ => Sys2Proof.Machine.fsqrt a
/-- FRCP (R152). -/
def execFrcp (f : RFmt) (s : State) : Out := runLong s f false fun a _ => Sys2Proof.Machine.frcp a
/-- FRSQ (R152). -/
def execFrsq (f : RFmt) (s : State) : Out := runLong s f false fun a _ => Sys2Proof.Machine.frsq a
/-- FEXP3 (R153). -/
def execFexp3 (f : RFmt) (s : State) : Out := runLong s f false fun a _ => Sys2Proof.Machine.fexp3 a
/-- FLOG3 (R153). -/
def execFlog3 (f : RFmt) (s : State) : Out := runLong s f false fun a _ => Sys2Proof.Machine.flog3 a

/-! ## Scaling, parts and conversions -/

/-- FSCL (R154): B is an integer operand, one word in every format. -/
def execFscl (f : RFmt) (s : State) : Out :=
  let vec := f.src != 0
  let t := f.shape
  let u : Use := { floatUse f true false true with
    opds := [fOpd vec t f.d.index false true, fOpd vec t f.a.index true false, regOpd (f.src == -1) f.b.index true false] }
  runOp s f.h u 1 fun fr s1 => fr.applyF s1 f (fmtLam t) fun l =>
    let F := fmtOf t
    match zipElems (fun a k _ => (fscl (fval F a) k).pack F (ovfMode f.ovf)) (fr.readF vec 1 f.a.index l t)
        (fr.readScale (f.src == -1) f.b.index l t) [] with
    | .error c => .error c
    | .ok (xs, fl) => .ok (fWords t xs, fl)

/-- FEXPO (R155). -/
def execFexpo (f : RFmt) (s : State) : Out := runFloat s f false false false fun F a _ _ => plain (fexpo F a)
/-- FCLS (R155). -/
def execFcls (f : RFmt) (s : State) : Out := runFloat s f false false false fun F a _ _ => plain (fcls F a)
/-- FTOI (R158). -/
def execFtoi (f : RFmt) (s : State) : Out := runFloat s f false false true fun F a _ _ => ftoi F f.ovf a
/-- ITOF (R159). -/
def execItof (f : RFmt) (s : State) : Out := runFloat s f false false false fun F a _ _ => fpack F .saturate (exactOf a 0)
/-- FRND (R156). -/
def execFrnd (f : RFmt) (s : State) : Out := runFloat s f false false false fun F a _ _ => .ok (frnd F a)

/-- FCVT (R157): FMT is the destination format, the B field holds SFMT and J. Into TF9 it keeps the other elements of D, and so reads D
(DEDUCED, log 88). B holds no register, so that REUSE = -1 stands on a field that it cannot name and traps RESERVED_FIELD (DESIGN CHOICE,
log 87). -/
def execFcvt (f : RFmt) (s : State) : Out :=
  let vec := f.src != 0
  let t := f.shape
  let sf := (f.b.field 2 2).val
  let j := (f.b.field 0 2).val
  let u : Use :=
    { vector := vec
      resv := resvPred f.h || f.src == 1 || decide (sf < -1) || decide (1 < sf) || sf == t || decide (j < 0) || decide (2 < j)
        || (j != 0 && t != -1 && sf != -1) || reuseBad f true false
      opds := [fOpd vec t f.d.index (t == -1) true, fOpd vec sf f.a.index true false]
      cost := fmtCost t }
  runOp s f.h u 1 fun fr s1 => fr.applyF s1 f (max (fmtLam t) (fmtLam sf)) fun l =>
    let src := (fr.readF vec 1 f.a.index l sf).getD (if sf = -1 then j.toNat else 0) 0
    match fcvt (fmtOf t) (fmtOf sf) (ovfMode f.ovf) src with
    | .error c => .error c
    | .ok (x, fl) =>
      if t = -1 then .ok ([setEl (fr.readForm vec 0 f.d.index l 9) j.toNat 9 x], fl) else .ok (fWords t [x], fl)

/-! ## Complex forms -/

/-- A complex operand (R39): two registers of a word format, four of CF54. -/
def cOpd (vec : Bool) (t : Int) (idx : Nat) (rd wr : Bool) : Opd :=
  regOpd vec idx rd wr (2 * fmtWords t) (2 * fmtWords t)

/-- The index of the imaginary part's first register; index 80 stays the zero register (R39). -/
def imReg (t : Int) (r : Nat) : Nat := if 80 ≤ r then r else r + fmtWords t

/-- The complex product, or product and sum, of one element: its parts and flags (R160). -/
def cmulElem (F : Fmt) (o : OvfMode) (ar ai br bi : Int) (d : Option (Int × Int)) : Except Cause ((Int × Int) × Flags) :=
  let x := fval F ar
  let y := fval F ai
  let z := fval F br
  let w := fval F bi
  let dr := d.map (fun e => fval F e.1)
  let di := d.map (fun e => fval F e.2)
  let isNan := fun v : FVal => v == .nan
  if isNan x || isNan y || isNan z || isNan w || dr.any isNan || di.any isNan then
    if o = .trap then .error .nanConsumed else .ok ((nanCode, nanCode), .none)
  else
    match (cpart x z y w true dr).pack F o with
    | .error c => .error c
    | .ok (re, f1) =>
      match (cpart x w y z false di).pack F o with
      | .error c => .error c
      | .ok (im, f2) => .ok ((re, im), f1.or f2)

/-- The elements of a complex form in one lane, element 0 first (R160). -/
def cmulElems (F : Fmt) (o : OvfMode) (ar ai br bi dr di : List Int) (acc : Bool) :
    List Nat → Except Cause ((List Int × List Int) × Flags)
  | [] => .ok (([], []), .none)
  | j :: t =>
    match cmulElem F o (ar.getD j 0) (ai.getD j 0) (br.getD j 0) (bi.getD j 0)
        (if acc then some (dr.getD j 0, di.getD j 0) else none) with
    | .error c => .error c
    | .ok ((re, im), fl) =>
      match cmulElems F o ar ai br bi dr di acc t with
      | .error c => .error c
      | .ok ((rs, is), fl') => .ok ((re :: rs, im :: is), fl.or fl')

/-- CMUL and CFMA (R160). -/
def runComplex (s : State) (f : RFmt) (acc : Bool) : Out :=
  let vec := f.src != 0
  let t := f.shape
  let u : Use := { floatUse f true acc true with
    opds := [cOpd vec t f.d.index acc true, cOpd vec t f.a.index true false, cOpd (f.src == -1) t f.b.index true false] }
  runOp s f.h u 1 fun fr s1 =>
    if fr.any then
      let F := fmtOf t
      let go := fun l =>
        let rd := fun (v : Bool) fld r => fr.readF v fld r l t
        let bvec := f.src == -1
        match cmulElems F (ovfMode f.ovf) (rd vec 1 f.a.index) (rd vec 1 (imReg t f.a.index)) (rd bvec 2 f.b.index)
            (rd bvec 2 (imReg t f.b.index)) (rd vec 0 f.d.index) (rd vec 0 (imReg t f.d.index)) acc
            (List.range (if t = -1 then 3 else 1)) with
        | .error c => .error c
        | .ok ((re, im), fl) => .ok (fWords t re ++ fWords t im, fl)
      match evalLanes go (fr.formLanes vec) with
      | .error e => fr.failLane e
      | .ok (vals, fl) =>
        .ok (fr.addFlags (fr.writes s1 (fmtLam t + 3) (partWr vec (wordParts f.d.index (2 * fmtWords t) vals)) (fmtCost t)) (fmtLam t + 3) fl)
    else .ok s1

/-- CMUL (R160). -/
def execCmul (f : RFmt) (s : State) : Out := runComplex s f false
/-- CFMA (R160). -/
def execCfma (f : RFmt) (s : State) : Out := runComplex s f true

/-! ## The ordered sum -/

/-- One node of the tree of R161. -/
def treeNode (F : Fmt) (o : OvfMode) : Option Int → Option Int → Except Cause (Option Int × Flags)
  | none, b => .ok (b, .none)
  | some a, none => .ok (some a, .none)
  | some a, some b =>
    match (fadd (fval F a) (fval F b)).pack F o with
    | .error c => .error c
    | .ok (x, fl) => .ok (some x, fl)

/-- One level of the tree: neighbours are summed in pairs (R161). -/
def treeLevel (F : Fmt) (o : OvfMode) : List (Option Int) → Except Cause (List (Option Int) × Flags)
  | a :: b :: t =>
    match treeNode F o a b with
    | .error c => .error c
    | .ok (x, fl) =>
      match treeLevel F o t with
      | .error c => .error c
      | .ok (xs, fl') => .ok (x :: xs, fl.or fl')
  | xs => .ok (xs, .none)

/-- The five levels of the tree over 32 lanes (R161). -/
def treeSum (F : Fmt) (o : OvfMode) : Nat → List (Option Int) → Except Cause (List (Option Int) × Flags)
  | 0, xs => .ok (xs, .none)
  | n + 1, xs =>
    match treeLevel F o xs with
    | .error c => .error c
    | .ok (ys, fl) =>
      match treeSum F o n ys with
      | .error c => .error c
      | .ok (zs, fl') => .ok (zs, fl.or fl')

/-- The ordered sum of one element over the active lanes (R161). -/
def frsumElem (F : Fmt) (o : OvfMode) (leaves : List (Option Int)) : ElemRes :=
  if leaves.any (fun x => match x with | some c => fval F c == .nan | none => false) then
    (if o = .trap then .error .nanConsumed else .ok (nanCode, .none))
  else
    match treeSum F o 5 leaves with
    | .error c => .error c
    | .ok (xs, fl) => .ok ((xs.headD none).getD 0, fl)

/-- FRSUM (R161): the same sum to every active lane; a trap names the lowest active lane. -/
def execFrsum (f : RFmt) (s : State) : Out :=
  let t := f.shape
  let u : Use := { floatUse f false false true with
    vector := true
    resv := resvPred f.h || resvReg f.b || f.src != -1 || reuseBad f true false }
  runOp s f.h u 1 fun fr s1 =>
    let rows := (List.range 32).map (fun l => if fr.act.getLsbD l then some (fr.readF true 1 f.a.index l t) else none)
    fr.applyF s1 f (fmtLam t + 6) fun _ =>
      match elemWord 0 (fun j => frsumElem (fmtOf t) (ovfMode f.ovf) (rows.map (fun x => x.map (fun e => e.getD j 0))))
          (List.range (if t = -1 then 3 else 1)) with
      | .error c => .error c
      | .ok (xs, fl) => .ok (fWords t xs, fl)

end Sys2Proof.Machine
end

