-- ==== Sys2Proof/Machine/Control.lean ====
section
/-! DEFINITION. Block -4: transfers of control, splits and reconvergence (R88 to R114). -/

namespace Sys2Proof.Machine

/-! ## Targets and plain transfers -/

/-- The target of a direct branch (R59). -/
def branchTarget (p : Addr) (disp : Int) : Addr := pcAdd p disp

/-- The use of a format B instruction: only its predicate can break a rule (R56). -/
def branchUse (f : BFmt) : Use := { resv := resvPred f.h }

/-- NOP (R104): it ignores its predicate. -/
def execNop (f : RFmt) (s : State) : Out :=
  let u : Use := { resv := resvPred f.h || resvReg f.d || resvReg f.a || resvReg f.b || plainR f }
  runOp s { f.h with pred := Tern.ofIndex 2 8, psense := Tern.zero 1 } u 1 fun _ s1 => .ok s1

/-- JMP (R105). -/
def execJmp (f : BFmt) (s : State) : Out :=
  runOp s f.h (branchUse f) 1 fun fr s1 =>
    .ok (if fr.any then fr.goto s1 (branchTarget fr.sp.pc f.disp.val) else s1)

/-- BRALL (R105): every lane of the split has its trit equal to PSENSE. -/
def execBrall (f : BFmt) (s : State) : Out :=
  runOp s f.h (branchUse f) 1 fun fr s1 =>
    .ok (if fr.act == fr.sp.mask then fr.goto s1 (branchTarget fr.sp.pc f.disp.val) else s1)

/-- BRANY (R105): some lane of the split has its trit equal to PSENSE. -/
def execBrany (f : BFmt) (s : State) : Out :=
  runOp s f.h (branchUse f) 1 fun fr s1 =>
    .ok (if fr.any then fr.goto s1 (branchTarget fr.sp.pc f.disp.val) else s1)

/-- A transfer to the address in a scalar pair (R106). -/
def jumpPair (fr : Fr) (s1 : State) (r : Nat) (link : List Wr) : Except Halt State :=
  if fr.any then
    let t := fr.readS2 1 r
    if t.val % 3 ≠ 0 then fr.fail .misaligned
    else .ok (fr.goto (fr.writes s1 3 link) t)
  else .ok s1

/-- The use of JMPR, CALLR and RET (R102, R106). -/
def indirectUse (f : RFmt) (link : Bool) : Use :=
  { resv := resvPred f.h || resvReg f.d || resvReg f.b || plainR f
    opds := pairOpd f.a.index true false :: (if link then [pairOpd 78 false true] else []) }

/-- JMPR (R106). -/
def execJmpr (f : RFmt) (s : State) : Out :=
  runOp s f.h (indirectUse f false) 1 fun fr s1 => jumpPair fr s1 f.a.index []

/-- CALL (R106): the link p + 3 to s78:s79. -/
def execCall (f : BFmt) (s : State) : Out :=
  runOp s f.h { branchUse f with opds := [pairOpd 78 false true] } 1 fun fr s1 =>
    .ok (if fr.any then
        fr.goto (fr.writes s1 3 (wrPair 78 (pcAdd fr.sp.pc 1))) (branchTarget fr.sp.pc f.disp.val)
      else s1)

/-- CALLR (R106): the target pair is read before the link is written. -/
def execCallr (f : RFmt) (s : State) : Out :=
  runOp s f.h (indirectUse f true) 1 fun fr s1 => jumpPair fr s1 f.a.index (wrPair 78 (pcAdd fr.sp.pc 1))

/-- RET (R106): JMPR that steers the return predictor, which affects timing only. -/
def execRet (f : RFmt) (s : State) : Out :=
  runOp s f.h (indirectUse f false) 1 fun fr s1 => jumpPair fr s1 f.a.index []

/-- LOOP (R107). -/
def execLoop (f : IFmt) (s : State) : Out :=
  let u : Use := { resv := resvPred f.h || resvReg f.a, opds := [regOpd false f.d.index true true] }
  runOp s f.h u 1 fun fr s1 =>
    .ok (if fr.any then
        let c := Tern.ofInt 27 ((fr.readS 0 f.d.index).val - 1)
        let s2 := fr.writes s1 3 [.s f.d.index c]
        if c = wzero then s2 else fr.goto s2 (branchTarget fr.sp.pc f.imm.val)
      else s1)

/-! ## Splits -/

/-- The lowest free index of a split table of four records (R89, R90). -/
def freeSplit (g : Group) : Option Nat := (List.range 4).find? (fun i => !g.splits.any (fun x => x.idx == i))

/-- Splits in index order. -/
def insertSplit (x : Split) : List Split → List Split
  | [] => [x]
  | y :: t => if x.idx < y.idx then x :: y :: t else y :: insertSplit x t

/-- Split `c` is created from split `p` of a group: what precedes the later accesses of `p` precedes those of `c`, and nothing else does
(R96); the stores that a fence of `p` would reach are before one of `c` too (R238). -/
def inheritOrder (p c : Nat) (l : List Nat) : List Nat := if l.contains p then c :: l.filter (· != c) else l.filter (· != c)
def Group.inherit (g : Group) (p c : Nat) : Group :=
  { g with
    infl := g.infl.map (fun a => { a with before := inheritOrder p c a.before, joined := inheritOrder p c a.joined })
    stored := g.stored.filter (fun e => e.1 != c) ++ (g.stored.filter (fun e => e.1 == p)).map (fun e => (c, e.2)) }
def State.inheritLog (s : State) (key p c : Nat) : State :=
  { s with sideLog := s.sideLog.map (fun e => if e.key == key then { e with before := inheritOrder p c e.before, joined := inheritOrder p c e.joined } else e) }

/-- BR (R90): the condition is examined per lane; the split goes on whole, divides, or pushes a fallback entry. -/
def execBr (f : BFmt) (s : State) : Out :=
  runOp s f.h (branchUse f) 1 fun fr s1 =>
    let p := fr.sp.pc
    let m := fr.sp.mask
    let taken := fr.act
    let rest := m &&& ~~~ taken
    let target := branchTarget p f.disp.val
    let next := pcAdd p 1
    if rest == 0#32 then .ok (fr.goto s1 target)
    else if taken == 0#32 then .ok s1
    else
      -- on equal counts the taken set is the minority
      let minTaken := decide (laneCount taken ≤ laneCount rest)
      let (minor, minorPc) := if minTaken then (taken, target) else (rest, next)
      let (major, majorPc) := if minTaken then (rest, next) else (taken, target)
      let keep := fun (st : State) (h : Split → Split) =>
        st.modSplit fr.key fr.sp.idx (fun x => h { x with mask := major, pc := majorPc })
      let space := fun (st : State) => if minTaken then st else fr.spaceNext st 3
      match freeSplit fr.g with
      | some i =>
        .ok (space (((keep s1 id).inheritLog fr.key fr.sp.idx i).modGroup fr.key (fun g0 =>
          let g := g0.inherit fr.sp.idx i
          let parent := (g.split? fr.sp.idx).getD fr.sp
          let child : Split := { parent with
            idx := i, pc := minorPc, mask := minor, age := g.nextAge, waitCount := 0, falls := [], wait := .none
            nextAt := max parent.nextAt (fr.s.now + 3), pend := [], passBreak := false }
          { g.drain with splits := insertSplit child g.drain.splits, nextAge := g.nextAge + 1 })))
      | none =>
        if 9 ≤ fr.sp.falls.length then fr.fail .splitOverflow
        else .ok (space (keep s1 (fun x => { x with falls := ⟨minorPc, minor, false⟩ :: x.falls })))

/-- Whether a split carries a token (R92). -/
def Split.carries (x : Split) (t : Int) : Bool := x.tokens.any (fun y => y == t)
/-- Whether a split waits at a `JOIN` of a token (R92). -/
def Split.atJoin (x : Split) (t : Int) : Bool := match x.wait with | .join u => u == t | _ => false
/-- Whether a split waits at any `JOIN`. -/
def Split.joining (x : Split) : Bool := match x.wait with | .join _ => true | _ => false

/-- Whether the wait for a token completes: every live split that carries it waits at a `JOIN` of it (R92). -/
def Group.joinReady (g : Group) (t : Int) : Bool :=
  g.splits.any (fun x => x.atJoin t) && g.splits.all (fun x => !x.carries t || x.atJoin t)

/-- Whether the waiters of a token stand at one PC (R92). -/
def Group.joinAgrees (g : Group) (t : Int) : Bool :=
  match g.splits.filter (fun x => x.atJoin t) with
  | [] => true
  | x :: r => r.all (fun y => y.pc == x.pc)

/-- A list of splits with the merged ones named by one index. -/
def renameOrder (from_ : Nat → Bool) (i : Nat) (l : List Nat) : List Nat := if l.any from_ then i :: l.filter (fun j => !from_ j) else l

/-- Everything that names a split by a merged index names the merged split (R92, R96). -/
def Group.renameSplits (g : Group) (from_ : Nat → Bool) (i : Nat) : Group :=
  { g with
    infl := g.infl.map (fun a => { a with
      split := if from_ a.split then i else a.split, before := renameOrder from_ i a.before, joined := renameOrder from_ i a.joined })
    late := g.late.map (fun f => if from_ f.split then { f with split := i } else f)
    trapSplit := g.trapSplit.map (fun j => if from_ j then i else j)
    faults := g.faults.map (fun d => if from_ d.split then { d with split := i } else d)
    longs := g.longs.map (fun r => if from_ r.split then { r with split := i } else r)
    stored := g.stored.map (fun e => if from_ e.1 then (i, e.2) else e) }

/-- The entries of a group's side log name the merged split too (R96); `joins` where a JOIN orders them before what follows it. -/
def State.renameLog (s : State) (key : Nat) (from_ : Nat → Bool) (i : Nat) (joins : Bool) : State :=
  { s with sideLog := s.sideLog.map (fun e =>
      if e.key == key then
        let b := renameOrder from_ i e.before
        { e with split := if from_ e.split then i else e.split, before := b
                 joined := if joins && b.contains i then i :: (renameOrder from_ i e.joined).filter (· != i) else renameOrder from_ i e.joined }
      else e) }

/-- Splits merged into one: the lowest index, the oldest age, the union of the masks (R92, R94). The merged split's wait count is 0, and the
entry count that it has outside a region is that of its lowest-indexed part (DESIGN CHOICE, log 27). -/
def Group.mergeSplits (g : Group) (w : List Split) (pc : Addr) (tokens : List Int) (region : Option Addr) (count : Word) :
    Group :=
  match w with
  | [] => g
  | x :: _ =>
    let inW := fun i => w.any (fun y => y.idx == i)
    let age := w.foldl (fun a y => min a y.age) x.age
    let mask := w.foldl (fun m y => m ||| y.mask) 0#32
    let nextAt := w.foldl (fun n y => max n y.nextAt) 0
    let merged : Split := { x with
      pc := pc, mask := mask, age := age, waitCount := 0, tokens := tokens, falls := [], region := region, ecount := count
      wait := .none, nextAt := nextAt, pend := [], passBreak := false }
    let rest := g.splits.filter (fun y => !inW y.idx)
    { g.renameSplits inW x.idx with splits := insertSplit merged rest }

/-- Lanes that a JOIN of the lanes `mask` leaves after something that came before the lanes `m`: all of them, where it came before some
(R96). -/
def joinLanes (mask m : BitVec 32) : BitVec 32 := if m &&& mask = 0#32 then m else m ||| mask

/-- A JOIN into split `i` orders every access of the merged splits before what follows, and every value that was replaced before one of them
joined before every reading by their lanes (R96, R130); values that no live lane can still see go. -/
def Group.joinOrder (g : Group) (i : Nat) (mask : BitVec 32) : Group :=
  let live := g.splits.foldl (fun m x => m ||| x.ownLanes) 0#32
  { g with
    infl := g.infl.map (fun a => if a.before.contains i then { a with joined := i :: a.joined.filter (· != i) } else a)
    longs := g.longs.map (fun r => { r with lanes := joinLanes mask r.lanes })
    hist := (g.hist.map (fun h => { h with hidden := joinLanes mask h.hidden })).filter (fun h => live &&& ~~~ h.hidden != 0#32) }

/-- The merge that completes a wait at `JOIN` (R92): results are drained, the region state is kept where all agree, and accesses are ordered
(R96). Where the waiters' stacks differ below the token, that of the lowest-indexed one is kept (DESIGN CHOICE, log 27). -/
def Group.joinMerge (g : Group) (t : Int) : Group :=
  match g.splits.filter (fun x => x.atJoin t) with
  | [] => g
  | x :: r =>
    let agree := r.all (fun y => y.region == x.region && (y.region == none || y.ecount == x.ecount))
    (g.drain.mergeSplits (x :: r) (pcAdd x.pc 1) x.tokens.tail (if agree then x.region else none) x.ecount).joinOrder x.idx
      ((x :: r).foldl (fun m y => m ||| y.mask) 0#32)

/-- Every live split of the group waits at a `JOIN` and no wait can complete: the lowest-indexed split traps (R93). -/
def Group.stuck (g : Group) : Bool :=
  !g.splits.isEmpty && g.splits.all (fun x => x.joining) &&
  g.splits.all (fun x => match x.wait with | .join t => !g.joinReady t | _ => true)

/-- The check of R93, made at every change of wait state. -/
def State.checkStuck (s : State) (key : Nat) : State :=
  match s.group? key with
  | none => s
  | some g =>
    if g.stuck then
      match g.splits with
      | [] => s
      | x :: _ => s.takeTrap key x.idx { cause := .joinMismatch, epc := x.pc }
    else s

/-- Every copy of a kind dropped from a core's L1 (R210). -/
def State.l1Clear (s : State) (core : Nat) (roToo : Bool) : State :=
  { s with l1 := s.l1.filter (fun x => !(x.core == core && (roToo || !x.ro))) }

/-- The completion of a wait at a `JOIN`, or the mismatch of its waiters (R92). What follows a JOIN of several splits reads nothing older than
what went before it in any of them (R96): the core keeps no L1 copy over it (DESIGN CHOICE, log 91). -/
def State.completeJoin (s : State) (key : Nat) (t : Int) : State :=
  match s.group? key with
  | none => s
  | some g =>
    if !g.joinReady t then s
    else if g.joinAgrees t then
      let w := (g.splits.filter (fun x => x.atJoin t)).map (·.idx)
      let s1 := (s.renameLog key w.contains (w.headD 0) true).setGroup key (g.joinMerge t)
      (if w.length ≤ 1 then s1 else s1.l1Clear g.core true).checkStuck key
    else
      match g.splits.find? (fun x => x.atJoin t) with
      | none => s
      | some x => s.takeTrap key x.idx { cause := .joinMismatch, epc := x.pc }

/-- JOIN_MERGE (R92): the waiters of a token merge, or trap JOIN_MISMATCH, once every carrier waits. While one of the waiters is held under
R97, the wait is not complete (DESIGN CHOICE, log 89). -/
def execJoinMerge (core slot : Nat) (t : Tern 8) (s : State) : Out :=
  .next (match s.group? (gkey core slot) with
    | some g => if !g.splits.any (fun x => x.atJoin t.val && g.holds x.idx) && g.status == .running then s.completeJoin (gkey core slot) t.val else s
    | none => s)

/-- The use of JOIN (R108): D chooses the mode. -/
def joinUse (f : IFmt) : Use :=
  { resv := resvPred f.h || (f.d.index != 40 && f.d.index != 41) || resvReg f.a }

/-- JOIN in wait mode (R91, R92): it parks lanes for a fallback entry, traps on a wrong token, completes at once for the
only carrier, or waits. -/
def execJoin (f : IFmt) (s : State) : Out :=
  runOp s { f.h with pred := Tern.ofIndex 2 8, psense := Tern.zero 1 } (joinUse f) 1 fun fr s1 =>
    let p := fr.sp.pc
    let t := f.imm.val
    match fr.sp.falls with
    | e :: rest =>
      if e.parked && e.pc != p then fr.fail .joinMismatch
      else .ok (s1.modSplit fr.key fr.sp.idx (fun x =>
        { x with pc := e.pc, mask := e.mask, falls := ⟨p, fr.sp.mask, true⟩ :: rest }))
    | [] =>
      if fr.sp.tokens.head? != some t then fr.fail .joinMismatch
      else
        let s2 := s1.modSplit fr.key fr.sp.idx (fun x => { x with pc := p, wait := .join t })
        let sole := fr.g.splits.all (fun x => x.idx == fr.sp.idx || !x.carries t)
        .ok (if sole then s2.completeJoin fr.key t else s2.checkStuck fr.key)

/-- JOIN.arm (R92, R108): a token is pushed; a tenth traps. -/
def execJoinArm (f : IFmt) (s : State) : Out :=
  runOp s { f.h with pred := Tern.ofIndex 2 8, psense := Tern.zero 1 } (joinUse f) 1 fun fr s1 =>
    if 9 ≤ fr.sp.tokens.length then fr.fail .splitOverflow
    else .ok (s1.modSplit fr.key fr.sp.idx (fun x => { x with tokens := f.imm.val :: x.tokens }))

/-- Whether a split waits for nothing that R94 names: an operand that the scoreboard holds back is no such wait. -/
def Split.mayMerge (x : Split) : Bool := x.wait == .none || x.wait == .stalled

/-- Whether two live splits meet the conditions of R94. -/
def Group.canMerge (g : Group) (i j : Nat) : Bool :=
  match g.split? i, g.split? j with
  | some x, some y =>
    i != j && x.pc == y.pc && x.tokens == y.tokens && x.region == y.region && (x.region == none || x.ecount == y.ecount) &&
    x.falls.isEmpty && y.falls.isEmpty && x.mayMerge && y.mayMerge && !g.holds i && !g.holds j && g.status == .running
  | _, _ => false

/-- SPLIT_IMPLICIT_MERGE (R94): two equal splits that wait for nothing merge; a scheduling event that orders nothing. -/
def execSplitImplicitMerge (core slot i j : Nat) (s : State) : Out :=
  .next (match s.group? (gkey core slot) with
    | none => s
    | some g =>
      if g.canMerge i j then
        match g.splits.filter (fun x => x.idx == i || x.idx == j) with
        | x :: r =>
          (s.renameLog (gkey core slot) (fun k => k == i || k == j) x.idx false).setGroup (gkey core slot)
            (g.drain.mergeSplits (x :: r) x.pc x.tokens x.region x.ecount)
        | [] => s
      else s)

/-! ## The end of splits and groups -/

/-- A responder finishes: its entries are unpinned and its reply or its absence is recorded at its node (R292). -/
def State.finishResponder (s : State) (r : Responder) (core launch crew : Nat) (reply : Option Word) (fault : Option Cause) :
    State :=
  match mapFind r.census s.census with
  | none => s
  | some c =>
    if c.gen ≠ r.gen then s
    else
      let mine := fun x : Resp => x.core == core && x.launch == launch && x.crew == crew && !x.finished
      let hits := (c.resps.find? mine).elim [] (·.hits)
      let c1 := { c with
        resps := updFirst mine (fun x => { x with finished := true, reply := reply, fault := fault }) c.resps }
      let dir := hits.foldl (fun d k => match mapFind k d with
        | some e => mapInsert k { e with pins := e.pins - 1 } d
        | none => d) s.dir
      { s with census := mapInsert r.census c1 s.census, dir := dir }

/-- Whether a group's counters have drained and its side log has been replayed (R109 steps 1 and 2). -/
def State.quiet (s : State) (g : Group) : Bool :=
  g.infl.isEmpty && !s.sideLog.any (fun e => e.key == g.key)

/-- A waiting split traps at its own instruction, `len` words back (kind P at the wait, R352). -/
def State.trapWaiter (s : State) (key i len : Nat) (c : Cause) : State :=
  match s.group? key with
  | none => s
  | some g =>
    match g.split? i with
    | none => s
    | some x =>
      let pc := pcAdd x.pc (-(len : Int))
      (s.modSplit key i (fun x => { x with pc := pc, wait := .none })).takeTrap key i { cause := c, epc := pc }

/-- The barriers at which a group's splits wait (R214). -/
def Group.bars (g : Group) : List Nat := g.splits.filterMap (fun x => match x.wait with | .bar n => some n | _ => none)

/-- The groups of a crew that have not ended, in slot order; responders are not counted (R214, R291). -/
def State.crewGroups (s : State) (launch core crew : Nat) : List Group :=
  (s.groups.map (·.2)).filter (fun g => g.launch == launch && g.core == core && g.crew == crew && g.resp.isNone && !g.isSeq && !g.isWalker)

/-- A machine cause that a crew's storage raises: its lowest-slotted group takes it, or Daymark alone where none runs (R353, R357). -/
def State.crewTrap (s : State) (launch core crew : Nat) (c : Cause) : State :=
  match (s.crewGroups launch core crew).find? (fun g => g.status == .running) with
  | some g =>
    (match g.split? g.stopSplit with
    | some x => s.takeTrap g.key x.idx { cause := c, epc := x.atPc }
    | none => s)
  | none => { s with stops := s.stops ++ [⟨launch, c, none⟩] }

/-- Whether a region that a job reads from a buffer holds an uncorrectable word (R357). -/
def State.footBad (s : State) (fs : List Foot) : Bool :=
  fs.any (fun f => !f.global && !f.write && s.badBufs.any (fun e => decide (2 ≤ e.2) && decide (e.1 / 59049 = f.space)
    && decide (f.lo ≤ 3 * ((e.1 % 59049 : Nat) : Int) + 2) && decide (3 * ((e.1 % 59049 : Nat) : Int) ≤ f.hi)))

/-- The check of R365 at every change of barrier wait in a crew: every live split of every group waits at `BAR` and the
waits name more than one barrier; the lowest-slotted group traps. -/
def State.checkDeadlock (s : State) (launch core crew : Nat) : State :=
  let gs := s.crewGroups launch core crew
  let ns := gs.flatMap Group.bars
  let all := gs.all (fun g => g.status == .running && !g.splits.isEmpty && g.bars.length == g.splits.length)
  match gs, ns with
  | g :: _, n :: _ =>
    if all && ns.any (fun m => m != n) then (match g.splits with | x :: _ => s.trapWaiter g.key x.idx 1 .deadlockDetected | [] => s) else s
  | _, _ => s

/-- Translations that a group's splits were waiting for are not theirs any more. -/
def State.forget (s : State) (key : Nat) : State :=
  { s with
    walkFails := s.walkFails.filter (fun e => e.1.key != key)
    misses := s.misses.filter (fun m => m.key != key)
    heldMisses := s.heldMisses.filter (fun m => m.key != key)
    inbound := s.inbound.filter (fun r => match r.op with | .own k _ => k != key | _ => true)
    asks := s.asks.filter (fun a => a.miss.key != key || a.miss.access == 0) }

/-- A group leaves its slot: registers and predicates are released, and a responder that has not replied finishes (R109,
R292). -/
def State.releaseGroup (s0 : State) (g : Group) (pc : Addr) (fault : Option Cause) : State :=
  let s := (s0.forget g.key).settleGroup g
  let s0 := if g.isSeq then s else s.modCrew g.launch g.core g.crew (fun c => { c with instr := c.instr + g.perf.getD 0 0 })
  let s1 := { s0 with groups := mapErase g.key s.groups, exited := mapInsert g.key (g.launch, pc) s.exited }
  match g.resp with
  | some r => if r.replied then s1 else s1.finishResponder r g.core g.launch g.crew none fault
  | none =>
    if g.isSeq then s1
    else if s1.groups.any (fun e => e.2.launch == g.launch && e.2.crew == g.crew && e.2.core == g.core && !e.2.isSeq && e.2.resp.isNone) then
      s1.checkDeadlock g.launch g.core g.crew
    else s1.modCrew g.launch g.core g.crew (fun c => { c with lastEnd := some s.now })

/-- A split without lanes and fallback entries ends; the split inside the handler leaves it so (R91, R109, R208). -/
def Group.endSplit (g : Group) (i : Nat) : Group :=
  let g1 := { g with splits := g.splits.filter (fun x => x.idx != i) }
  if g.trapSplit == some i then g1.dropHandler else g1

/-- Lanes leave a split (R109): it keeps the others, goes on with its top fallback entry, or ends. -/
def Group.exitLanes (g : Group) (i : Nat) (m : BitVec 32) : Group :=
  let g1 := { g with absent := g.absent ||| m }
  match g.split? i with
  | none => g1
  | some sp =>
    let left := sp.mask &&& ~~~ m
    if left != 0#32 then g1.modSplit i (fun x => { x with mask := left })
    else
      match sp.falls with
      | e :: rest => g1.modSplit i (fun x => { x with pc := e.pc, mask := e.mask, falls := rest })
      | [] => g1.endSplit i

/-- Whether an EXIT of these lanes would end the group (R109). -/
def Group.lastExit (g : Group) (sp : Split) (m : BitVec 32) : Bool :=
  (sp.mask &&& ~~~ m) == 0#32 && sp.falls.isEmpty && g.splits.all (fun x => x.idx == sp.idx)

/-- The group's end once it is quiet: a recorded fault is raised with the EXIT as its trigger, or the group goes (R109, R187). -/
def State.finishGroup (s : State) (g : Group) (sp : Split) : State :=
  if g.faults.isEmpty then s.releaseGroup g sp.pc none
  else (s.modSplit g.key sp.idx (fun x => { x with wait := .none })).raiseDeferred g.key sp.idx sp.pc

/-- EXIT (R109). The last EXIT of a group waits for its counters and its side log; the walker's ends its walk (R372); a
context's waits for its matrix instructions (R308). -/
def execExit (f : RFmt) (s : State) : Out :=
  let u : Use := { resv := resvPred f.h || resvReg f.d || resvReg f.a || resvReg f.b || plainR f }
  runOp s f.h u 1 fun fr s1 =>
    if !fr.any then .ok s1
    else if fr.g.lastExit fr.sp fr.act then
      if fr.g.isWalker then .ok (s1.endWalk fr.key .exited)
      else if fr.g.isSeq || !fr.s.quiet fr.g then
        .ok (s1.modSplit fr.key fr.sp.idx (fun x => { x with pc := fr.sp.pc, wait := .ending }))
      else if fr.g.faults.isEmpty then
        .ok ((s1.modSplit fr.key fr.sp.idx (fun x => { x with pc := fr.sp.pc })).releaseGroup ((s1.group? fr.key).getD fr.g) fr.sp.pc none)
      else .ok (fr.s.raiseDeferred fr.key fr.sp.idx fr.sp.pc)
    else
      let s2 := (s1.modGroup fr.key (fun g => g.exitLanes fr.sp.idx fr.act)).checkStuck fr.key
      .ok (if fr.g.isSeq || fr.g.isWalker || fr.g.resp.isSome then s2 else s2.checkDeadlock fr.g.launch fr.g.core fr.g.crew)

/-- GROUP_END (R109): the waiting last EXIT takes effect, or becomes the trigger of a recorded fault, once the counters have
drained and the side log has been replayed. -/
def execGroupEnd (core slot : Nat) (s : State) : Out :=
  .next (match s.group? (gkey core slot) with
    | none => s
    | some g =>
      match g.splits.find? (fun x => x.wait == .ending) with
      | none => s
      | some sp => if g.status == .running && !g.parked && !g.isSeq && s.quiet g then s.finishGroup g sp else s)

/-! ## YIELD, ROLE, REGION, BKPT -/

/-- YIELD (R110): the youngest age in its group; on a sequencer the youngest place among its contexts (R114). -/
def execYield (f : RFmt) (s : State) : Out :=
  let u : Use := { resv := resvPred f.h || resvReg f.d || resvReg f.a || resvReg f.b || plainR f }
  runOp s f.h u 1 fun fr s1 =>
    if !fr.any then .ok s1
    else if fr.g.isSeq then
      let s2 := s1.modGroup fr.key (fun g => { g with startSeq := s1.startSeq })
      .ok { s2 with startSeq := s1.startSeq + 1 }
    else .ok (s1.modGroup fr.key (fun g =>
      { g.modSplit fr.sp.idx (fun x => { x with age := g.nextAge, waitCount := 0 }) with nextAge := g.nextAge + 1 }))

/-- ROLE (R111, R114). -/
def execRole (f : IFmt) (s : State) : Out :=
  let u : Use := { resv := resvPred f.h || resvReg f.d || resvReg f.a }
  runOp s f.h u 1 fun fr s1 =>
    if !fr.any then .ok s1
    else if fr.g.isSeq || decide (f.imm.val < -1) || decide (1 < f.imm.val) then fr.fail .roleIllegal
    else .ok (s1.modGroup fr.key (fun g => { g with role := f.imm.val }))

/-- The use of REGION (R112): IMM8 is +1 or -1. -/
def regionUse (f : IFmt) : Use :=
  { resv := resvPred f.h || resvReg f.d || resvReg f.a || (f.imm.val != 1 && f.imm.val != -1) }

/-- REGION.open (R112): the region-entry PC is recorded and the entry count rises, wrapping as a T27. -/
def execRegionOpen (f : IFmt) (s : State) : Out :=
  runOp s f.h (regionUse f) 1 fun fr s1 =>
    if !fr.any then .ok s1
    else if fr.sp.region.isSome then fr.fail .regionNesting
    else .ok (s1.modSplit fr.key fr.sp.idx (fun x =>
      { x with region := some fr.sp.pc, ecount := Tern.ofInt 27 (x.ecount.val + 1) }))

/-- Whether an access writes a register when it returns (R188). -/
def AccKind.loads : AccKind → Bool
  | .load => true
  | .atomic _ r => r
  | .delivery _ _ => true
  | _ => false

/-- REGION.close (R112, R187, R188): it waits for the region's loads, raises a recorded fault of its split, and leaves. -/
def execRegionClose (f : IFmt) (s : State) : Out :=
  runOp s f.h (regionUse f) 1 fun fr s1 =>
    if !fr.any then .ok s1
    else if fr.sp.region.isNone then fr.fail .regionNesting
    else if fr.g.infl.any (fun a => a.split == fr.sp.idx && a.region.isSome && a.kind.loads && !a.done) then
      .error (.block fr.s)
    else if fr.g.faults.any (fun d => d.split == fr.sp.idx) then
      .ok (fr.s.raiseDeferred fr.key fr.sp.idx fr.sp.pc)
    else .ok (s1.modSplit fr.key fr.sp.idx (fun x => { x with region := none }))

/-- BKPT (R113): BREAKPOINT after it executes. -/
def execBkpt (f : IFmt) (s : State) : Out :=
  let u : Use := { resv := resvPred f.h || resvReg f.d || resvReg f.a }
  runOp s f.h u 1 fun fr s1 =>
    .ok (if fr.any then
        s1.takeTrap fr.key fr.sp.idx { cause := .breakpoint, info := f.imm.val, epc := pcAdd fr.sp.pc 1 }
      else s1)

/-! ## Going on after a stop -/

/-- The cycles for which a group was away, added to where its waits began (R217). -/
def Wait.shift (n : Nat) : Wait → Wait
  | .waitge l t d since v => .waitge l t d (since + n) v
  | .bwait l p d since v => .bwait l p d (since + n) v
  | .xbar m t d since => .xbar m t d (since + n)
  | .swait c g d since a => .swait c g d (since + n) a
  | .sleep u => .sleep (u + n)
  | w => w

/-- A group whose waits stood still since `haltedAt` (R217). -/
def Group.shiftWaits (g : Group) (now : Nat) : Group :=
  { g with splits := g.splits.map (fun x => { x with wait := x.wait.shift (now - g.haltedAt), nextAt := x.nextAt }) }

/-- Whether a stopped group may go on (R206, R354): not after a machine cause, and not after a second cause that is no debug cause. -/
def Group.resumable (g : Group) : Bool :=
  let code2 := (g.cause.field 22 5).val
  (match g.status with | .running => true | .stopped c _ => c.delivery != .machine | .halted c => c.delivery != .machine) &&
  (g.hdepth != 2 || (decide (79 ≤ code2) && decide (code2 ≤ 88)))

/-- Whether a STOP record of a group is held at its source (R381). -/
def State.stopHeld (s : State) (key : Nat) : Bool := s.records.any (fun r => r.kind == 2 && r.src == key)

/-- A stopped group that goes on (R206): from a stop inside its handler it goes on in the handler, CODE2 cleared. -/
def Group.resume (g : Group) (now : Nat) : Group :=
  let g1 := { g.shiftWaits now with status := .running, resumeDue := false, pending := none }
  if g.hdepth = 2 then { g1 with hdepth := 1, cause := g.cause.setField 22 (Tern.zero 5) } else g1

/-- A stopped group goes on (R206, R217); while its STOP record is held it stays stopped (R381), and a fault that stayed pending at its halt
is taken first (R366). -/
def State.resumeGroup (s : State) (key : Nat) : State :=
  match s.group? key with
  | none => s
  | some g =>
    if g.status == .running || !g.resumable then s
    else if s.stopHeld key then s.setGroup key { g with resumeDue := true }
    else
      let s1 := s.setGroup key (g.resume s.now)
      match g.pending with
      | some (i, t) => s1.takeTrap key i t
      | none => s1

end Sys2Proof.Machine
end

