-- ==== Sys2Proof/Machine/Cache.lean ====
section
/-! DEFINITION. The caches of data (R171, R172): the copies in each core's L1, the tiles that the L2 slices hold, and what loads and
writes do to both. -/

namespace Sys2Proof.Machine

/-- Tiles that an L1 holds, and that an L2 slice holds (R22, R24). -/
def l1Tiles : Nat := 243
def l2Tiles : Nat := 2187

/-- A core's L1 copy of a tile. -/
def State.l1Find (s : State) (core tile : Nat) (ro : Bool) : Option L1Line :=
  s.l1.find? (fun x => x.core == core && x.tile == tile && x.ro == ro)
/-- A core's L1 copy of a tile dropped. -/
def State.l1Drop (s : State) (core tile : Nat) (ro : Bool) : State :=
  { s with l1 := s.l1.filter (fun x => !(x.core == core && x.tile == tile && x.ro == ro)) }
/-- The 243 trytes of a tile of DRAM, if each can be read. -/
def State.tileTrytes (s : State) (f t : Nat) (packed : Bool) : Option (List Tryte) :=
  let at_ := fun (i : Nat) => if packed then Loc.packed f (243 * t + i) else Loc.binary f (243 * t + i)
  match s.readLocs ((List.range 243).map at_) with
  | .ok ts => if s.locPoisoned (at_ 0) then none else some ts
  | .error _ => none

/-- A tile copied into a core's L1; a full L1 drops a copy, which the spec does not name (R172). -/
def State.l1Fill (s : State) (core f t : Nat) (packed ro : Bool) : State :=
  match s.tileTrytes f t packed with
  | none => s
  | some ts =>
    let line : L1Line := ⟨core, wzero, tileCoord f t, ro, ts, []⟩
    let mine := s.l1.filter (fun x => x.core == core)
    if mine.length < l1Tiles then { s with l1 := s.l1 ++ [line] }
    else
      match mine[Config.pick s.free % mine.length]? with
      | none => s
      | some v => { s with l1 := s.l1.filter (fun x => x != v) ++ [line], free := s.free + 1 }

/-- A tile allocated in its home slice under the tag of a page, or written there; a full slice lets another tile go (R171, R172). A tile that
is there under another tag is held under the new one; where the access brings no tag, it stays under the one that it has. A write-back by
eviction moves a tile for the device (R399). -/
def State.l2Put (s : State) (tile : Nat) (dirty : Bool) (tag : Option Word := some wzero) : State :=
  let tensor := tag.getD (mapGet wzero s.l2tags tile)
  match mapFind tile s.l2 with
  | some d => { s with l2 := mapInsert tile (d || dirty) s.l2, l2tags := mapSet wzero s.l2tags tile tensor }
  | none =>
    let mine := s.l2.filter (fun e => homeSlice e.1 == homeSlice tile)
    let badL2 := s.badL2.filter (fun e => e.1 / 81 != tile)
    let tags := mapSet wzero s.l2tags tile tensor
    if mine.length < l2Tiles then { s with l2 := mapInsert tile dirty s.l2, l2tags := tags, badL2 := badL2 }
    else
      match mine[Config.pick s.free % mine.length]? with
      | none => s
      | some v =>
        { s with
          l2 := mapInsert tile dirty (mapErase v.1 s.l2), l2tags := mapErase v.1 tags, badL2 := badL2, free := s.free + 1
          moved := if v.2 then s.moved + 1 else s.moved }

/-- A tile that its home slice holds is written there; a tile that it does not hold goes to DRAM (R172, path +2). -/
def State.l2Through (s : State) (tile : Nat) : State :=
  if (mapFind tile s.l2).isSome then s.l2Put tile true none else s

/-- The tiles of DRAM that places lie in, each once: frame, tile and mode. -/
def tilesOf : List Loc → List (Nat × Nat × Bool)
  | [] => []
  | l :: ls =>
    match l.tile with
    | none => tilesOf ls
    | some t => if (tilesOf ls).contains t then tilesOf ls else t :: tilesOf ls

/-- A tryte read through a core's L1 copy where there is one (R172). -/
def State.readVia (s : State) (core : Nat) (ro : Bool) (l : Loc) : Except Cause Tryte :=
  match l.tile with
  | none => s.readLoc l
  | some (f, t, _) =>
    match s.l1Find core (tileCoord f t) ro with
    | none => s.readLoc l
    | some line =>
      match l with
      | .packed _ pos => .ok (line.data.getD (pos % 243) (Tern.zero 9))
      | .binary _ pos => .ok (line.data.getD (pos % 243) (Tern.zero 9))
      | _ => s.readLoc l

/-- The trytes of a lane's element as its core reads them, or the fault of its data (R168, R54). -/
def State.readLane (s : State) (core : Nat) (la : LaneAcc) : Except Cause (List Tryte) :=
  let one := fun l => if la.l1 then s.readVia core (la.cls == 1) l else s.readLoc l
  let cached := fun l => la.l1 && (match Loc.tile l with | some (f, t, _) => (s.l1Find core (tileCoord f t) (la.cls == 1)).isSome | none => false)
  if la.locs.any (fun l => s.locPoisoned l && !cached l) then .error .poisonedData
  else la.locs.foldr (fun l r => match one l, r with
    | .ok v, .ok vs => .ok (v :: vs)
    | .error c, _ => .error c
    | _, .error c => .error c) (.ok [])

/-- Tiles moved on behalf of a group or context, to be charged to its crew or to its launch's sequencer account; what the walker and the
device itself move is the device's (R399). -/
def State.chargeTiles (s : State) (key n : Nat) : State :=
  match s.group? key with
  | none => { s with moved := s.moved + n }
  | some g =>
    if g.isWalker then { s with moved := s.moved + n }
    else if g.isSeq then s.modLaunch g.launch (fun l => { l with seqMoved := l.seqMoved + n })
    else s.modCrew g.launch g.core g.crew (fun c => { c with moved := c.moved + n })

/-- The tiles of a load looked up in L1 and L2 (R172, R224 selectors 4 and 5). A load that reads at the home slice leaves the core no
older copy of its own path (R233). -/
def State.cacheLoad (s : State) (key core : Nat) (la : LaneAcc) : State :=
  (tilesOf la.locs).foldl (fun st e =>
    let c := tileCoord e.1 e.2.1
    let st1 := if la.l2 then st.l2Put c false else st
    if !la.l1 then (st1.l1Drop core c (la.cls == 1)).chargeTiles key 1
    else if (st1.l1Find core c (la.cls == 1)).isSome then st1
    else
      ((st1.l1Fill core e.1 e.2.1 e.2.2 (la.cls == 1)).modGroup key (fun g => { g with perf := bumpAt g.perf 5 1 })).chargeTiles key 1) s

/-- L1 hits of an instruction's tile accesses: tiles that its lanes touch and that L1 held before it (R224). -/
def l1Hits (s : State) (core : Nat) (las : List LaneAcc) : Nat :=
  let ts := tilesOf ((las.filter (fun la => la.l1)).flatMap (fun la => la.locs))
  (ts.filter (fun e => s.l1.any (fun x => x.core == core && x.tile == tileCoord e.1 e.2.1))).length

/-- The tryte of its tile at which a place of DRAM lies. -/
def Loc.inTile : Loc → Option Nat
  | .packed _ pos => some (pos % 243)
  | .binary _ pos => some (pos % 243)
  | _ => none

/-- A copy of a tile after a write of some of its trytes, as memory now holds them; a word written whole holds no soft error any more
(R172, R27). -/
def L1Line.merge (s : State) (locs : List Loc) (x : L1Line) : L1Line :=
  let mine := locs.filter (fun l => match l.tile with | some (f, t, _) => tileCoord f t == x.tile | none => false)
  { x with
    data := mine.foldl (fun d l => match l.inTile, s.readLoc l with | some i, .ok v => setAt d i v | _, _ => d) x.data
    bad := x.bad.filter (fun e => decide ((mine.filter (fun l => match l.inTile with | some i => i / 3 == e.1 | none => false)).length < 3)) }

/-- What a write does to the caches (R172, R233): L1 is write-through, and the issuing core's own copy is kept up to date. -/
def State.cacheStore (s : State) (core : Nat) (la : LaneAcc) : State :=
  (tilesOf la.locs).foldl (fun st e =>
    let c := tileCoord e.1 e.2.1
    if la.stream then (st.l1Drop core c false).l2Through c
    else
      let st1 := if la.l2 then st.l2Put c true else st.l2Through c
      { st1 with l1 := updFirst (fun (x : L1Line) => x.core == core && x.tile == c && !x.ro) (L1Line.merge st1 la.locs) st1.l1 }) s

/-- A write made at a home slice by the device itself: DRAM is written and the slice's copy is dirty (R171). -/
def State.homeWrite (s : State) (ls : List Loc) (ts : List Tryte) : State :=
  (tilesOf ls).foldl (fun st e => st.l2Through (tileCoord e.1 e.2.1)) (s.writeLocs ls ts)

end Sys2Proof.Machine
end

