-- ==== Sys2Proof/Machine/Access.lean ====
section
/-! DEFINITION. From an address to the places it names: paths and address forms (R162 to R166), records (R178, R179),
translation (R167 to R171, R367 to R371), and the checks of R176 in their order. -/

namespace Sys2Proof.Machine

/-! ## Addresses -/

/-- The path code of an address (R162). -/
def addrPath (a : Addr) : Int := (a.field 51 3).val
/-- The position of an address in its page, 0 to 59,048 (R164). -/
def pagePos (a : Addr) : Nat := (a.field 0 10).index
/-- The page of a global address: its four table indices read as one number (R164, R367). -/
def pageNum (a : Addr) : Nat := (a.field 10 36).index
/-- An address moved by trytes, in 54 trits (R179). -/
def addrAdd (a : Addr) (n : Int) : Addr := Tern.ofInt 54 (a.val + n)
/-- The word index of a word in its tile (R163). -/
def wordIndex (a : Addr) : Nat := (a.field 1 4).index
/-- Whether a word address (R163). -/
def wordAligned (a : Addr) : Bool := a.trit 0 == 0
/-- Whether a pair address (R163). -/
def pairAligned (a : Addr) : Bool := wordAligned a && wordIndex a % 2 == 0
/-- Whether a tile address (R163). -/
def tileAligned (a : Addr) : Bool := (a.field 0 5).val == 0

/-- Whether a path code names a typed buffer, and which: 0 A, 1 W, 2 C (R162). -/
def bufPath (p : Int) : Option Nat := if p = -1 then some 0 else if p = -2 then some 1 else if p = -3 then some 2 else none

/-- RANK index and position of a buffer address (R166). -/
def bufRank (a : Addr) : Nat := (a.field 49 2).index
def bufPos (a : Addr) : Nat := (a.field 0 12).index

/-! ## Who accesses -/

/-- The agent that makes an access: its group key, core, cluster unit, domain, launch, crew and split. -/
structure Agent where
  key : Nat
  core : Nat
  seq : Bool
  domain : Nat
  launch : Nat
  crew : Nat
  split : Nat
deriving DecidableEq, Repr

/-- The agent of a group's split. A context reaches the crew of its binding (R173). -/
def Group.agent (g : Group) (split : Nat) : Agent :=
  { key := g.key, core := g.core, seq := g.isSeq, domain := g.domain, launch := g.launch
    crew := (match g.ctx with | some c => c.binding | none => g.crew), split := split }

/-! ## Buffers -/

/-- The core that a buffer address names (R166). -/
def Agent.bufCore (ag : Agent) (a : Addr) : Nat :=
  if bufRank a = 0 then ag.core else coreOfRank (clusterOf ag.core) (bufRank a - 1)

/-- Presence and bounds of the crew allocation that a buffer address reaches (R166, R173): the place of position 0. A crew that only
has its resources reserved has not started. -/
def bufResolve (s : State) (ag : Agent) (path : Nat) (a : Addr) : Except Cause (Nat × Nat) :=
  let core := ag.bufCore a
  match s.crew? ag.launch core ag.crew with
  | none => .error .peerAbsent
  | some c => if c.reserved then .error .peerAbsent else .ok (core, 243 * c.base.getD path 0)

/-- Trytes of a crew's allocation on a path. -/
def bufLimit (s : State) (ag : Agent) (path : Nat) (a : Addr) : Nat :=
  match s.crew? ag.launch (ag.bufCore a) ag.crew with
  | none => 0
  | some c => 243 * c.tiles.getD path 0

/-! ## Translation -/

/-- The unit whose L1 TLB serves an agent: its core; a context has only its cluster's (R370). -/
def Agent.tlbUnits (ag : Agent) : List Nat :=
  if ag.seq then [256 + clusterOf ag.core] else [ag.core, 256 + clusterOf ag.core]

/-- Whether a TLB entry translates a page of a domain (R370). -/
def TlbEntry.covers (e : TlbEntry) (domain page : Nat) : Bool :=
  e.domain == domain && (if e.large then page / 19683 == e.page / 19683 else page == e.page)

/-- A look-up in the L1 TLB, then the cluster TLB (R370). -/
def State.tlbLookup (s : State) (ag : Agent) (page : Nat) : Option TlbEntry :=
  (ag.tlbUnits.findSome? (fun u => s.tlbs.find? (fun e => e.unit_ == u && e.covers ag.domain page)))

/-- Entries that a TLB holds at most (R22, R23). -/
def tlbCapacity (unit_ : Nat) : Nat := if unit_ < 256 then 81 else 2187

/-- An entry put into a TLB; a full TLB drops one, which the spec does not name (R370). -/
def State.tlbPut (s : State) (e : TlbEntry) : State :=
  let others := s.tlbs.filter (fun x => !(x.unit_ == e.unit_ && x.domain == e.domain && x.page == e.page && x.large == e.large))
  let mine := others.filter (fun x => x.unit_ == e.unit_)
  if mine.length < tlbCapacity e.unit_ then { s with tlbs := others ++ [e] }
  else
    match mine[Config.pick s.free % mine.length]? with
    | none => { s with tlbs := others ++ [e] }
    | some v => { s with tlbs := others.filter (fun x => x != v) ++ [e], free := s.free + 1 }

/-- The fields of a page-table entry (R368). -/
def pteFrame (w : Word) : Int := (w.field 6 21).val
def pteType (w : Word) : Int := w.trit 5
def pteWrite (w : Word) : Int := w.trit 4
def pteMode (w : Word) : Int := w.trit 3
def pteCache (w : Word) : Int := w.trit 2
def pteTiling (w : Word) : Int := w.trit 1

/-- The frame of a page under a leaf: page k of a large page lies in frame FRAME + k (R369). -/
def TlbEntry.frame (e : TlbEntry) (page : Nat) : Nat :=
  (pteFrame e.pte).toNat + (if e.large then page % 19683 else 0)

/-- The leaf that the physical domain gives every page: packed, read-write, cached, linear (R367). -/
def physLeaf (page : Nat) : Word := Tern.ofInt 27 ((page : Int) * 3 ^ 6 + 3 ^ 5 + 3 ^ 4 + 3 ^ 3 + 3 ^ 2)

/-- The port and host bus address of the host page that a mode-0 leaf names, if its outbound entry is good (R410). Entries
do not divide the 59,049 bytes of a frame evenly; the run of frames is read as one sequence of bytes. -/
def State.hostPage (s : State) (i : Nat) : Option (Nat × Nat) :=
  let byteAt := fun k => memByte s.mem (frameAddr (s.outFrame + (16 * i + k) / 59049) + (16 * i + k) % 59049)
  let bs := (List.range 16).map byteAt
  if s.outFrames * 59049 < 16 * i + 16 then none
  else if (byteField bs 9 1) ≠ 1 ∨ 1 < byteField bs 8 1 ∨ byteField bs 10 6 ≠ 0 then none
  else some (byteField bs 8 1, byteField bs 0 8)

/-- What translation finds for a page. -/
inductive Xl where
  /-- the leaf, its frame, and the state with a TLB filled -/
  | leaf (pte : Word) (frame : Nat)
  /-- the access waits; the state with its miss queued -/
  | wait (s : State)
  /-- PAGE_NOT_PRESENT: a store's lane retires into the side log, a load waits for the service or traps -/
  | absent
  | fail (c : Cause)

/-- The miss of an access (R199, R371): a context's is served on the rank-0 core of its cluster, which is its core. -/
def Agent.miss (ag : Agent) (a : Addr) (access : Int) : Miss :=
  { core := ag.core, domain := ag.domain, va := a, access := access, path := addrPath a, key := ag.key, split := ag.split }

/-- Translation of the page of an address for an access (R170, R367 to R374). `access` is -1 load, 0 store, +1 fetch. -/
def State.xlate (s : State) (ag : Agent) (a : Addr) (access : Int) : Xl :=
  let page := pageNum a
  if ag.domain = 0 then
    if page < frameCount then .leaf (physLeaf page) page else .fail .tableFormat
  else
    let m := ag.miss a access
    let asked := s.asks.any (fun x => x.miss.domain == ag.domain && samePage x.miss.va a)
    match s.walkFails.find? (fun e => e.1.key == ag.key && e.1.split == ag.split && e.1.domain == ag.domain && samePage e.1.va a) with
    | some (_, c) => if c = .pageNotPresent ∧ access = 0 then .absent else .fail c
    | none =>
      match s.tlbLookup ag page with
      | some e =>
        if pteMode e.pte = 0 ∧ addrPath a ≠ 3 then
          (if asked then (if access = 0 then .absent else .wait s)
           else
            let s1 := { s with asks := s.asks ++ [⟨m⟩] }
            if access = 0 then .absent else .wait s1)
        else .leaf e.pte (e.frame page)
      | none => if asked then (if access = 0 then .absent else .wait s) else .wait (s.queueMiss m)

/-- A store to a page that a TLB holds as host-backed asks for it to be served, as its lane retires into the side log (R374). -/
def State.askHost (s : State) (ag : Agent) (a : Addr) : State :=
  match s.tlbLookup ag (pageNum a) with
  | none => s
  | some e =>
    if pteMode e.pte ≠ 0 ∨ addrPath a = 3 ∨ ag.domain = 0 then s
    else if s.asks.any (fun x => x.miss.domain == ag.domain && samePage x.miss.va a) then s
    else { s with asks := s.asks ++ [⟨ag.miss a 0⟩] }

/-- A translation that the cluster TLB gave is copied into the L1 TLB (R370). -/
def State.tlbCopy (s : State) (ag : Agent) (a : Addr) : State :=
  if ag.seq || ag.domain == 0 then s
  else
    match s.tlbLookup ag (pageNum a) with
    | some e => if e.unit_ == ag.core then s else s.tlbPut { e with unit_ := ag.core }
    | none => s

/-- Permission, mode, tiling and key of a leaf, in the order of check 9 of R176 (R168 to R170, R369, R374). -/
inductive LeafRes where
  /-- the place of each position of the page, and the CACHE trit -/
  | at_ (mk : Nat → Loc) (cache : Int)
  | fail (c : Cause)
  /-- the frame's key slot is not loaded: the security processor is asked -/
  | key (slot : Nat)

/-- Check 9 of R176 on a leaf. `tiledOk`: the access may reach a tensor-tiled page. -/
def State.leafCheck (s : State) (path : Int) (write tiledOk : Bool) (pte : Word) (frame : Nat) : LeafRes :=
  if pteWrite pte = -1 then .fail .noAccess
  else if write ∧ pteWrite pte = 0 then .fail .writeProtect
  else if path = 3 ∧ pteMode pte ≠ 0 then .fail .hostWindowError
  else if pteTiling pte = 1 ∧ !tiledOk then .fail .tileBindingMismatch
  else if path = 3 then
    match s.hostPage frame with
    | some (port, base) => .at_ (fun pos => .host port (base + pos)) (-1)
    | none => .fail .hostWindowError
  else
    let mk : Nat → Loc := if pteMode pte = 1 then .packed frame else .binary frame
    match mapFind frame s.frameKey with
    | none => .at_ mk (pteCache pte)
    | some k1 =>
      if (mapFind (k1 - 1) s.keys).isSome then .at_ mk (pteCache pte)
      else if s.keyRefused.contains (k1 - 1) then .fail .keyUnavailable
      else .key (k1 - 1)

/-! ## Reaching a peer device -/

/-- The device that a peer address names, and its address there as an index (R165). -/
def peerDev (a : Addr) : Nat := (a.field 45 6).index
def peerAddr (a : Addr) : Addr := Tern.ofInt 54 (a.field 0 45).val

/-- The scale-up port that leads to a device: the lowest-numbered of its mask whose link is up (R412). -/
def State.routePort (s : State) (d : Nat) : Option Nat :=
  (List.range 16).find? (fun p => (mapGet 0 s.route d) / 2 ^ p % 2 == 1 && s.linksUp.contains p)

/-- Whether a device can be reached; the device itself always can (R165, R412). -/
def State.reachable (s : State) (d : Nat) : Bool :=
  decide (d < 384) && (d == s.devid || (s.routePort d).isSome)

/-! ## Records -/

/-- A buffer record that has passed its checks (R178). -/
structure Rec where
  base : Addr
  extent : Int
  enc : Nat
  policy : Int
  count : Nat
  stride : Int
  scale : Word
  cslot : Int
  write : Bool
  float : Bool
deriving DecidableEq, Repr

/-- The twelve words of a record read and checked (R178, R182); `nslot` is the job control block's NSLOT. -/
def parseRec (nslot : Nat) (ws : List Word) : Option Rec :=
  let w := fun i => ws.getD i wzero
  let enc := ((w 3).field 0 9).val
  let count := ((w 4).field 0 9).val
  let stride := ((w 4).field 9 18).val
  let cslot := ((w 6).field 0 9).val
  let scaleBad := match fval tf27 (w 5).val with | .fin _ _ => false | _ => true
  if (w 2).val < 0 ∨ (3 ^ 26 : Nat) < (w 2).val then none
  else if enc < 0 ∨ 14 < enc ∨ ((w 3).field 10 17).val ≠ 0 then none
  else if count < 0 ∨ 3 < count ∨ stride < 0 then none
  else if scaleBad then none
  else if cslot < -1 ∨ 26 < cslot ∨ ((w 6).field 9 18).val ≠ 0 then none
  else if (w 7).trit 0 ≠ 1 ∨ (w 7).trit 1 = -1 ∨ (w 7).trit 2 = -1 ∨ ((w 7).field 3 24).val ≠ 0 then none
  else if w 8 ≠ wzero ∨ w 9 ≠ wzero ∨ w 10 ≠ wzero ∨ w 11 ≠ wzero then none
  else if enc = 0 ∧ (w 5 ≠ wzero ∨ 1 < count) then none
  else if enc = 14 ∧ 1 < count then none
  else if (nslot : Int) ≤ cslot then none
  else some
    { base := mkPair (w 0) (w 1), extent := (w 2).val, enc := enc.toNat, policy := (w 3).trit 9, count := count.toNat
      stride := stride, scale := w 5, cslot := cslot, write := (w 7).trit 1 == 1, float := (w 7).trit 2 == 1 }

/-- The records that a group or context uses (R178): its crew's, or the context's own. -/
def State.records_ (s : State) (g : Group) : List (List Word) :=
  match g.ctx with
  | some c => c.records
  | none => match s.crew? g.launch g.core g.crew with | some c => c.records | none => []

/-- NSLOT of a launch's job control block; 0 without one (R341). -/
def State.nslot (s : State) (launch : Nat) : Nat := match s.launch? launch with | some l => l.nslot | none => 0

/-- Elements that an access of `size` trytes through a converting record converts, with the trits of each; none where COUNT
does not suit the instruction (R179). -/
def recShape (size count : Nat) : Option (Nat × Nat) :=
  let c := if count = 0 then 1 else count
  if size = 1 then (if c = 1 then some (1, 9) else none)
  else if size = 3 then (if c = 1 then some (1, 27) else if c = 3 then some (3, 9) else none)
  else (if c = 1 then some (1, 54) else if c = 2 then some (2, 27) else none)

/-! ## Tables read by the device's own processors -/

/-- What a walk of the tables finds (R369, R373). -/
inductive Walk where
  | leaf (large : Bool) (pte : Word)
  /-- an invalid entry, and its level -/
  | invalid (level : Nat)
  /-- a host-backed leaf -/
  | hostBacked (large : Bool) (pte : Word)
  | bad
  /-- a table entry could not be read: its tile is poisoned or holds no P5 code (R372) -/
  | unread
deriving DecidableEq, Repr

/-- The places of entry `j` of the table in a frame (R368). -/
def entryLocs (f j : Nat) : List Loc := [.packed f (3 * j), .packed f (3 * j + 1), .packed f (3 * j + 2)]

/-- The word at entry `j` of the table in a frame, as memory holds it (R368). -/
def State.tableEntry (s : State) (f j : Nat) : Option Word :=
  match s.readLocs (entryLocs f j) with
  | .ok ts => if s.locPoisoned (.packed f (3 * j)) then none else some (wordOfTrytes ts)
  | .error _ => none

/-- The lane access of the walker's load of a table entry: domain 0, path 0 (R373). -/
def entryLane (f j : Nat) : LaneAcc :=
  { lane := 0, locs := entryLocs f j, va := Tern.ofInt 54 (((f : Int) - (half 36 : Int)) * 59049 + 3 * (j : Int) - 29524), data := [], l1 := true, l2 := true
    cls := 0, stream := false, b := azero, cmp := azero }

/-- The word at entry `j` of the table in a frame, as a core's walker loads it (R373). -/
def State.walkerEntryWord (s : State) (core f j : Nat) : Option Word :=
  match s.readLane core (entryLane f j) with | .ok ts => some (wordOfTrytes ts) | .error _ => none

/-- The index of a level in an address (R164). -/
def levelIndex (a : Addr) (level : Nat) : Nat := (a.field (10 + 9 * (level - 1)) 9).index

/-- The walk of R373 from a level downward; `rd` reads a table's entry. -/
def walkFrom (rd : Nat → Nat → Option Word) (a : Addr) : Nat → Nat → Walk
  | 0, _ => .bad
  | level + 1, f =>
    match rd f (levelIndex a (level + 1)) with
    | none => .unread
    | some pte =>
      if pteType pte = 0 then .invalid (level + 1)
      else if pteFrame pte < 0 ∨ (frameCount : Int) ≤ pteFrame pte then .bad
      else if pteType pte = 1 then
        if 2 ≤ level ∨ pte.trit 0 ≠ 0 ∨ pteTiling pte = -1 then .bad
        else if level = 1 ∧ pteFrame pte % 19683 ≠ 0 then .bad
        else if level = 1 ∧ (frameCount : Int) ≤ pteFrame pte + 19682 then .bad
        else if pteMode pte = 0 then .hostBacked (level == 1) pte
        else .leaf (level == 1) pte
      else if level = 0 ∨ (pte.field 0 5).val ≠ 0 then .bad
      else walkFrom rd a level (pteFrame pte).toNat

/-- The walk of a domain's tables for an address as the memory-management processor makes it; a domain without a table has nothing
mapped. -/
def State.walk (s : State) (domain : Nat) (a : Addr) : Walk :=
  match mapFind domain s.roots with
  | none => .invalid 4
  | some f => walkFrom s.tableEntry a 4 f

/-- The walk as a core's walker makes it, with its caches (R373). -/
def State.coreWalk (s : State) (core domain : Nat) (a : Addr) : Walk :=
  match mapFind domain s.roots with
  | none => .invalid 4
  | some f => walkFrom (s.walkerEntryWord core) a 4 f

/-- What the walker's loads of the entries on the way to an address do to the caches (R373). -/
def State.walkTouch (s : State) (core : Nat) (a : Addr) : Nat → Nat → State
  | 0, _ => s
  | level + 1, f =>
    let s1 := s.cacheLoad (gkey core 191) core (entryLane f (levelIndex a (level + 1)))
    match s.walkerEntryWord core f (levelIndex a (level + 1)) with
    | none => s1
    | some pte => if pteType pte = -1 ∧ 0 ≤ pteFrame pte ∧ pteFrame pte < frameCount then s1.walkTouch core a level (pteFrame pte).toNat else s1

/-- The leaf of an address as the device's own processors find it, with the frame of the page. -/
def State.sysLeaf (s : State) (domain : Nat) (a : Addr) : Except Cause (Word × Nat) :=
  let page := pageNum a
  if domain = 0 then (if page < frameCount then .ok (physLeaf page, page) else .error .tableFormat)
  else
    match s.walk domain a with
    | .leaf large pte => .ok (pte, (pteFrame pte).toNat + (if large then page % 19683 else 0))
    | .hostBacked large pte =>
      if addrPath a = 3 then .ok (pte, (pteFrame pte).toNat + (if large then page % 19683 else 0)) else .error .pageNotPresent
    | .invalid _ => .error .pageNotPresent
    | .bad => .error .tableFormat
    | .unread => .error .walkerFault

/-! ## This device as a peer of its own -/

/-- The local domain of a peer's request: that of the first pair of the IMPORT table that matches its device and domain class
(R413). -/
def State.importDomain (s : State) (dev domain : Nat) : Option Nat :=
  ((List.range 512).find? (fun j => mapGet 0 s.ctrl.imports (2 * j + 1) != 0 && mapGet 0 s.ctrl.imports (2 * j) % 512 == dev
    && mapGet 0 s.ctrl.imports (2 * j) / 512 % 128 == domain % 128)).map (fun j => mapGet 0 s.ctrl.imports (2 * j + 1))

/-- The places around an address that a peer's request reaches here, or the fault at the target (R413). -/
def State.peerPlace (s : State) (dev domain : Nat) (a : Addr) (write atomic : Bool) : Except Cause (Int → Loc) :=
  match s.importDomain dev domain with
  | none => .error .peerDeviceUnreachable
  | some d =>
    match s.sysLeaf d a with
    | .error c => .error c
    | .ok (pte, frame) =>
      match s.leafCheck 0 write false pte frame with
      | .fail c => .error c
      | .key _ => .error .keyUnavailable
      | .at_ pl _ =>
        if pteMode pte = 0 then .error .pageNotPresent
        else if atomic ∧ pteMode pte = -1 then .error .atomicUnsupportedRegion
        else .ok (fun d => pl ((pagePos a : Int) + d).toNat)

/-- The key slot that a peer's request waits for here before it is served (R374, R413). -/
def State.peerKey (s : State) (dev domain : Nat) (a : Addr) (write : Bool) : Option Nat :=
  match s.importDomain dev domain with
  | none => none
  | some d =>
    match s.sysLeaf d a with
    | .error _ => none
    | .ok (pte, frame) => match s.leafCheck 0 write false pte frame with | .key k => some k | _ => none

/-- The places of a peer address, by its device and the index of its address there (R165). What this device is asked by itself is
translated as the request is served. -/
def peerLocs (a : Addr) : Int → Loc := fun (d : Int) => Loc.peer (peerDev a) (addrAdd (peerAddr a) d).index

/-- The places of this device at which a request from itself is served, each tryte translated through its own IMPORT table, or the
fault at the target (R165, R413). -/
def State.ownPlaces (s : State) (domain : Nat) (write atomic : Bool) : List Loc → Except Cause (List Loc)
  | [] => .ok []
  | .peer dev k :: t =>
    match (if dev = s.devid then s.peerPlace s.devid domain (Tern.ofIndex 54 k) write atomic else .ok (fun _ => .peer dev k)),
      s.ownPlaces domain write atomic t with
    | .ok f, .ok ls => .ok (f 0 :: ls)
    | .error c, _ => .error c
    | _, .error c => .error c
  | l :: t => match s.ownPlaces domain write atomic t with | .ok ls => .ok (l :: ls) | .error c => .error c

/-- Whether a place lies in this device's own peer window (R165). -/
def Loc.own (s : State) (l : Loc) : Bool := match l with | .peer dev _ => dev == s.devid | _ => false

/-- The key slot that a request of this device to itself waits for (R165, R374). -/
def State.ownKey (s : State) (domain : Nat) (write : Bool) (ls : List Loc) : Option Nat :=
  ls.findSome? (fun l => match l with
    | .peer dev k => if dev = s.devid then s.peerKey s.devid domain (Tern.ofIndex 54 k) write else none
    | _ => none)

/-- The scale-up port on which an access leaves for a peer device (R412). -/
def State.portOf (s : State) (a : Addr) : Option Nat :=
  if addrPath a = 4 ∧ peerDev a ≠ s.devid then s.routePort (peerDev a) else none

/-! ## The checks of R176 -/

/-- What an access asks of the places it reaches. -/
structure Req where
  /-- it writes (a store or an atomic), and it is an atomic -/
  write : Bool
  atomic : Bool
  /-- the alignment its own kind asks of an element's address (R163) -/
  aligned : Addr → Bool
  /-- whether a buffer admits it: path 0 A, 1 W, 2 C, and whether by the own-core path (R174) -/
  users : Nat → Bool → Bool
  /-- whether an address outside the buffers meets BUFFER_PATH_FORBIDDEN by its own rule (check 7) -/
  bufOnly : Bool := false
  /-- a path that its own rule refuses with another cause (check 8) -/
  refuse : Int → Option Cause := fun _ => none
  /-- it may reach a tensor-tiled page -/
  tiledOk : Bool := false
  /-- what the translation asks for: -1 load, 0 store or reduction, +1 fetch -/
  access : Int := -1
  /-- whether a frame's mode is refused by its own rule, after check 9: packed -/
  refusePacked : Option Cause := none
  refuseBinary : Option Cause := none

/-- What one address comes to: its place, a translation that it waits for, an absent page, or a cause with the number of the
check of R176 that raises it. -/
inductive Place where
  | at_ (mk : Int → Loc) (path : Int) (cache : Int)
  | wait (s : State)
  | absent
  | fail (check : Nat) (c : Cause)

/-- Checks 2 to 8 of R176 for one address; `recBounds` says that its lane breaks its record's bounds. -/
def earlyCheck (s : State) (ag : Agent) (rq : Req) (recBounds : Bool) (a : Addr) : Option (Nat × Cause) :=
  let p := addrPath a
  if p < -3 ∨ 4 < p then some (2, .pathReserved)
  else if 0 ≤ p ∧ p ≤ 3 ∧ (a.field 46 5).val ≠ 0 then some (3, .noncanonicalAddress)
  else if p < 0 ∧ (4 < bufRank a ∨ (a.field 12 37).val ≠ 0 ∨ (ag.seq ∧ bufRank a = 0)) then some (3, .noncanonicalAddress)
  else if p = 4 ∧ !s.reachable (peerDev a) then some (4, .peerDeviceUnreachable)
  else if !rq.aligned a then some (5, .misaligned)
  else if recBounds then some (6, .bufferBounds)
  else
    match bufPath p with
    | some b =>
      if !rq.users b (bufRank a == 0) then some (7, .bufferPathForbidden)
      else
        match bufResolve s ag b a with
        | .error c => some (7, c)
        | .ok _ => if bufLimit s ag b a ≤ bufPos a then some (7, .bufferBounds) else (rq.refuse p).map (fun c => (8, c))
    | none =>
      if rq.bufOnly then some (7, .bufferPathForbidden)
      else if rq.write ∧ p = 1 then some (8, .writeProtect)
      else if rq.atomic ∧ p = 3 then some (8, .atomicUnsupportedRegion)
      else (rq.refuse p).map (fun c => (8, c))

/-- Checks 9 and 10 of R176 for one address that has passed the earlier ones: its place. -/
def lateCheck (s : State) (ag : Agent) (rq : Req) (a : Addr) : Place :=
  let p := addrPath a
  match bufPath p with
  | some b =>
    match bufResolve s ag b a with
    | .error c => .fail 7 c
    | .ok (core, base) => .at_ (fun d => .buf core b (base + ((bufPos a : Int) + d).toNat)) p (-1)
  | none =>
    if p = 4 then .at_ (peerLocs a) p (-1)
    else
      match s.xlate ag a rq.access with
      | .wait s1 => .wait s1
      | .absent => .absent
      | .fail c => .fail 9 c
      | .leaf pte frame =>
        match s.leafCheck p rq.write rq.tiledOk pte frame with
        | .fail c => .fail 9 c
        | .key k => .wait { s with keyAsks := if s.keyAsks.contains k then s.keyAsks else s.keyAsks ++ [k] }
        | .at_ mk cache =>
          let pos := pagePos a
          let isBin : Bool := match mk pos with | .binary _ _ => true | _ => false
          let isPk : Bool := match mk pos with | .packed _ _ => true | _ => false
          if rq.atomic && isBin then .fail 10 .atomicUnsupportedRegion
          else
            match (if isPk then rq.refusePacked else none), (if isBin then rq.refuseBinary else none) with
            | some c, _ => .fail 10 c
            | _, some c => .fail 10 c
            | _, _ => .at_ (fun d => mk ((pos : Int) + d).toNat) p (if p = 2 then -1 else cache)

/-- The earlier of two failing checks; of one check, the first address. -/
def minCheck : Option (Nat × Cause) → Option (Nat × Cause) → Option (Nat × Cause)
  | some a, some b => if b.1 < a.1 then some b else some a
  | some a, none => some a
  | none, b => b

/-- The first failing check of R176 over all addresses of a lane, among checks 2 to 8. -/
def earlyAll (s : State) (ag : Agent) (rq : Req) (bounds : Bool) : List Addr → Option (Nat × Cause)
  | [] => none
  | a :: t => minCheck (earlyCheck s ag rq bounds a) (earlyAll s ag rq bounds t)

/-- The failing check among the places of a lane. -/
def placesFail : List Place → Option (Nat × Cause)
  | [] => none
  | .fail n c :: t => minCheck (some (n, c)) (placesFail t)
  | _ :: t => placesFail t

/-- The first wait among the places of a lane. -/
def placesWait : List Place → Option State
  | [] => none
  | .wait s :: _ => some s
  | _ :: t => placesWait t

/-- What the checks of one lane come to. -/
inductive LaneOut where
  | ok (places : List Place)
  | wait (s : State)
  | fail (c : Cause)

/-- The checks of R176 for one lane. -/
def laneCheck (s : State) (ag : Agent) (rq : Req) (bounds : Bool) (addrs : List Addr) : LaneOut :=
  match earlyAll s ag rq bounds addrs with
  | some (_, c) => .fail c
  | none =>
    let ps := addrs.map (lateCheck s ag rq)
    match placesFail ps with
    | some (_, c) => .fail c
    | none =>
      match placesWait ps with
      | some s1 => .wait s1
      | none => .ok ps

/-- The places around an address that Daymark, an engine or a home slice reaches in a domain: path, canonical form and
translation as for any access (R162, R164, R176), and the CACHE trit. -/
def State.sysPlace (s : State) (domain : Nat) (a : Addr) (write tiledOk : Bool := false) : Except Cause ((Int → Loc) × Int) :=
  let p := addrPath a
  if p < -3 ∨ 4 < p then .error .pathReserved
  else if p < 0 then .error .bufferPathForbidden
  else if p = 4 then
    (if !s.reachable (peerDev a) then .error .peerDeviceUnreachable
     else if peerDev a = s.devid then (match s.peerPlace s.devid domain (peerAddr a) write false with | .ok f => .ok (f, -1) | .error _ => .error .peerDeviceUnreachable)
     else .ok (peerLocs a, -1))
  else if (a.field 46 5).val ≠ 0 then .error .noncanonicalAddress
  else if write ∧ p = 1 then .error .writeProtect
  else
    match s.sysLeaf domain a with
    | .error c => .error c
    | .ok (pte, frame) =>
      match s.leafCheck p write tiledOk pte frame with
      | .fail c => .error c
      | .key _ => .error .keyUnavailable
      | .at_ loc cache => .ok ((fun d => loc ((pagePos a : Int) + d).toNat), cache)

/-- The key slot that the memory-management processor has to have loaded before an access of system software, Daymark or the host goes on
(R374); none where the access needs none, or has been refused one. -/
def State.sysKey (s : State) (domain : Nat) (a : Addr) (write tiledOk : Bool := false) : Option Nat :=
  if addrPath a = 4 then (if peerDev a = s.devid then s.peerKey s.devid domain (peerAddr a) write else none)
  else if addrPath a < 0 ∨ 3 < addrPath a ∨ (a.field 46 5).val ≠ 0 then none
  else
    match s.sysLeaf domain a with
    | .error _ => none
    | .ok (pte, frame) => match s.leafCheck (addrPath a) write tiledOk pte frame with | .key k => some k | _ => none

/-- The first key slot that accesses of system software to addresses wait for (R374). -/
def State.keysFor (s : State) (domain : Nat) (write : Bool) (as : List Addr) : Option Nat := as.findSome? (fun a => s.sysKey domain a write)

/-- The security processor asked for a key slot, if it has not been (R374). -/
def State.askKey (s : State) (k : Nat) : State := if s.keyAsks.contains k then s else { s with keyAsks := s.keyAsks ++ [k] }

/-- The first addresses of the pages that a range touches. -/
def pagesOf (a : Addr) (extent : Nat) : List Addr :=
  let first := a.val - (pagePos a : Int)
  (List.range ((pagePos a + extent + 59048) / 59049)).map (fun (i : Nat) => Tern.ofInt 54 (first + 59049 * (i : Int)))

end Sys2Proof.Machine
end

