-- ==== Sys2Proof/Machine/Memory.lean ====
section
/-! DEFINITION. Block +1: loads, stores and atomics from issue to return (R172, R176 to R195), counted conversion events
(R183, R443), the caches (R171, R172), and the side log (R177, R358 to R361). -/

namespace Sys2Proof.Machine

/-! ## Free order -/

/-- A list in an order taken freely (R194, R229). -/
def shuffle {α : Type} (seed : Nat) : Nat → List α → List α
  | 0, l => l
  | n + 1, l =>
    match l with
    | [] => []
    | [x] => [x]
    | _ =>
      let i := Config.pick (seed + n) % l.length
      l[i]?.toList ++ shuffle seed n (dropAt l i)

/-- Whether two lanes of an access share no place. -/
def lanesApart : List LaneAcc → Bool
  | [] => true
  | x :: t => t.all (fun y => !x.locs.any (fun l => y.locs.contains l)) && lanesApart t

/-- The order in which the lanes of an access are performed: free where it can be seen (R191, R194, R229). -/
def laneOrder (seed : Nat) (ls : List LaneAcc) : List LaneAcc := if lanesApart ls then ls else shuffle seed ls.length ls

/-! ## Counted conversion events -/

/-- The three places of word `w` of a launch's job control block, as the home slice reaches it; a page that has become binary takes no atomic
(R443, R176 check 10). -/
def State.jcbLocs (s : State) (l : Launch) (w : Nat) : Except Cause (List Loc) :=
  match s.sysPlace l.domain (addrAdd l.jcb (3 * w)) true with
  | .error c => .error c
  | .ok (loc, _) =>
    match loc 0 with
    | .packed f pos => if s.poisoned f (pos / 243) then .error .poisonedData else .ok [loc (-1), loc 0, loc 1]
    | _ => .error .atomicUnsupportedRegion

/-- The key slot that a change of words of a launch's job control block waits for (R374, R443). -/
def State.jcbWordsKey (s : State) (launch : Nat) (ws : List Nat) : Option Nat :=
  match s.launch? launch with
  | none => none
  | some l => if l.jcb = azero then none else s.keysFor l.domain true (ws.map (fun (w : Nat) => addrAdd l.jcb (3 * (w : Int))))

/-- The words of a job control block that counted events of a slot change or read (R182, R183): none for no slot. -/
def slotWords (slot : Int) : List Nat := if slot < 0 then [] else 2 :: (List.range 6).map (fun i => 6 + 6 * slot.toNat + i)

/-- A word of the job control block. -/
def State.jcbWord (s : State) (l : Launch) (w : Nat) : Except Cause Word :=
  match s.jcbLocs l w with
  | .error c => .error c
  | .ok ls => match s.readLocs ls with | .ok ts => .ok (wordOfTrytes ts) | .error c => .error c

/-- What a change of words of a launch's job control block waits for, as the state of the wait: a key slot (R374), or, where the change is lost and
would be reported, the EVENT record of an earlier loss that is held (R381, R443). -/
def State.jcbWait (s : State) (launch : Nat) (ws : List Nat) : Option State :=
  match s.jcbWordsKey launch ws with
  | some k => some (s.askKey k)
  | none =>
    let lost : Bool := match s.launch? launch with
      | some l => l.jcb != azero && ws.any (fun w => match s.jcbWord l w with | .ok _ => false | .error _ => true)
      | none => false
    if lost && s.records.any (fun r => r.src == unitSrc 0) then some s else none

/-- A word of the job control block rewritten; a loss makes an EVENT record (R443). -/
def State.jcbUpdate (s : State) (l : Launch) (w : Nat) (f : Word → Word) : State × Bool :=
  match s.jcbLocs l w, s.jcbWord l w with
  | .ok ls, .ok v => (s.homeWrite ls (trytesOfWord (f v)), true)
  | .error c, _ => (s.emitEvent c.code l.id w 0 (unitSrc 0), false)
  | _, .error c => (s.emitEvent c.code l.id w 0 (unitSrc 0), false)

/-- One counted event added to its slot; whether the addition passes the threshold (R183). -/
def State.countEvent (s : State) (launch : Nat) (slot : Int) (ev : Nat) : State × Bool :=
  if slot < 0 then (s, false)
  else
    match s.launch? launch with
    | none => (s, false)
    | some l =>
      let w := 6 + 6 * slot.toNat + 2 * ev
      let old := s.jcbWord l w
      let (s1, done) := s.jcbUpdate l w (fun v => Tern.ofInt 27 (sat (v.val + 1) 27))
      match done, old, s1.jcbWord l (w + 1) with
      | true, .ok c, .ok thr =>
        if 0 < thr.val ∧ c.val ≤ thr.val ∧ thr.val < sat (c.val + 1) 27 then
          ((s1.jcbUpdate l 2 (fun v => v.setField slot.toNat (Tern.ofInt 1 1))).1, true)
        else (s1, false)
      | _, _, _ => (s1, false)

/-- Events counted in order; the lanes whose additions passed a threshold. -/
def State.countEvents (s : State) (launch : Nat) (slot : Int) : List (Nat × Nat) → State × List Nat
  | [] => (s, [])
  | (lane, ev) :: t =>
    let (s1, hit) := s.countEvent launch slot ev
    let (s2, ls) := s1.countEvents launch slot t
    (s2, if hit then lane :: ls else ls)

/-- The events of an access's lanes counted in an order taken freely: lanes of one instruction are unordered (R96, R183). -/
def State.countEventLanes (s : State) (launch : Nat) (slot : Int) (evs : List (Nat × Nat)) : State × List Nat :=
  if evs.length ≤ 1 then s.countEvents launch slot evs
  else { s with free := s.free + 1 }.countEvents launch slot (shuffle (s.free * 2 ^ 20) evs.length evs)

/-! ## What a memory instruction asks -/

/-- A load, store or atomic as its fields ask for it (R66, R190, R191). -/
structure MemOp where
  vec : Bool
  /-- trytes of an element: 1, 3 or 6 -/
  size : Nat
  recIdx : Nat
  ofs : Int
  a : Nat
  d : Nat
  kind : AccKind
  acq : Bool := false
  rel : Bool := false
  scope : Nat := 0
  b : Nat := 80
  bVec : Bool := false
  /-- words of the instruction -/
  len : Nat := 1
deriving DecidableEq, Repr

/-- Whether an access writes memory. -/
def AccKind.writes : AccKind → Bool
  | .store => true
  | .atomic _ _ => true
  | _ => false
/-- Whether an access is an atomic. -/
def AccKind.isAtomic : AccKind → Bool
  | .atomic _ _ => true
  | _ => false
/-- Whether an access may retire into the side log (R177). -/
def AccKind.logs : AccKind → Bool
  | .store => true
  | .atomic _ r => !r
  | _ => false

/-- The register operands of a memory instruction. -/
def MemOp.opds (m : MemOp) : List Opd :=
  let w := if m.size = 6 then 2 else 1
  let cas : Bool := match m.kind with | .atomic op _ => op.kind == .cas | _ => false
  let d := match m.kind with
    | .store => regOpd m.vec m.d true false w w
    | .atomic _ _ => regOpd m.vec m.d cas true w w
    | _ => regOpd m.vec m.d false true w w
  let a := if m.recIdx = 8 then regOpd m.vec m.a true false 2 2 else regOpd m.vec m.a true false
  d :: a :: (if m.kind.isAtomic then [regOpd m.bVec m.b true false w w] else [])

/-- The address pair of a lane without a record (R66). -/
def Fr.addrOf (fr : Fr) (m : MemOp) (l : Nat) : Addr :=
  addrAdd (if m.vec then fr.readV2 1 m.a l else fr.readS2 1 m.a) m.ofs
/-- The record offset of a lane (R66, R179). -/
def Fr.recOfs (fr : Fr) (m : MemOp) (l : Nat) : Int :=
  (if m.vec then fr.readV 1 m.a l else fr.readS 1 m.a).val + m.ofs

/-- The addresses that one lane checks, whether it breaks its record's bounds, and the offsets of the trytes that each
address stands for (R163, R179). -/
def laneAddrs (r : Option Rec) (size : Nat) (ofs : Int) (a : Addr) : List Addr × Bool × List Int :=
  let run : List Int := if size = 1 then [0] else if size = 3 then [-1, 0, 1] else [-1, 0, 1, 2, 3, 4]
  match r with
  | none => ([a], false, run)
  | some r =>
    if r.enc = 0 then ([addrAdd r.base ofs], decide (ofs < 0) || decide (r.extent ≤ ofs), run)
    else
      match recShape size r.count with
      | none => ([], false, [0])
      | some (cnt, n) =>
        let sz := encSize r.enc n
        let st := if r.stride = 0 then (sz : Int) else r.stride
        let xs := (List.range cnt).flatMap (fun (i : Nat) => (List.range sz).map (fun (k : Nat) => ofs + (i : Int) * st + (k : Int)))
        (xs.map (addrAdd r.base), xs.any (fun x => decide (x < 0) || decide (r.extent ≤ x)), [0])

/-- The address of the first tryte of an element. -/
def firstTryte (a : Addr) (run : List Int) : Addr := addrAdd a (run.head?.getD 0)

/-- Every tryte address of a lane. -/
def tryteAddrs (as : List Addr) (run : List Int) : List Addr := as.flatMap (fun a => run.map (addrAdd a))

/-- The order class of a path (R233). -/
def pathClass (p : Int) (own : Bool) : Nat :=
  if p = 0 ∨ p = 2 then 0 else if p = 1 then 1 else if p = 3 then 4 else if p = 4 then 5 else if own then 2 else 3

/-- The counter of an access on a path (R184). -/
def pathCounter (p : Int) (own store : Bool) : Nat :=
  if p = 3 then 4 else if p < 0 then (if own then 2 else 3) else if store then 1 else 0

/-- Whether an address is an own-core buffer address (R166). -/
def ownBuf (a : Addr) : Bool := decide (addrPath a < 0) && bufRank a == 0

/-- The places of a lane, if every address has one. -/
def placeLocs (run : List Int) : List Place → Option (List Loc)
  | [] => some []
  | .at_ mk _ _ :: t => match placeLocs run t with | some ls => some (run.map mk ++ ls) | none => none
  | _ :: _ => none

/-- The CACHE trit of a lane's places: the strictest. -/
def placeCache : List Place → Int
  | [] => 1
  | .at_ _ _ c :: t => if c < placeCache t then c else placeCache t
  | _ :: t => placeCache t

/-- A lane's part of an access (R172). -/
def laneAcc (seq : Bool) (l : Nat) (a0 : Addr) (ps : List Place) (locs : List Loc) (data : List Tryte) (b cmp : Addr)
    (atHome : Bool) : LaneAcc :=
  let p := addrPath a0
  let c := placeCache ps
  { lane := l, locs := locs, va := a0, data := data
    l1 := (p == 0 || p == 1) && c == 1 && !seq && !atHome
    l2 := (p == 0 || p == 1) && decide (0 ≤ c)
    cls := pathClass p (ownBuf a0), stream := p == 2 || ((p == 0 || p == 1) && c == -1), b := b, cmp := cmp }

/-- The elements of a store's data word or words before conversion (R179). -/
def storeElems (size cnt : Nat) (ws : List Word) : List Int :=
  let w0 := ws.getD 0 wzero
  let w1 := ws.getD 1 wzero
  if size = 1 then [el w0 0 9]
  else if size = 3 then (if cnt = 1 then [w0.val] else (List.range 3).map (fun j => el w0 j 9))
  else if cnt = 1 then [(mkPair w0 w1).val] else [w0.val, w1.val]

/-- The trytes that a store writes for one lane, and its counted events (R181, R191). -/
def storeData (r : Option Rec) (size : Nat) (ws : List Word) : Except Cause (List Tryte × List Nat) :=
  let native := if size = 1 then [(ws.getD 0 wzero).field 0 9] else ws.flatMap trytesOfWord
  match r with
  | none => .ok (native, [])
  | some r =>
    if r.enc = 0 then .ok (native, [])
    else
      match recShape size r.count with
      | none => .error .badRecord
      | some (cnt, n) =>
        (storeElems size cnt ws).foldr (fun x acc =>
          match convStore r.enc r.float r.policy r.scale n x, acc with
          | .ok (bs, ev), .ok (ts, evs) => .ok (bs.map byteTryte ++ ts, ev ++ evs)
          | .error c, _ => .error c
          | _, .error c => .error c) (.ok ([], []))

/-- Words of a native element (R191). -/
def nativeWords (size : Nat) (ts : List Tryte) : List Word :=
  if size = 1 then [ofEls 9 [(ts.getD 0 (Tern.zero 9)).val]]
  else if size = 3 then [wordOfTrytes ts]
  else [wordOfTrytes ts, wordOfTrytes (ts.drop 3)]

/-- Words of a converted load's elements (R179). -/
def elemWords (size cnt : Nat) (xs : List Int) : List Word :=
  if size = 1 then [ofEls 9 (xs.take 1)]
  else if size = 3 then (if cnt = 1 then [Tern.ofInt 27 (xs.getD 0 0)] else [ofEls 9 xs])
  else if cnt = 1 then (let a : Addr := Tern.ofInt 54 (xs.getD 0 0); [pairLo a, pairHi a])
  else [Tern.ofInt 27 (xs.getD 0 0), Tern.ofInt 27 (xs.getD 1 0)]

/-- One element of a converted load from its trytes: a tryte that is no byte is BAD_BYTE_CODE (R179, R180). -/
def loadElem (c : Conv) (n : Nat) (ts : List Tryte) : Except Cause (Int × ConvEvents) :=
  let bs := ts.map tryteByte
  if bs.any Option.isNone then .error .badByteCode
  else convLoad c.enc c.float c.policy c.scale n (bs.map (fun b => b.getD 0#8))

/-- The elements of a converted load, with the first fault and every counted event (R180). -/
def loadElems (c : Conv) (n sz : Nat) : Nat → List Tryte → List Int × Option Cause × List Nat
  | 0, _ => ([], none, [])
  | k + 1, ts =>
    let (xs, f, ev) := loadElems c n sz k (ts.drop sz)
    match loadElem c n (ts.take sz) with
    | .ok (x, e) => (x :: xs, f, e ++ ev)
    | .error e => (0 :: xs, some e, ev)

/-- A loaded lane: its words or its fault, and its counted events (R180, R191). -/
def loadValue (c : Option Conv) (size : Nat) (ts : List Tryte) : Except Cause (List Word) × List Nat :=
  match c with
  | none => (.ok (nativeWords size ts), [])
  | some c =>
    match recShape size c.count with
    | none => (.error .badRecord, [])
    | some (cnt, n) =>
      match loadElems c n (encSize c.enc n) cnt ts with
      | (xs, none, ev) => (.ok (elemWords size cnt xs), ev)
      | (_, some e, ev) => (.error e, ev)

/-! ## The read-modify-writes of block +1 -/

/-- The new word of an atomic (R194). -/
def atomWord (op : AtomOp) (old b cmp : Word) : Word :=
  let n := shapeBits op.shape.val
  let each := fun (n : Nat) (f : Int → Int → Int) => ofEls n ((List.range (27 / n)).map (fun j => f (el old j n) (el b j n)))
  match op.kind with
  | .add => each n (fun x y => if op.ovf.val = -1 then wrap (x + y) n else sat (x + y) n)
  | .min => each n (fun x y => if x ≤ y then x else y)
  | .max => each n (fun x y => if x ≤ y then y else x)
  | .xchg => b
  | .cas => if old = cmp then b else old
  | .tadd => tritwise tadd1 old b
  | .fadd =>
    let F := fmtOf op.shape.val
    each F.n (fun x y => match (fadd (fval F x) (fval F y)).pack F (ovfMode op.ovf.val) with | .ok (c, _) => c | .error _ => nanCode)
  | .add54 => old

/-- The new trytes of an atomic on a word or a pair (R194). -/
def atomTrytes (op : AtomOp) (old : List Tryte) (b cmp : Addr) : List Tryte :=
  match op.kind with
  | .add54 =>
    let x := (mkPair (wordOfTrytes old) (wordOfTrytes (old.drop 3))).val + b.val
    let r : Addr := Tern.ofInt 54 (if op.ovf.val = -1 then wrap x 54 else sat x 54)
    trytesOfWord (pairLo r) ++ trytesOfWord (pairHi r)
  | _ => trytesOfWord (atomWord op (wordOfTrytes old) (pairLo b) (pairLo cmp))

/-! ## Issue -/

/-- The watchpoint that an access touches: the lowest index (R388). Paths 0, +1 and +2 match one another. -/
def watchHit (l : Option Launch) (writes loads : Bool) (as : List Addr) : Option Nat :=
  match l with
  | none => none
  | some l =>
    let norm := fun (a : Addr) => if 0 ≤ addrPath a ∧ addrPath a ≤ 2 then (a.setField 51 (Tern.zero 3)).val else a.val
    let hit := fun (w : Watch) => w.enabled && ((w.onLoad && loads) || (w.onStore && writes)) &&
      as.any (fun a => decide (norm w.start ≤ norm a) && decide (norm a < norm w.start + w.extent))
    (List.range l.dbg.watches.length).find? (fun i => match l.dbg.watches[i]? with | some w => hit w | none => false)

/-- Accesses of a group that a counter holds (R184). -/
def Group.inflight (g : Group) (c : Nat) : Nat := (g.infl.filter (fun a => a.counters.contains c)).length

/-- Counters fall in issue order, and an access that counts nowhere any more is forgotten (R184). An access whose lanes use several counters
leaves all of them as it returns, as a whole (DESIGN CHOICE, log 109). -/
def settle : List Nat → List Access → List Access
  | _, [] => []
  | blocked, a :: t =>
    if a.done then
      let cs := a.counters.filter (fun c => blocked.contains c)
      if cs.isEmpty then settle blocked t else { a with counters := cs } :: settle (blocked ++ cs) t
    else a :: settle (blocked ++ a.counters) t

/-- One lane after the checks: its places, or an absent page. -/
structure LaneIn where
  lane : Nat
  addrs : List Addr
  run : List Int
  places : List Place
  data : List Tryte
  events : List Nat
  b : Addr
  cmp : Addr

/-- Whether the side log holds an entry of the split for the page of an address (R235). -/
def State.logged (s : State) (key split : Nat) (a : Addr) : Bool :=
  decide (0 ≤ addrPath a ∧ addrPath a ≤ 3) &&
  s.sideLog.any (fun e => e.key == key && e.before.contains split && samePage e.va a)

/-- A place that a side-logged access of the split's page must wait behind, or join (R235). -/
def behindLog (s : State) (ag : Agent) (logs : Bool) (a : Addr) (p : Place) : Place :=
  if s.logged ag.key ag.split a then (if logs then .absent else .wait s) else p

/-- A tryte store value that a byte location cannot hold (check 10 of R176, R169). -/
def badByte (locs : List Loc) (data : List Tryte) : Bool :=
  (locs.zip data).any (fun e => match e.1 with
    | .binary _ _ => (tryteByte e.2).isNone
    | .host _ _ => (tryteByte e.2).isNone
    | _ => false)

/-- Whether an atomic finds a byte that is no P5 code at a place that it would read (R54, R354 kind P; DEDUCED, log 90). -/
def State.badCodes (s : State) (ls : List Loc) : Bool :=
  !ls.any (fun l => s.locPoisoned l) && (match s.readLocs ls with | .error .badByteCode => true | _ => false)

/-- The checks of all lanes in rising order: the first failing lane's cause, or the lanes with their places (R176, R358). -/
def checkLanes (fr : Fr) (ag : Agent) (m : MemOp) (r : Option Rec) (rq : Req) : List Nat → Except Halt (List LaneIn)
  | [] => .ok []
  | l :: t =>
    let ofs := if m.recIdx = 8 then 0 else fr.recOfs m l
    let (as, bounds, run) := laneAddrs r m.size ofs (if m.recIdx = 8 then fr.addrOf m l else azero)
    match laneCheck fr.s ag rq bounds as with
    | .fail c => fr.fail c l
    | .wait s1 => .error (.block s1)
    | .ok ps0 =>
      let ps := (as.zip ps0).map (fun e => behindLog fr.s ag m.kind.logs e.1 e.2)
      match placesWait ps with
      | some s1 => .error (.block s1)
      | none =>
        let w := if m.size = 6 then 2 else 1
        let dw := (List.range w).map (fun i => if m.vec then fr.readV 0 (m.d + i) l else fr.readS 0 (m.d + i))
        let dws := if 80 ≤ m.d then List.replicate w wzero else dw
        let bv : Addr := if m.bVec then (if m.size = 6 then fr.readV2 2 m.b l else mkPair (fr.readV 2 m.b l) wzero)
          else (if m.size = 6 then fr.readS2 2 m.b else mkPair (fr.readS 2 m.b) wzero)
        let sd := match m.kind with | .store => storeData r m.size dws | _ => .ok ([], [])
        match sd with
        | .error c => fr.fail c l
        | .ok (data, ev) =>
          if badByte ((placeLocs run ps0).getD []) data then fr.fail .convertRange l
          else if m.kind.isAtomic && fr.s.badCodes ((placeLocs run ps).getD []) then fr.fail .badByteCode l
          else
            match checkLanes fr ag m r rq t with
            | .error h => .error h
            | .ok rest => .ok ({ lane := l, addrs := as, run := run, places := ps, data := data, events := ev, b := bv,
                                 cmp := mkPair (dws.getD 0 wzero) wzero } :: rest)

/-- Runs of at most six trytes of a logged lane: address of the first tryte and data (R359). -/
def logRuns : Nat → List Addr → List Tryte → List (Addr × List Tryte)
  | 0, _, _ => []
  | _, [], _ => []
  | n + 1, a :: as, d :: ds =>
    let k := runLen 5 a as
    (a, d :: ds.take k) :: logRuns n (as.drop k) (ds.drop k)
  | _, _, [] => []
where
  /-- how many following addresses continue the run -/
  runLen : Nat → Addr → List Addr → Nat
    | 0, _, _ => 0
    | _, _, [] => 0
    | n + 1, a, b :: t => if b = addrAdd a 1 then runLen n b t + 1 else 0

/-- What the service has said of a store's page when its entry is made: a page already refused will not be served (R361). -/
def State.toldOf (s : State) (key split domain : Nat) (va : Addr) : Option Bool :=
  if s.walkFails.any (fun e => e.1.key == key && e.1.split == split && e.1.domain == domain && samePage e.1.va va && e.2 == .pageNotPresent) then some false
  else none

/-- The side-log entries of a lane that met an absent page (R177, R359). -/
def LaneIn.entries (x : LaneIn) (s : State) (g : Group) (sp : Split) (m : MemOp) (seq : Nat) : List SideEntry :=
  let mk := fun (va : Addr) (op : SideOp) =>
    ({ core := g.core, va := va, domain := g.domain, op := op, key := g.key, split := sp.idx, pc := sp.pc, region := sp.region
       ecount := sp.ecount, seq := seq, path := pathCounter (addrPath va) false true, served := s.toldOf g.key sp.idx g.domain va, rel := m.rel
       acq := m.acq, scope := m.scope, before := [sp.idx], joined := [] } : SideEntry)
  match m.kind with
  | .atomic op _ => x.addrs.map (fun a => mk a (.reduce op x.b x.cmp))
  | _ => (logRuns x.data.length (tryteAddrs x.addrs x.run) x.data).map (fun e => mk e.1 (.store e.2))

/-- A group's next sequence number. -/
def Group.takeSeq (g : Group) : Group := { g with nextSeq := g.nextSeq + 1 }

/-- The check of the named record (R176 check 1): the record, none without one, or the cause. -/
def recordCheck (s : State) (g : Group) (m : MemOp) : Except Cause (Option Rec) :=
  if m.recIdx = 8 then .ok none
  else
    match parseRec (s.nslot g.launch) ((s.records_ g).getD m.recIdx []) with
    | none => .error .badRecord
    | some r =>
      if r.enc ≠ 0 ∧ m.kind.isAtomic then .error .atomicUnsupportedRegion
      else if r.enc ≠ 0 ∧ (recShape m.size r.count).isNone then .error .badRecord
      else .ok (some r)

/-- What the checks of an access ask (R163, R174, R176). -/
def MemOp.req (m : MemOp) (r : Option Rec) : Req :=
  let conv : Bool := match r with | some r => r.enc != 0 | none => false
  let ro : Bool := match r with | some r => !r.write | none => false
  { write := m.kind.writes
    atomic := m.kind.isAtomic
    aligned := fun a => conv || (if m.size = 3 then wordAligned a else if m.size = 6 then pairAligned a else true)
    users := fun b own => b == 0 || (match m.kind with
      | .store => b == 1 && own
      | .atomic _ _ => false
      | _ => b == 2 && own)
    refuse := fun _ => if ro && m.kind.writes then some .writeProtect else none
    access := if m.kind.logs then 0 else -1 }

/-! ## Return -/

/-- How many tiles an access moves (R399). -/
def Access.tilesMoved (a : Access) : Nat := (tilesOf (a.lanes.flatMap (fun l => l.locs))).length

/-- The tiles that an access has stored to, for the fence that writes them on (R238). -/
def Group.noteStores (g : Group) (a : Access) : Group :=
  { g with stored := g.stored ++ (tilesOf (a.lanes.flatMap (fun l => l.locs))).map (fun e => (a.split, tileCoord e.1 e.2.1)) }

/-- Whether an access is a load on path +1 alone, which no acquire, release or fence edge reaches (R232). -/
def Access.readOnly (a : Access) : Bool := a.kind == .load && a.lanes.all (fun x => x.cls == 1)

/-- Whether an earlier access is ordered before a later one of its split, or of a split that was divided from it or merged with it (R232,
R233): by a `JOIN` between them whatever they are (R96), else by an acquire, a release, path +3, or one location. -/
def orderedBefore (a b : Access) : Bool :=
  let stores3 := a.kind.writes && a.lanes.any (fun x => x.cls == 4) && b.lanes.any (fun x => x.cls == 4)
  a.joined.contains b.split ||
  (a.before.contains b.split &&
    ((a.acq && !b.readOnly) || b.rel || stores3 ||
      a.lanes.any (fun x => b.lanes.any (fun y =>
        (x.cls == y.cls || (x.cls == 1 && y.cls == 0 && b.kind.writes)) && x.locs.any (fun l => y.locs.contains l)))))

/-- Whether a side-log entry is ordered before an access of its group (R96, R231, R232, R235): a release waits for every earlier entry of its
split, and an access on path +3 for every earlier store on path +3. -/
def SideEntry.holdsBack (e : SideEntry) (key : Nat) (a : Access) : Bool :=
  e.key == key && decide (e.seq < a.seq) &&
  (e.joined.contains a.split || (e.before.contains a.split &&
    ((e.acq && !a.readOnly) || (a.rel && decide (1 ≤ a.scope)) || (e.path == 4 && a.lanes.any (fun x => x.cls == 4)))))

/-- The requests of an access to this device itself that stand in the inbound ordering point (R165). -/
def InReq.ownOf (r : InReq) (key seq : Nat) : Bool := match r.op with | .own k n => k == key && n == seq | _ => false

/-- Whether the inbound ordering point has let an access's requests to this device through: no earlier write of the device's own order is
still unacknowledged (R165, R409). -/
def State.ownTurn (s : State) (key seq : Nat) : Bool :=
  s.inbound.all (fun r => !r.ownOf key seq ||
    s.inbound.all (fun b => !(b.port == r.port && decide (b.id < r.id) && b.write && !b.ownOf key seq)))

/-- Whether every earlier access that is ordered before an access of the group has returned, with the side-log entries that it follows
(R232, R235), and the inbound ordering point has let it through (R165). -/
def State.mayReturn (s : State) (g : Group) (a : Access) : Bool :=
  !a.done &&
  g.infl.all (fun b => !(decide (b.seq < a.seq) && !b.done && orderedBefore b a)) &&
  !s.sideLog.any (fun e => e.holdsBack g.key a) && s.ownTurn g.key a.seq

/-- A fault recorded with the access that met it (R186). -/
def Access.deferred (a : Access) (c : Cause) (lane now : Nat) : Deferred :=
  { seq := a.seq, cause := c, lane := lane, path := a.path, pc := a.pc, split := a.split, region := a.region, ecount := a.ecount
    dest := a.dest, at_ := now }

/-- The access has returned: its counters fall in issue order, and its split is released where it was held (R177, R184,
R388). -/
def Group.finish (g : Group) (a : Access) : Group :=
  let g1 := { g with infl := settle [] (g.infl.map (fun (b : Access) => if b.seq == a.seq then { b with done := true } else b)) }
  let held := fun (x : Split) => x.wait == .held a.seq
  { g1 with splits := updFirst held (fun x => { x with wait := match a.watch with | some i => .watched i | none => .none }) g1.splits }

/-- The lanes of a loaded register that are still to be written (R74). -/
def Access.writable (a : Access) (r l : Nat) : Bool := (a.liveLanes r).getLsbD l

/-- Loaded words written to the destination (R74, R191). -/
def Group.deliverLoad (g : Group) (a : Access) (vals : List (Nat × List Word)) : Group :=
  match a.dest with
  | none => g
  | some d =>
    (List.range d.words).foldl (fun g i =>
      let xs := (vals.filter (fun e => a.writable (d.reg + i) e.1)).map (fun e => (e.1, e.2.getD i wzero))
      if 80 ≤ d.reg then g else g.deliver a.split (a.before.foldl (fun m j => m ||| g.lanesOfSplit j) 0#32) d.vec (d.reg + i) xs) g

/-- The fault of the lowest lane of a list, the first of them within one lane. -/
def lowestOf : List (Nat × Cause) → Option (Nat × Cause)
  | [] => none
  | x :: t =>
    match lowestOf t with
    | none => some x
    | some y => if y.1 < x.1 then some y else some x

/-- The fault of the lowest lane among data faults and passed thresholds; a data fault first within one lane (R186). A machine cause comes
before any other (R355). -/
def lowestFault (faults : List (Nat × Cause)) : Option (Nat × Cause) :=
  match lowestOf (faults.filter (fun f => f.2.delivery == .machine)) with
  | some f => some f
  | none => lowestOf faults

/-- An access ends with a fault that arrived with its data: deferred, or precise where its split was held (R177, R186). -/
def State.faultReturn (s : State) (key : Nat) (a : Access) (f : Nat × Cause) : State :=
  if a.hold then
    let s1 := s.modGroup key (fun g => ({ g with infl := settle [] (g.infl.map (fun (b : Access) => if b.seq == a.seq then { b with done := true } else b)) }).modSplit a.split
      (fun x => { x with wait := .none, pc := a.pc }))
    s1.takeTrap key a.split { cause := f.2, lane := f.1, epc := a.pc }
  else if f.2.delivery == .machine then
    let s1 := s.modGroup key (fun g => g.finish a)
    (match (s1.group? key).bind (fun g => g.split? a.split) with
    | some x => s1.takeTrap key a.split { cause := f.2, epc := x.pc }
    | none => (match (s1.group? key).map Group.stopSplit with | some i => s1.takeTrap key i { cause := f.2, epc := a.pc } | none => s1))
  else s.modGroup key (fun g => { g.finish a with faults := g.faults ++ [a.deferred f.2 f.1 s.now] })

/-- Whether places can still be reached (R186, R410, R412, R413): the host port's link, the peer device, and for this device's own peer
window a request that was not refused. -/
def State.farLocs (s : State) (ls : List Loc) : Option Cause :=
  ls.findSome? (fun l => match l with
    | .host port _ => if s.pcieUp.contains port then none else some .hostWindowError
    | .peer dev _ => if s.reachable dev && dev != s.devid then none else some .peerDeviceUnreachable
    | _ => none)

/-- Whether a lane of an access can still reach its places. -/
def State.farFault (s : State) (la : LaneAcc) : Option Cause := s.farLocs la.locs

/-- Whether a lane asks this device itself for memory (R165). -/
def LaneAcc.own (s : State) (la : LaneAcc) : Bool := la.locs.any (Loc.own s)

/-- The event of a request of this device to itself that it refuses (R165, R413). -/
def State.ownRefused (s : State) (c : Cause) : State := { s.hostEvent c.code 255 (Config.pick s.free) with free := s.free + 1 }

/-- What a read that is made as its instruction executes finds on the way to its places (R165, R212, R281, R410, R412, R413): the places, those
of this device's own peer window as they are served here, or the cause that the requester sees, and the state with the event of a refusal. -/
def State.reachRead (s : State) (domain : Nat) (ls : List Loc) : State × Except Cause (List Loc) :=
  let refuse := fun (c : Cause) => (s.ownRefused c, (.error .peerDeviceUnreachable : Except Cause (List Loc)))
  if ls.any (Loc.own s) then
    match s.ownPlaces domain false false ls with
    | .error c => refuse c
    | .ok at_ =>
      if at_.any s.locPoisoned then refuse .poisonedData
      else match s.readLocs at_ with | .error c => refuse c | .ok _ => (s, .ok at_)
  else match s.farLocs ls with | some c => (s, .error c) | none => (s, .ok ls)

/-- Whether the inbound ordering point lets a read of this device's own peer window through: no earlier write of its own order is still
unacknowledged (R165, R409). -/
def State.ownClear (s : State) (ls : List Loc) : Bool :=
  !ls.any (Loc.own s) || s.inbound.all (fun b => !(b.port == 2 + s.devid && b.write))

/-- The requests of an access to this device itself enter the inbound ordering point, one a lane, in the order of its own DEVID (R165, R409).
Ports 0 and 1 are the host's, and device d is port 2 + d. -/
def State.enterOwn (s : State) (key : Nat) (a : Access) : State :=
  (a.lanes.filter (fun la => la.own s)).foldl (fun st la =>
    let domain := match s.group? key with | some g => g.domain | none => 0
    let route := match s.ownPlaces domain a.kind.writes a.kind.isAtomic la.locs with
      | .ok (l :: _) => l.route
      | _ => 4
    let r : InReq := { id := st.nextReq, port := 2 + s.devid, route := route, write := a.kind.writes, relaxed := false, forwarded := false
                       op := .own key a.seq }
    { st with inbound := st.inbound ++ [r], nextReq := st.nextReq + 1 }) s

/-- A lane of a request to this device as it is served here: its places, or the fault at the target (R165, R413). -/
def State.serveOwn (s : State) (domain : Nat) (a : Access) (la : LaneAcc) : Except Cause LaneAcc :=
  match s.ownPlaces domain a.kind.writes a.kind.isAtomic la.locs with
  | .error c => .error c
  | .ok ls =>
    if badByte ls la.data then .error .convertRange
    else if a.kind == .load && ls.any (fun l => s.locPoisoned l) then .error .poisonedData
    else match (if a.kind == .store then (.ok [] : Except Cause (List Tryte)) else s.readLocs ls) with
      | .error c => .error c
      | .ok _ => .ok { la with locs := ls, l1 := false, l2 := false, stream := true }

/-- An access served by this device itself leaves the inbound ordering point (R165): its lanes at their places, and an event for each
refusal (R413); a reduction of a poisoned tile raises nothing (R168). A lane that is refused keeps its peer place, which fails. -/
def State.leaveOwn (s : State) (g : Group) (a : Access) : State × Access :=
  if a.lanes.any (fun la => la.own s) then
    let res := a.lanes.map (fun la => if la.own s then (match s.serveOwn g.domain a la with | .ok x => (x, none) | .error c => (la, some c)) else (la, none))
    let refused := (res.filterMap (fun e => e.2)) ++
      (match a.kind with
      | .atomic _ true => (res.filter (fun e => e.2.isNone && e.1.locs.any (fun l => s.locPoisoned l))).map (fun _ => Cause.poisonedData)
      | _ => [])
    let s1 := { s with inbound := s.inbound.filter (fun r => !r.ownOf g.key a.seq) }
    (refused.foldl State.ownRefused s1, { a with lanes := res.map (fun e => e.1) })
  else (s, a)

/-- The fault of a lane as its requester sees it: what this device refused itself is an unreachable peer (R165, R413). -/
def seenFault (s : State) (a0 : Access) (f : Nat × Cause) : Nat × Cause :=
  if a0.lanes.any (fun la => la.lane == f.1 && la.own s) then (f.1, .peerDeviceUnreachable) else f

/-- Trytes of a lane's element as a load sees them: those that it has read before stand (R228, R243). -/
def Access.seen (a : Access) (lane : Nat) (ts : List Tryte) : List Tryte :=
  a.early.foldl (fun ts e => if e.1 = lane then setAt ts e.2.1 e.2.2 else ts) ts

/-- A load in flight reads tryte `i` of each lane's element before the rest, as the memory order allows while it has not returned (R228, R243). -/
def State.readEarly (s : State) (g : Group) (a : Access) (i : Nat) : State :=
  let new := a.lanes.filterMap (fun la =>
    if a.early.any (fun e => e.1 == la.lane && e.2.1 == i) || la.own s || (s.farFault la).isSome then none
    else match s.readLane g.core la with | .ok ts => (ts[i]?).map (fun t => (la.lane, i, t)) | .error _ => none)
  s.modGroup g.key (fun g => { g with infl := g.infl.map (fun (b : Access) => if b.seq == a.seq then { b with early := b.early ++ new } else b) })

/-- A load returns: its data is read, converted and written, or its fault is recorded (R172, R180, R184, R186). An acquire
of cluster scope or wider drops the core's L1 copies (R210). Selectors 4 and 5 of `PERF` count what loads look up: a store, which looks
nothing up, is neither a hit nor a miss (R224; DESIGN CHOICE, log 110). -/
def State.returnLoad (s : State) (g : Group) (a0 : Access) : State :=
  let key := g.key
  let (sOwn, a) := s.leaveOwn g a0
  let s0 := sOwn.modGroup key (fun g => { g with perf := bumpAt g.perf 4 (l1Hits s g.core a.lanes) })
  let s1 := a.lanes.foldl (fun st la => st.cacheLoad key g.core la) s0
  let res := a.lanes.map (fun la => (la.lane, match s.farFault la, s1.readLane g.core la with
    | some c, _ => ((.error c : Except Cause (List Word)), [])
    | none, .error c => ((.error c : Except Cause (List Word)), [])
    | none, .ok ts => loadValue a.conv a.size (a.seen la.lane ts)))
  let evs := res.flatMap (fun e => e.2.2.map (fun ev => (e.1, ev)))
  let (s2, passed) := s1.countEventLanes g.launch (match a.conv with | some c => c.cslot | none => -1) evs
  let faults := res.filterMap (fun e => match e.2.1 with | .error c => some (e.1, c) | .ok _ => none)
    ++ passed.map (fun l => (l, Cause.conversionThreshold))
  let s3 := if a.acq && decide (2 ≤ a.scope) then s2.l1Clear g.core false else s2
  match lowestFault (faults.map (seenFault s a0)) with
  | some f => s3.faultReturn key a f
  | none =>
    let vals := res.filterMap (fun e => match e.2.1 with | .ok ws => some (e.1, ws) | .error _ => none)
    s3.modGroup key (fun g => (g.deliverLoad a vals).finish a)

/-- One lane of an atomic performed at its home slice or buffer: the old words, and whether its tile is poisoned; bytes that
are no P5 codes leave the location as it is (R168, R194). -/
def State.atomLane (s : State) (core : Nat) (op : AtomOp) (la : LaneAcc) : State × Except Cause (List Word) :=
  let poison := la.locs.any (fun l => s.locPoisoned l)
  match s.farFault la, s.readLocs la.locs with
  | some c, _ => (s, .error c)
  | none, .error c => (s, .error (if poison then .poisonedData else c))
  | none, .ok old =>
    let s1 := (s.writeLocs la.locs (atomTrytes op old la.b la.cmp)).cacheStore core la
    (s1, if poison then .error .poisonedData else .ok (nativeWords old.length old))

/-- The lanes of an atomic performed one after another. -/
def State.atomLanes (s : State) (core : Nat) (op : AtomOp) : List LaneAcc → State × List (Nat × Except Cause (List Word))
  | [] => (s, [])
  | la :: t =>
    let (s1, r) := s.atomLane core op la
    let (s2, rs) := s1.atomLanes core op t
    (s2, (la.lane, r) :: rs)

/-- An atomic performs and returns (R194). A reduction of a poisoned tile raises nothing (R168); bytes that have become no P5 codes since
its issue are a deferred fault (R54; DEDUCED, log 90). -/
def State.returnAtomic (s : State) (g : Group) (a0 : Access) (op : AtomOp) (toReg : Bool) : State :=
  let (sOwn, a) := s.leaveOwn g a0
  let (s1, res) := sOwn.atomLanes g.core op (laneOrder (s.free * 2 ^ 20) a.lanes)
  let s2 := ({ s1 with free := s1.free + 1 }.chargeTiles g.key a.tilesMoved).modGroup g.key (fun g => g.noteStores a)
  let s3 := if a.acq && decide (2 ≤ a.scope) then s2.l1Clear g.core false else s2
  let all := (res.filterMap (fun e => match e.2 with | .error c => some (e.1, c) | .ok _ => none)).map (seenFault s a0)
  match lowestFault (if toReg then all else all.filter (fun f => f.2 != .poisonedData)) with
  | some f => s3.faultReturn g.key a f
  | none =>
    let vals := res.filterMap (fun e => match e.2 with | .ok ws => some (e.1, ws) | .error _ => none)
    s3.modGroup g.key (fun g => (g.deliverLoad a vals).finish a)

/-- The lanes of a store written one after another (R191). -/
def State.storeLanes (s : State) (core : Nat) : List LaneAcc → State
  | [] => s
  | la :: t =>
    if (s.farFault la).isSome then s.storeLanes core t
    else ((s.writeLocs la.locs la.data).cacheStore core la).storeLanes core t

/-- A store returns: its lanes take their places in the coherence orders (R184, R191). -/
def State.returnStore (s : State) (g : Group) (a0 : Access) : State :=
  let (sOwn, a) := s.leaveOwn g a0
  let s1 := sOwn.storeLanes g.core (laneOrder (s.free * 2 ^ 20) a.lanes)
  let s1' := ({ s1 with free := s1.free + 1 }.chargeTiles g.key a.tilesMoved).modGroup g.key (fun g => g.noteStores a)
  let (s2, passed) := s1'.countEventLanes g.launch (match a.conv with | some c => c.cslot | none => -1) a.events
  let faults := a.lanes.filterMap (fun la => (s.farFault la).map (fun c => (la.lane, c)))
    ++ passed.map (fun l => (l, Cause.conversionThreshold))
  match lowestFault faults with
  | some f => s2.faultReturn g.key a f
  | none => s2.modGroup g.key (fun g => g.finish a)

/-- What a `JOIN` has ordered after an access reads nothing older than it: the core's L1 copies go (R96, R237; DESIGN CHOICE, log 91). -/
def State.joinClear (s : State) (core : Nat) (a : Access) : State := if a.joined.isEmpty then s else s.l1Clear core true

/-- What an access waits for before it can be performed, as the state of the wait: the key of a frame which its request to this device itself
reaches (R165, R374), or its launch's job control block where it may count events there (R374, R381, R443). -/
def State.accessWait (s : State) (g : Group) (a : Access) : Option State :=
  match s.ownKey g.domain a.kind.writes (a.lanes.flatMap (fun la => la.locs)), a.conv with
  | some k, _ => some (s.askKey k)
  | none, some c => s.jcbWait g.launch (slotWords c.cslot)
  | none, none => none

/-- LOAD_RETURN (R184): access `k` of a group, a load or an atomic with a destination, returns; with `part`, a load only reads one tryte of each
element ahead of its return (R228). -/
def execLoadReturn (core slot k : Nat) (s : State) (part : Option Nat := none) : Out :=
  .next (match s.group? (gkey core slot) with
    | none => s
    | some g =>
      match g.infl.find? (fun a => a.seq == k) with
      | none => s
      | some a =>
        if !s.mayReturn g a then s
        else
          match s.accessWait g a with
          | some s1 => s1
          | none =>
            match a.kind, part with
            | .load, none => (s.returnLoad g a).joinClear g.core a
            | .load, some i => s.readEarly g a i
            | .atomic op true, none => (s.returnAtomic g a op true).joinClear g.core a
            | _, _ => s)

/-- STORE_RETURN (R184): access `k` of a group, a store, a reduction or a `CFLUSH`, returns. -/
def execStoreReturn (core slot k : Nat) (s : State) : Out :=
  .next (match s.group? (gkey core slot) with
    | none => s
    | some g =>
      match g.infl.find? (fun a => a.seq == k) with
      | none => s
      | some a =>
        if !s.mayReturn g a then s
        else
          match s.accessWait g a with
          | some s1 => s1
          | none =>
            match a.kind with
            | .store => (s.returnStore g a).joinClear g.core a
            | .atomic op false => (s.returnAtomic g a op false).joinClear g.core a
            | .flush => s.modGroup (gkey core slot) (fun g => g.finish a)
            | _ => s)

/-! ## Issue of an access -/

/-- A store or reduction all of whose lanes have retired into the side log has returned (R177, R184). -/
def State.returnLogged (s : State) (key : Nat) (a : Access) : State :=
  match s.group? key with
  | none => s
  | some g =>
    match a.kind with
    | .atomic op _ => s.returnAtomic g a op false
    | _ => s.returnStore g a

/-- A load, store or atomic issued (R176, R177, R184, R191, R358). Where its lanes use several paths, the path that its deferred fault will
name is that of its first active lane (R186; DESIGN CHOICE, log 108). No active lane does nothing; a failing check traps; a
page in translation, a full counter or a full side log holds the split; otherwise the access is in flight, or has returned where all of
it has retired into the side log. -/
def Fr.accessAs (fr : Fr) (s1 : State) (m : MemOp) (check : Except Cause (Option Rec)) (rq : Option Rec → Req) :
    Except Halt State :=
  if !fr.any then .ok s1
  else
    let g := fr.g
    let ag := g.agent fr.sp.idx
    match check with
    | .error c => fr.fail c
    | .ok r =>
      match checkLanes fr ag m r (rq r) (if m.vec then fr.lanes else [0]) with
      | .error h => .error h
      | .ok ls =>
        let here := ls.filter (fun x => (placeLocs x.run x.places).isSome)
        let away := ls.filter (fun x => (placeLocs x.run x.places).isNone)
        let store := m.kind.logs
        let counters := (ls.flatMap (fun x => x.addrs.map (fun a =>
          pathCounter (addrPath a) (ownBuf a && !g.isSeq) store))).eraseDups
        let entries := away.flatMap (fun x => x.entries fr.s g fr.sp m g.nextSeq)
        if counters.any (fun c => decide (81 ≤ g.inflight c)) then .error .full
        else if 729 < (fr.s.sideLog.filter (fun e => e.core == g.core)).length + entries.length ∧ entries ≠ [] then
          if fr.s.sideLog.any (fun e => e.key == fr.key) then fr.fail .sideLogFull ((away.head?.map (·.lane)).getD 0)
          else .error (.block fr.s)
        else
          let w := if m.size = 6 then 2 else 1
          let loads := m.kind.loads
          let hold := loads && ls.any (fun x => x.addrs.any (fun a => addrPath a == 3 || addrPath a == 4))
          let watch := watchHit (fr.s.launch? g.launch) m.kind.writes (!m.kind.writes || m.kind.isAtomic)
            (ls.flatMap (fun x => tryteAddrs x.addrs x.run))
          let acc : Access :=
            { seq := g.nextSeq, kind := m.kind, pc := fr.sp.pc, split := fr.sp.idx, before := [fr.sp.idx], joined := []
              path := (match ls with | x :: _ => pathCounter (addrPath (x.addrs.head?.getD azero)) (ownBuf (x.addrs.head?.getD azero) && !g.isSeq) store | [] => 0)
              counters := counters
              lanes := here.map (fun x => { laneAcc g.isSeq x.lane (firstTryte (x.addrs.head?.getD azero) x.run) x.places
                ((placeLocs x.run x.places).getD []) x.data x.b x.cmp (m.kind.isAtomic || (m.acq && decide (2 ≤ m.scope))) with
                port := fr.s.portOf (x.addrs.head?.getD azero) })
              dest := if loads then some { vec := m.vec, reg := m.d, words := w } else none
              killed := []
              conv := (match r with
                | some r => if r.enc = 0 then none else some { enc := r.enc, policy := r.policy, count := r.count, scale := r.scale, cslot := r.cslot, float := r.float }
                | none => none)
              size := m.size, region := fr.sp.region, ecount := fr.sp.ecount, done := false, acq := m.acq, rel := m.rel
              scope := m.scope, events := ls.flatMap (fun x => x.events.map (fun e => (x.lane, e))), hold := hold, watch := watch }
          let s2 := ls.foldl (fun st x => x.addrs.foldl (fun st a => st.tlbCopy ag a) st) s1
          let s3 := away.foldl (fun st x => x.addrs.foldl (fun st a => st.askHost ag a) st) { s2 with sideLog := s2.sideLog ++ entries }
          let s4 := (s3.enterOwn fr.key acc).modGroup fr.key (fun g =>
            let g1 := if loads && decide (m.d < 80) then
                (List.range w).foldl (fun g i => g.kill fr.sp.idx m.vec (m.d + i) (maskOf (fun l => ls.any (fun x => x.lane == l)))) g
              else g
            let g2 := { g1.takeSeq with infl := g1.infl ++ [acc], perf := bumpAt g1.perf 6 entries.length }
            if hold || watch.isSome then g2.modSplit fr.sp.idx (fun x => { x with wait := .held acc.seq }) else g2)
          .ok (if store && here.isEmpty then s4.returnLogged fr.key acc else s4)

/-- A load, store or atomic of block +1 issued. -/
def Fr.access (fr : Fr) (s1 : State) (m : MemOp) : Except Halt State := fr.accessAs s1 m (recordCheck fr.s fr.g m) m.req

/-! ## The side log -/

/-- The first entry of a core's side log. -/
def State.logHead (s : State) (core : Nat) : Option SideEntry := s.sideLog.find? (fun e => e.core == core)
/-- A core's side log without its first entry. -/
def State.logPop (s : State) (core : Nat) : State :=
  { s with sideLog := dropFirst (fun e => e.core == core) s.sideLog }
where
  /-- the list without its first element that meets a test -/
  dropFirst (p : SideEntry → Bool) : List SideEntry → List SideEntry
    | [] => []
    | x :: t => if p x then t else x :: dropFirst p t

/-- The deferred fault that a side-log entry leaves (R361). -/
def SideEntry.deferred (e : SideEntry) (c : Cause) (now : Nat) : Deferred :=
  { seq := e.seq, cause := c, lane := 0, path := e.path, pc := e.pc, split := e.split, region := e.region, ecount := e.ecount
    dest := none, at_ := now }

/-- How many trytes an entry covers, and the offset of the first from its address. -/
def SideOp.span : SideOp → List Int
  | .store d => (List.range d.length).map (fun (i : Nat) => (i : Int))
  | .reduce op _ _ => if op.kind == .add54 then [-1, 0, 1, 2, 3, 4] else [-1, 0, 1]

/-- An entry performed at its place: a store or one atomic (R359). Its split's next system-scope fence writes the tile on (R238), its crew pays
for the tile moved (R399), and an acquire of cluster scope or wider drops the core's L1 copies (R231). -/
def State.performEntry (s : State) (e : SideEntry) (locs : List Loc) (cache : Int) : State :=
  let la := laneAcc true 0 e.va [] locs (match e.op with | .store d => d | _ => [])
    (match e.op with | .reduce _ b _ => b | _ => azero) (match e.op with | .reduce _ _ c => c | _ => azero) true
  let la1 := { la with l2 := la.l2 && decide (0 ≤ cache), stream := la.stream || cache == -1 }
  let fault := fun (st : State) (c : Cause) => st.modGroup e.key (fun g => { g with faults := g.faults ++ [e.deferred c s.now] })
  let s1 : State := match e.op with
    | .store d => (match s.farFault la1 with | some c => fault s c | none => (s.writeLocs locs d).cacheStore e.core la1)
    | .reduce op _ _ =>
      let r := s.atomLane e.core op la1
      match r.2 with
      | .error c => if c = Cause.poisonedData then r.1 else fault r.1 c
      | .ok _ => r.1
  let coords := (tilesOf locs).map (fun (t : Nat × Nat × Bool) => tileCoord t.1 t.2.1)
  let s2 := (s1.chargeTiles e.key coords.length).modGroup e.key (fun g => { g with stored := g.stored ++ coords.map (fun t => (e.split, t)) })
  if (e.acq && decide (2 ≤ e.scope)) || !e.joined.isEmpty then s2.l1Clear e.core (!e.joined.isEmpty) else s2

/-- Whether an access in flight is ordered before a side-log entry of its group (R232, R235). -/
def Access.precedes (a : Access) (e : SideEntry) : Bool :=
  decide (a.seq < e.seq) && !a.done &&
  (a.joined.contains e.split ||
    (a.before.contains e.split &&
      (a.acq || e.rel || a.lanes.any (fun x => samePage x.va e.va) ||
        (e.path == 4 && a.kind.writes && a.lanes.any (fun x => x.cls == 4)))))

/-- What a side-log entry meets as it is replayed: its places and the CACHE trit, the key slot that it waits for, or its cause (R359, R374). -/
def State.entryPlace (s : State) (e : SideEntry) : LeafRes :=
  match s.sysLeaf e.domain e.va with
  | .error c => .fail c
  | .ok (pte, frame) => s.leafCheck (addrPath e.va) true false pte frame

/-- SIDE_LOG_REPLAY (R359, R235): the first entry of a core's side log is performed once its page is served. An entry whose frame has an
empty key slot waits for the security processor (R374). A page that cannot take it after all leaves the cause as a deferred fault. -/
def execSideLogReplay (core : Nat) (s : State) : Out :=
  .next (match s.logHead core with
    | none => s
    | some e =>
      let older := match s.group? e.key with
        | some g => g.infl.any (fun a => a.precedes e)
        | none => false
      if e.served != some true || older then s
      else
        let s1 := s.logPop core
        let drop := fun (c : Cause) => s1.modGroup e.key (fun g => { g with faults := g.faults ++ [e.deferred c s.now] })
        match s.entryPlace e with
        | .fail c => drop c
        | .key k => s.askKey k
        | .at_ mk cache =>
          let locs := e.op.span.map (fun d => mk ((pagePos e.va : Int) + d).toNat)
          let isBin : Bool := match locs with | .binary _ _ :: _ => true | .host _ _ :: _ => true | _ => false
          match e.op with
          | .store d => if badByte locs d then drop .convertRange else s1.performEntry e locs cache
          | .reduce _ _ _ => if isBin then drop .atomicUnsupportedRegion else s1.performEntry e locs cache)

/-- SIDE_LOG_DISCARD (R361): the first entry's page will not be served; PAGE_NOT_PRESENT is recorded on its path. -/
def execSideLogDiscard (core : Nat) (s : State) : Out :=
  .next (match s.logHead core with
    | none => s
    | some e =>
      if e.served ≠ some false then s
      else (s.logPop core).modGroup e.key (fun g => { g with faults := g.faults ++ [e.deferred .pageNotPresent s.now] }))

/-! ## The instructions -/

/-- An M form of block +1 (R66, R189, R191). -/
def mOp (f : MFmt) (vec : Bool) (size : Nat) (kind : AccKind) : MemOp :=
  { vec := vec, size := size, recIdx := f.recd.index, ofs := f.ofs.val, a := f.a.index, d := f.d.index, kind := kind }

/-- What an M-form load or store uses. -/
def memUse (f : MFmt) (m : MemOp) : Use := { vector := m.vec, resv := resvPred f.h, opds := m.opds }

/-- Runs an M-form load or store. -/
def runMem (s : State) (f : MFmt) (vec : Bool) (size : Nat) (kind : AccKind) : Out :=
  let m := mOp f vec size kind
  runOp s f.h (memUse f m) 1 fun fr s1 => fr.access s1 m

/-- LD9 (R191): a tryte into subelement 0 of each lane's register. -/
def execLd9 (f : MFmt) (s : State) : Out := runMem s f true 1 .load
/-- LD27 (R191): a word to each lane. -/
def execLd27 (f : MFmt) (s : State) : Out := runMem s f true 3 .load
/-- LD54 (R191): a pair to each lane. -/
def execLd54 (f : MFmt) (s : State) : Out := runMem s f true 6 .load
/-- ST9 (R191): subelement 0 of each lane's register to a tryte. -/
def execSt9 (f : MFmt) (s : State) : Out := runMem s f true 1 .store
/-- ST27 (R191): each lane's word to memory. -/
def execSt27 (f : MFmt) (s : State) : Out := runMem s f true 3 .store
/-- ST54 (R191): each lane's pair to memory. -/
def execSt54 (f : MFmt) (s : State) : Out := runMem s f true 6 .store
/-- LDS9 (R191): a tryte into subelement 0 of a scalar. -/
def execLds9 (f : MFmt) (s : State) : Out := runMem s f false 1 .load
/-- LDS27 (R191): a word to a scalar. -/
def execLds27 (f : MFmt) (s : State) : Out := runMem s f false 3 .load
/-- LDS54 (R191): a pair to a scalar pair. -/
def execLds54 (f : MFmt) (s : State) : Out := runMem s f false 6 .load
/-- STS9 (R191): subelement 0 of a scalar to a tryte. -/
def execSts9 (f : MFmt) (s : State) : Out := runMem s f false 1 .store
/-- STS27 (R191): a scalar word to memory. -/
def execSts27 (f : MFmt) (s : State) : Out := runMem s f false 3 .store
/-- STS54 (R191): a scalar pair to memory. -/
def execSts54 (f : MFmt) (s : State) : Out := runMem s f false 6 .store

/-- The fields of a block +1 extension word (R190). -/
def extRec (w : Word) : Nat := (w.field 25 2).index
def extOfs (w : Word) : Int := (w.field 19 6).val
def extScope (w : Word) : Nat := (w.field 17 2).index
def extAcq (w : Word) : Int := w.trit 16
def extRel (w : Word) : Int := w.trit 15

/-- LDA* and STL* (R192): a load with acquire or a store with release at SCOPE, in the file of SRC. -/
def scopedOp (f : LFmt) (size : Nat) (store : Bool) : MemOp :=
  { vec := f.r.src != 0, size := size, recIdx := extRec f.ext, ofs := extOfs f.ext, a := f.r.a.index, d := f.r.d.index
    kind := if store then .store else .load, acq := !store, rel := store, scope := extScope f.ext, len := 2 }

/-- What LDA* and STL* use. -/
def scopedUse (f : LFmt) (m : MemOp) : Use :=
  { vector := m.vec
    resv := resvPred f.r.h || f.r.shape != 0 || f.r.ovf != 0 || f.r.src == 1 || resvReg f.r.b || reuseBad f.r true false
      || decide (4 < extScope f.ext) || extAcq f.ext != 0 || extRel f.ext != 0 || (f.ext.field 0 15).val != 0
    opds := m.opds }

/-- Runs LDA* and STL*. -/
def runScoped (s : State) (f : LFmt) (size : Nat) (store : Bool) : Out :=
  let m := scopedOp f size store
  runOp s f.r.h (scopedUse f m) 2 fun fr s1 => fr.access s1 m

/-- LDA27 (R192). -/
def execLda27 (f : LFmt) (s : State) : Out := runScoped s f 3 false
/-- LDA54 (R192). -/
def execLda54 (f : LFmt) (s : State) : Out := runScoped s f 6 false
/-- STL27 (R192). -/
def execStl27 (f : LFmt) (s : State) : Out := runScoped s f 3 true
/-- STL54 (R192). -/
def execStl54 (f : LFmt) (s : State) : Out := runScoped s f 6 true

/-- An atomic (R194): SRC -1 vector addresses and B, 0 scalar, +1 vector addresses and a scalar B. Index 80 as its
destination makes it a reduction. -/
def atomicOp (f : LFmt) (kind : AtomKind) : MemOp :=
  { vec := f.r.src != 0, size := if kind = .add54 then 6 else 3, recIdx := extRec f.ext, ofs := extOfs f.ext, a := f.r.a.index
    d := f.r.d.index, kind := .atomic ⟨kind, Tern.ofInt 1 f.r.shape, Tern.ofInt 1 f.r.ovf⟩ (decide (f.r.d.index < 80))
    acq := extAcq f.ext == 1, rel := extRel f.ext == 1, scope := extScope f.ext
    b := f.r.b.index, bVec := f.r.src == -1, len := 2 }

/-- What an atomic uses; `useShape` and `useOvf` say which FN trits it has. -/
def atomicUse (f : LFmt) (kind : AtomKind) (useShape useOvf : Bool) : Use :=
  let m := atomicOp f kind
  { vector := m.vec
    resv := resvPred f.r.h || (!useShape && f.r.shape != 0) || (kind == .fadd && f.r.shape == 1)
      || (if useOvf then f.r.ovf == 1 else f.r.ovf != 0) || reuseBad f.r true true
      || extAcq f.ext == -1 || extRel f.ext == -1
      || (if m.acq || m.rel then decide (4 < extScope f.ext) else (f.ext.field 17 2).val != 0)
      || (f.ext.field 0 15).val != 0
    opds := m.opds }

/-- Runs an atomic. -/
def runAtomic (s : State) (f : LFmt) (kind : AtomKind) (useShape useOvf : Bool) : Out :=
  let m := atomicOp f kind
  runOp s f.r.h (atomicUse f kind useShape useOvf) 2 fun fr s1 => fr.access s1 m

/-- AADD (R194). -/
def execAadd (f : LFmt) (s : State) : Out := runAtomic s f .add true true
/-- AMIN (R194). -/
def execAmin (f : LFmt) (s : State) : Out := runAtomic s f .min true false
/-- AMAX (R194). -/
def execAmax (f : LFmt) (s : State) : Out := runAtomic s f .max true false
/-- AXCHG (R194). -/
def execAxchg (f : LFmt) (s : State) : Out := runAtomic s f .xchg false false
/-- ACAS (R194). -/
def execAcas (f : LFmt) (s : State) : Out := runAtomic s f .cas false false
/-- ATADD (R194). -/
def execAtadd (f : LFmt) (s : State) : Out := runAtomic s f .tadd false false
/-- AFADD (R194). -/
def execAfadd (f : LFmt) (s : State) : Out := runAtomic s f .fadd true true
/-- AADD54 (R194). -/
def execAadd54 (f : LFmt) (s : State) : Out := runAtomic s f .add54 false true

/-- A lane of a prefetch: the tile of an address that a load could reach is brought to L2, and to L1 (R193); a tile that moves is charged to
the group (R399). -/
def State.prefetch (s : State) (key : Nat) (ag : Agent) (toL1 bounds : Bool) (a : Addr) : State :=
  let p := addrPath a
  if bounds ∨ p < 0 ∨ 2 < p ∨ (a.field 46 5).val ≠ 0 then s
  else
    match s.sysPlace ag.domain a false with
    | .error _ => s
    | .ok (loc, _) =>
      match (loc 0).tile with
      | none => s
      | some (f, t, packed) =>
        let c := tileCoord f t
        let s1 := s.l2Put c false
        if toL1 && (s1.l1Find ag.core c (p == 1)).isNone then (s1.l1Fill ag.core f t packed (p == 1)).chargeTiles key 1
        else s1.chargeTiles key (if (mapFind c s.l2).isSome then 0 else 1)

/-- What a prefetch uses. -/
def prefUse (f : MFmt) : Use :=
  { vector := true
    resv := resvPred f.h || (f.d.index != 40 && f.d.index != 41)
    opds := [if f.recd.index = 8 then regOpd true f.a.index true false 2 2 else regOpd true f.a.index true false] }

/-- A prefetch of every active lane (R193): only its record can make it trap. -/
def runPref (s : State) (f : MFmt) (toL1 : Bool) : Out :=
  let m := mOp f true 1 .load
  runOp s f.h (prefUse f) 1 fun fr s1 =>
    if !fr.any then .ok s1
    else
      match (if m.recIdx = 8 then (.ok none : Except Cause (Option Rec)) else
        match parseRec (fr.s.nslot fr.g.launch) ((fr.s.records_ fr.g).getD m.recIdx []) with
        | none => .error .badRecord
        | some r => .ok (some r)) with
      | .error c => fr.fail c
      | .ok r =>
        .ok (fr.lanes.foldl (fun st l =>
          match r with
          | none => st.prefetch fr.key (fr.g.agent fr.sp.idx) toL1 false (fr.addrOf m l)
          | some r =>
            let x := fr.recOfs m l
            st.prefetch fr.key (fr.g.agent fr.sp.idx) toL1 (decide (x < 0) || decide (r.extent ≤ x)) (addrAdd r.base x)) s1)

/-- PREF (R193): each lane's tile to L1 and L2. -/
def execPref (f : MFmt) (s : State) : Out := runPref s f true
/-- PREF.l2 (R193): each lane's tile to L2 only. -/
def execPrefL2 (f : MFmt) (s : State) : Out := runPref s f false

end Sys2Proof.Machine
end

