-- ==== Sys2Proof/Machine/System.lean ====
section
/-! DEFINITION. Block 0: state registers, traps and the return from them, fences, waits, barriers, translation and cache
maintenance, time, counters and observation (R197 to R226), with the events that complete its waits. -/

namespace Sys2Proof.Machine

/-! ## State registers -/

/-- Whether a state register is a pair; none for an index that R197 and R199 do not list. -/
def stPair (i : Int) : Option Bool :=
  if i = 3 ∨ i = 4 ∨ i = 6 ∨ i = 14 ∨ i = 16 ∨ i = -2 ∨ i = -3 then some true
  else if (1 ≤ i ∧ i ≤ 15 ∧ i ≠ 10) ∨ (-6 ≤ i ∧ i ≤ -1) then some false
  else none

/-- Whether `WRST` may write a state register (R197, R199, R202, R95, R185). -/
def stWritable (i : Int) : Bool := (decide (1 ≤ i) && decide (i ≤ 8)) || i == 16 || i == -6

/-- `SPLITST` for the reading split (R95, R114). -/
def splitst (g : Group) (sp : Split) : Word :=
  let live := if g.isSeq then 1 else g.splits.foldl (fun (a : Int) x => a + 3 ^ x.idx) 0
  Tern.ofInt 27 ((sp.idx : Int) + 9 * live + (sp.falls.length : Int) * 3 ^ 6 + (sp.tokens.length : Int) * 3 ^ 9)

/-- `INFL` (R185). -/
def inflWord (g : Group) : Word :=
  Tern.ofInt 27 ((List.range 5).foldl (fun (a : Int) (c : Nat) => a + (g.inflight c : Int) * 3 ^ (5 * c)) 0)

/-- `ENERGYCR`: whole microjoules charged to the crew, or to the launch's sequencer account (R202). -/
def State.energycr (s : State) (g : Group) : Word :=
  let uj := if g.isSeq then (match s.launch? g.launch with | some l => l.seqEnergyCr | none => 0)
    else match s.crew? g.launch g.core g.crew with | some c => c.energyCr | none => 0
  Tern.ofInt 27 (sat (uj : Int) 27)

/-- `WINFO` of a walk (R199). -/
def winfo (m : Miss) : Word :=
  Tern.ofInt 27 (m.access + 9 * m.path + 3 ^ 5 * (coreX (m.key / 256) : Int) + 3 ^ 10 * (coreY (m.key / 256) : Int)
    + 3 ^ 15 * (Tern.ofIndex 8 (m.key % 256)).val)

/-- A state register as the reading split finds it, in the low word for a word register (R197, R199). -/
def State.stRead (s : State) (g : Group) (sp : Split) (i : Int) : Addr :=
  let word := fun (w : Word) => mkPair w wzero
  let num := fun (n : Int) => word (Tern.ofInt 27 n)
  let ofL := fun (p : Launch → Addr) => match s.launch? g.launch with | some l => p l | none => azero
  if i = 1 then word g.fstat.word
  else if i = 2 then word g.cause
  else if i = 3 then g.epc
  else if i = 4 then g.eregion
  else if i = 5 then word g.ecount
  else if i = 6 then g.tvec
  else if i = 7 then num (if g.scheck then 1 else 0)
  else if i = 8 then num g.role
  else if i = 9 then word (splitst g sp)
  else if i = 11 then word (s.energycr g)
  else if i = 12 then word (inflWord g)
  else if i = 13 then num g.launch
  else if i = 14 then ofL (·.argptr)
  else if i = 15 then num g.hdepth
  else if i = 16 then g.epc2
  else if i = -1 then num 1
  else if i = -2 then (match g.walk with | some m => m.va | none => azero)
  else if i = -3 then
    (match g.walk with
    | some m => (match mapFind m.domain s.roots with
      | some f => Tern.ofInt 54 ((f : Int) * 3 ^ 10 - (half 46 : Int) + (half 10 : Int))
      | none => azero)
    | none => azero)
  else if i = -4 then (match g.walk with | some m => word (winfo m) | none => azero)
  else if i = -5 then num (s.sideLog.filter (fun e => e.core == g.core)).length
  else word (Tern.ofIndex 27 (g.domain + (half 27 - half 9)))

/-- Whether CAUSE may hold a value that a `WRST` writes (R200). -/
def causeLegal (w : Word) : Bool :=
  let c := (w.field 0 5).val
  let lane := (w.field 5 5).val
  let sp := (w.field 10 2).val
  let c2 := (w.field 22 5).val
  decide (0 ≤ c ∧ c ≤ 96 ∧ 0 ≤ lane ∧ lane ≤ 31 ∧ 0 ≤ sp ∧ sp ≤ 3 ∧ 0 ≤ c2 ∧ c2 ≤ 96) && w.trit 12 != -1 && w.trit 13 == 0

/-- A state register written (R204); none for a value that the register cannot hold. Flags of results still to be written stay (R48). -/
def Group.stWrite (g : Group) (i : Int) (v : Addr) : Option Group :=
  let w := pairLo v
  let addrOk := v.trit 0 == 0
  if i = 1 then (Flags.ofWord w).map (fun f => { g with fstat := f })
  else if i = 2 then (if causeLegal w then some { g with cause := w } else none)
  else if i = 3 then (if addrOk then some { g with epc := v } else none)
  else if i = 4 then (if addrOk then some { g with eregion := v } else none)
  else if i = 5 then some { g with ecount := w }
  else if i = 6 then (if addrOk then some { g with tvec := v } else none)
  else if i = 7 then (if w.val = 0 ∨ w.val = 1 then some { g with scheck := w.val == 1 } else none)
  else if i = 8 then (if -1 ≤ w.val ∧ w.val ≤ 1 then some { g with role := w.val } else none)
  else if i = 16 then (if addrOk then some { g with epc2 := v } else none)
  else if i = -6 then (if (w.field 9 18).val = 0 then some { g with domain := (w.field 0 9).index } else none)
  else none

/-- A format I instruction whose reserved fields are those said. -/
def sysI (f : IFmt) (d a : Bool) : Bool := resvPred f.h || (!d && resvReg f.d) || (!a && resvReg f.a)

/-- RDST (R204). FSTAT is read once the split's flag-setting instructions have written their results (R48). -/
def execRdst (f : IFmt) (s : State) : Out :=
  let i := f.imm.val
  let pair := (stPair i).getD false
  let u : Use :=
    { priv := decide (i < 0), resv := sysI f true false || (stPair i).isNone
      opds := [if pair then pairOpd f.d.index false true else regOpd false f.d.index false true] }
  runOp s f.h u 1 fun fr s1 =>
    if !fr.any then .ok s1
    else if fr.g.isSeq && i == 8 then fr.fail .roleIllegal
    else if i = 1 ∧ (fr.g.longs.any (fun r => r.split == fr.sp.idx) || fr.g.late.any (fun r => r.split == fr.sp.idx)) then .error .stall
    else
      let v := fr.s.stRead fr.g fr.sp i
      .ok (fr.writes s1 3 (if pair then wrPair f.d.index v else [.s f.d.index (pairLo v)]))

/-- WRST (R204): it takes effect before the next instruction of the split issues. -/
def execWrst (f : IFmt) (s : State) : Out :=
  let i := f.imm.val
  let pair := (stPair i).getD false
  let u : Use :=
    { priv := decide (i < 0), resv := sysI f false true || (stPair i).isNone || !stWritable i
      opds := [if pair then pairOpd f.a.index true false else regOpd false f.a.index true false] }
  runOp s f.h u 1 fun fr s1 =>
    if !fr.any then .ok s1
    else if fr.g.isSeq && i == 8 then fr.fail .roleIllegal
    else
      let v := if pair then fr.readS2 1 f.a.index else mkPair (fr.readS 1 f.a.index) wzero
      match fr.g.stWrite i v with
      | none => fr.fail .reservedField
      | some _ => .ok (s1.modGroup fr.key (fun g => (g.stWrite i v).getD g))

/-! ## Traps and return -/

/-- TRAP (R207): SOFTWARE_TRAP after it executes. -/
def execTrap (f : IFmt) (s : State) : Out :=
  runOp s f.h { resv := sysI f false false } 1 fun fr s1 =>
    .ok (if fr.any then
        s1.takeTrap fr.key fr.sp.idx { cause := .softwareTrap, info := f.imm.val, epc := pcAdd fr.sp.pc 1 }
      else s1)

/-- The use of ERET: D holds its mode (R208). -/
def eretUse (f : RFmt) : Use :=
  { resv := resvPred f.h || resvReg f.a || resvReg f.b || plainR f || (f.d.index != 40 && f.d.index != 41) }

/-- ERET (R208): on at EPC, with the region state of EREGION and ECOUNT. -/
def execEret (f : RFmt) (s : State) : Out :=
  runOp s f.h (eretUse f) 1 fun fr s1 =>
    if !fr.any then .ok s1
    else if fr.g.hdepth = 0 then fr.fail .reservedField
    else
      let inside := fr.g.eregion != azero
      .ok (s1.modGroup fr.key (fun g => g.leaveHandler fr.sp.idx g.epc (if inside then some g.eregion else none)
        (if inside then some g.ecount else none)))

/-- ERET.region (R208): on at EREGION, outside, so that the `REGION.open` there raises the entry count again. -/
def execEretRegion (f : RFmt) (s : State) : Out :=
  runOp s f.h (eretUse f) 1 fun fr s1 =>
    if !fr.any then .ok s1
    else if fr.g.hdepth = 0 then fr.fail .reservedField
    else if fr.g.eregion = azero then fr.fail .regionNesting
    else .ok (s1.modGroup fr.key (fun g => g.leaveHandler fr.sp.idx g.eregion none (some g.ecount)))

/-- ZTRAP (R69): it ignores every field of its word. -/
def execZtrap (_w : Word) (s : State) : Out :=
  let h : Head := ⟨Tern.ofIndex 2 0, Tern.ofIndex 2 8, Tern.zero 1⟩
  match s.frame? h with
  | none => .fault .noExecutor
  | some fr => .next (fr.s.takeTrap fr.key fr.sp.idx (fr.trap .zeroWord))

/-- ILLEGAL_OPCODE (R67, R70): an unlisted opcode. -/
def execIllegalOpcode (_w : Word) (s : State) : Out :=
  let h : Head := ⟨Tern.ofIndex 2 0, Tern.ofIndex 2 8, Tern.zero 1⟩
  match s.frame? h with
  | none => .fault .noExecutor
  | some fr => .next (fr.s.takeTrap fr.key fr.sp.idx (fr.trap .illegalOpcode))

/-! ## Fences -/

/-- The use of FENCE (R209). -/
def fenceUse (f : IFmt) : Use :=
  { resv := sysI f false false || decide (4 < (f.imm.field 0 2).index) || decide (2 < (f.imm.field 2 2).index)
      || f.imm.trit 4 == -1 || (f.imm.field 5 3).val != 0 }

/-- Whether earlier accesses that a fence of a split waits for are outstanding: all of them for a release or with ROINV, loads and the reads
of atomics for an acquire (R210, R232). -/
def Group.fenceWaits (g : Group) (i : Nat) (rel ro : Bool) : Bool :=
  g.infl.any (fun a => a.before.contains i && !a.done && (rel || ro || a.kind.loads || a.kind.isAtomic || a.kind matches .snapshot _ _))

/-- Whether side-log entries that a fence of a split waits for have still to be replayed: all of them for a release of core scope or wider or
with ROINV, reductions for an acquire (R232, R235). -/
def State.logWaits (s : State) (key i : Nat) (rel ro acq : Bool) : Bool :=
  s.sideLog.any (fun e => e.key == key && e.before.contains i &&
    (rel || ro || (acq && (match e.op with | .reduce _ _ _ => true | _ => false))))

/-- A fence of a split (R209, R210, R235, R238): a recorded fault first; then the accesses it waits for; then what it does to
the caches. -/
def runFence (s : State) (f : IFmt) (rel acq : Bool) : Out :=
  let scope := (f.imm.field 0 2).index
  runOp s f.h (fenceUse f) 1 fun fr s1 =>
    if !fr.any then .ok s1
    else if !fr.g.faults.isEmpty then .ok (fr.s.raiseDeferred fr.key fr.sp.idx fr.sp.pc)
    else if fr.g.fenceWaits fr.sp.idx rel (f.imm.trit 4 == 1) then .error (.block fr.s)
    else if fr.s.logWaits fr.key fr.sp.idx (rel && decide (1 ≤ scope)) (f.imm.trit 4 == 1) acq then .error (.block fr.s)
    else
      let s2 := if acq && decide (2 ≤ scope) then s1.l1Clear fr.g.core false else s1
      let s3 := if f.imm.trit 4 = 1 then s2.l1Clear fr.g.core true else s2
      if rel && scope == 4 then
        let mine := fr.g.stored.filter (fun e => e.1 == fr.sp.idx)
        let clean := fun (m : FMap Bool) (t : Nat) => if (mapFind t m).isSome then mapInsert t false m else m
        let s4 : State := { s3 with l2 := mine.foldl (fun m e => clean m e.2) s3.l2 }
        .ok (s4.modGroup fr.key (fun g => { g with stored := g.stored.filter (fun e => e.1 != fr.sp.idx) }))
      else .ok s3

/-- FENCE.full (R210). -/
def execFenceFull (f : IFmt) (s : State) : Out := runFence s f true true
/-- FENCE.acq (R210). -/
def execFenceAcq (f : IFmt) (s : State) : Out := runFence s f false true
/-- FENCE.rel (R210). -/
def execFenceRel (f : IFmt) (s : State) : Out := runFence s f true false

/-! ## Waits -/

/-- The split waits (R217). -/
def Fr.hold (fr : Fr) (s : State) (w : Wait) : State := s.modSplit fr.key fr.sp.idx (fun x => { x with wait := w })

/-- The split waits at an address (R212, R213, R393). -/
def Fr.holdAt (fr : Fr) (s : State) (a : Addr) (w : Wait) : State :=
  s.modSplit fr.key fr.sp.idx (fun x => { x with wait := w, waitAt := a })

/-- Arithmetic-clock cycles of a microsecond (R9). -/
def usCycles : Nat := 2500

/-- The wait timeout of a launch in cycles; 0 is no limit (R341). -/
def State.waitLimit (s : State) (launch : Nat) : Nat :=
  match s.launch? launch with | some l => l.waitTo * usCycles | none => 0

/-- Whether a split's waiting may go on in this state of its group (R97, R217). -/
def Group.awake (g : Group) (i : Nat) : Bool :=
  g.status == .running && !g.parked && !g.holds i && (g.stepping.isNone || g.stepping == some i)

/-- A waiting split of a group, with what it waits for. -/
def State.waiter (s : State) (core slot i : Nat) : Option (Group × Split) :=
  match s.group? (gkey core slot) with
  | none => none
  | some g => match g.split? i with | some x => if g.awake i then some (g, x) else none | none => none

/-- WAITP (R211): a fault recorded on the path is raised when the wait begins. -/
def execWaitp (f : IFmt) (s : State) : Out :=
  let u : Use :=
    { resv := sysI f false true || decide (f.imm.val < 0) || decide (4 < f.imm.val), opds := [regOpd false f.a.index true false] }
  runOp s f.h u 1 fun fr s1 =>
    if !fr.any then .ok s1
    else
      let path := f.imm.val.toNat
      if fr.g.faults.any (fun d => d.path == path) then .ok (fr.s.raiseDeferred fr.key fr.sp.idx fr.sp.pc)
      else
        let bound := (fr.readS 1 f.a.index).val.toNat
        if fr.g.inflight path ≤ bound then .ok s1 else .ok (fr.hold s1 (.waitp path bound))

/-- WAITP_COMPLETE (R211). -/
def execWaitpComplete (core slot split : Nat) (s : State) : Out :=
  .next (match s.waiter core slot split with
    | some (g, x) =>
      match x.wait with
      | .waitp path bound =>
        if g.inflight path ≤ bound then s.modSplit (gkey core slot) split (fun x => { x with wait := .none }) else s
      | _ => s
    | none => s)

/-- Whether a place is one of host memory (path +3). -/
def Loc.onHost (l : Loc) : Bool := match l with | .host _ _ => true | _ => false

/-- Whether the read of a wait may be performed: every access and side-log entry that is ordered before it has been, that is those behind a
`JOIN`, acquires, writes of its own location, and stores on path +3 before a read there (R96, R231, R232, R235). -/
def State.readFree (s : State) (g : Group) (i : Nat) (locs : List Loc) : Bool :=
  let far := locs.any Loc.onHost
  g.infl.all (fun a => a.done || !(a.joined.contains i || (a.before.contains i &&
    (a.acq || (far && a.kind.writes && a.lanes.any (fun x => x.cls == 4)) || a.lanes.any (fun x => x.locs.any (fun l => locs.contains l)))))) &&
  !s.sideLog.any (fun e => e.key == g.key && (e.joined.contains i || (e.before.contains i && (e.acq || (far && e.path == 4))))) &&
  s.ownClear locs

/-- What the address of a completion counter must meet (R212). A buffer address has no page position to break (R166): check 7
refuses it. -/
def counterReq : Req :=
  { write := false, atomic := false, aligned := fun a => decide (addrPath a < 0) || (decide (pagePos a % 8 = 0) && decide (pagePos a ≤ 59040))
    users := fun _ _ => false, refuse := fun p => if p = 1 then some .atomicUnsupportedRegion else none
    refusePacked := some .atomicUnsupportedRegion }

/-- The value of a completion counter from its eight bytes (R212). -/
def counterValue (ts : List Tryte) : Nat := leNat (ts.map (fun t => (tryteByte t).getD 0#8))

/-- WAITGE (R212). -/
def execWaitge (f : RFmt) (s : State) : Out :=
  let u : Use :=
    { resv := resvPred f.h || plainR f
      opds := [pairOpd f.d.index false true, pairOpd f.a.index true false, pairOpd f.b.index true false] }
  runOp s f.h u 1 fun fr s1 =>
    if !fr.any then .ok s1
    else
      let a := fr.readS2 1 f.a.index
      let v := (fr.readS2 2 f.b.index).val
      let ag := fr.g.agent fr.sp.idx
      match laneCheck fr.s ag counterReq false [a] with
      | .fail c => fr.fail c
      | .wait s2 => .error (.block s2)
      | .ok ps =>
        match placeLocs [0, 1, 2, 3, 4, 5, 6, 7] ps with
        | none => .error (.block fr.s)
        | some locs =>
          if v < 0 ∨ 2 ^ 64 ≤ v then fr.fail .convertRange
          else if fr.s.logged fr.key fr.sp.idx a then .error (.block fr.s)
          else .ok (fr.holdAt (s1.tlbCopy ag a) a (.waitge locs v.toNat f.d.index fr.s.now 0))

/-- The scalar pair that a wait delivers (R73); index 80 discards it. -/
def Group.deliverPair (g : Group) (i d : Nat) (v : Addr) : Group :=
  if 80 ≤ d then g else (g.writeNow i (.s d (pairLo v))).writeNow i (.s (d + 1) (pairHi v))

/-- WAITGE_COMPLETE (R212): a read of the counter that finds the target ends the wait, an acquire at system scope; another
read goes on waiting. A read that fails on the way, or that this device refuses itself, traps (R165, R410, R412). -/
def execWaitgeComplete (core slot split : Nat) (s : State) : Out :=
  .next (match s.waiter core slot split with
    | some (g, x) =>
      match x.wait with
      | .waitge locs target dest since _ =>
        if !s.readFree g split locs then s
        else
          match s.ownKey g.domain false locs with
          | some k => s.askKey k
          | none =>
            match s.reachRead g.domain locs with
            | (s1, .error c) => s1.trapWaiter (gkey core slot) split 1 c
            | (_, .ok at_) =>
              match s.readLocs at_ with
              | .error _ => s
              | .ok ts =>
                let v := counterValue ts
                if target ≤ v then
                  (s.modGroup (gkey core slot) (fun g =>
                    (g.deliverPair split dest (Tern.ofInt 54 (v : Int))).modSplit split (fun x => { x with wait := .none }))).l1Clear g.core false
                else s.modSplit (gkey core slot) split (fun x => { x with wait := .waitge locs target dest since v })
      | _ => s
    | none => s)

/-- A barrier operand: a record, if one is named, must be NATIVE (R213, R278). -/
def nativeRecord (s : State) (g : Group) (recIdx : Nat) : Except Cause (Option Rec) :=
  if recIdx = 8 then .ok none
  else
    match parseRec (s.nslot g.launch) ((s.records_ g).getD recIdx []) with
    | none => .error .badRecord
    | some r => if r.enc ≠ 0 then .error .badRecord else .ok (some r)

/-- The operand of a scalar M form that names one word (R66, R213, R278). -/
def scalarWord (f : MFmt) : MemOp :=
  { vec := false, size := 3, recIdx := f.recd.index, ofs := f.ofs.val, a := f.a.index, d := f.d.index, kind := .load }

/-- The operands of a scalar M form. -/
def scalarOpds (f : MFmt) (rd wr : Bool) : List Opd :=
  [regOpd false f.d.index rd wr, if f.recd.index = 8 then pairOpd f.a.index true false else regOpd false f.a.index true false]

/-- What a tryte barrier word must meet: a word of an A buffer, own or peer (R213, R276). -/
def barrierReq (write : Bool) (ro : Bool) : Req :=
  { write := write, atomic := false, aligned := wordAligned, users := fun b _ => b == 0, bufOnly := true
    refuse := fun _ => if ro && write then some .writeProtect else none }

/-- The address that a scalar word operand names, and the three places of the word; the caller knows what the checks ask. -/
def Fr.wordPlace (fr : Fr) (f : MFmt) (rq : Bool → Req) : Except Halt (Addr × List Loc) :=
  match nativeRecord fr.s fr.g f.recd.index with
  | .error c => fr.fail c
  | .ok r =>
    let m := scalarWord f
    let (as, bounds, run) := laneAddrs r 3 (if m.recIdx = 8 then 0 else fr.recOfs m 0) (if m.recIdx = 8 then fr.addrOf m 0 else azero)
    match laneCheck fr.s (fr.g.agent fr.sp.idx) (rq (match r with | some r => !r.write | none => false)) bounds as with
    | .fail c => fr.fail c
    | .wait s2 => .error (.block s2)
    | .ok ps =>
      match placeLocs run ps with
      | none => .error (.block fr.s)
      | some locs => .ok (as.head?.getD azero, locs)

/-- BWAIT (R213). -/
def execBwait (f : MFmt) (s : State) : Out :=
  runOp s f.h { resv := resvPred f.h, opds := scalarOpds f true true } 1 fun fr s1 =>
    if !fr.any then .ok s1
    else
      match fr.wordPlace f (barrierReq false) with
      | .error h => .error h
      | .ok (a, locs) => .ok (fr.holdAt s1 a (.bwait locs ((fr.readS 0 f.d.index).trit 26) f.d.index fr.s.now wzero))

/-- The count field of a barrier word (R274). -/
def barrierCount (w : Word) : Int := (w.field 0 26).val

/-- BWAIT_COMPLETE (R213, R277): a read of the word that shows another phase or a count of 0 ends the wait, an acquire at
cluster scope; a negative count traps; another read goes on waiting. -/
def execBwaitComplete (core slot split : Nat) (s : State) : Out :=
  .next (match s.waiter core slot split with
    | some (g, x) =>
      match x.wait with
      | .bwait locs phase dest since _ =>
        if !s.readFree g split locs then s
        else match s.readLocs locs with
        | .error c => if c.delivery == .machine then s.trapWaiter (gkey core slot) split 1 c else s
        | .ok ts =>
          let w := wordOfTrytes ts
          let n := barrierCount w
          if n < 0 then
            s.trapWaiter (gkey core slot) split 1 (if n < -96 then .barrierUnderflow else (Cause.ofCode (-n).toNat).getD .barrierUnderflow)
          else if w.trit 26 ≠ phase ∨ n = 0 then
            (s.modGroup (gkey core slot) (fun g =>
              (g.writeNow split (.s dest w)).modSplit split (fun x => { x with wait := .none }))).l1Clear core false
          else s.modSplit (gkey core slot) split (fun x => { x with wait := .bwait locs phase dest since w })
      | _ => s
    | none => s)

/-- Whether a wait that began at a cycle has passed a limit in cycles (R212); 0 is no limit. -/
def State.passed (s : State) (limit since : Nat) : Bool := decide (0 < limit) && decide (since + limit < s.now)

/-- WAIT_TIMEOUT (R212, R300). -/
def execWaitTimeout (core slot split : Nat) (s : State) : Out :=
  .next (match s.waiter core slot split with
    | some (g, x) =>
      match x.wait with
      | .waitge _ _ _ since _ => if s.passed (s.waitLimit g.launch) since then s.trapWaiter (gkey core slot) split 1 .waitTimeout else s
      | .swait _ _ _ since _ => if s.passed (s.waitLimit g.launch) since then s.trapWaiter (gkey core slot) split 1 .waitTimeout else s
      | _ => s
    | none => s)

/-- BARRIER_TIMEOUT of a `BWAIT` (R213). -/
def execBarrierTimeout (core slot split : Nat) (s : State) : Out :=
  .next (match s.waiter core slot split with
    | some (g, x) =>
      match x.wait with
      | .bwait _ _ _ since _ => if s.passed (s.waitLimit g.launch) since then s.trapWaiter (gkey core slot) split 1 .barrierTimeout else s
      | _ => s
    | none => s)

/-! ## Barriers -/

/-- Splits of one group that wait at `BAR` with different numbers: the lowest-indexed waiter traps (R214). -/
def State.barMismatch (s : State) (g : Group) : Option State :=
  match g.bars with
  | n :: _ =>
    if g.bars.any (fun m => m != n) then
      match g.splits.find? (fun x => match x.wait with | .bar _ => true | _ => false) with
      | some x => some (s.trapWaiter g.key x.idx 1 .barrierMismatch)
      | none => none
    else none
  | [] => none

/-- BAR (R214, R365): a responder's traps (R291). -/
def execBar (f : IFmt) (s : State) : Out :=
  let u : Use := { vector := true, resv := sysI f false false || decide (f.imm.val < 0) || decide (8 < f.imm.val) }
  runOp s f.h u 1 fun fr s1 =>
    if !fr.any then .ok s1
    else if fr.g.resp.isSome then fr.fail .barrierMismatch
    else
      let s2 := fr.hold s1 (.bar f.imm.val.toNat)
      match s2.group? fr.key with
      | none => .ok s2
      | some g =>
        match s2.barMismatch g with
        | some s3 => .ok s3
        | none => .ok (s2.checkDeadlock g.launch g.core g.crew)

/-- Whether a group has arrived: every live split waits in the way said (R214). -/
def Group.arrived (g : Group) (p : Wait → Bool) : Bool := !g.splits.isEmpty && g.splits.all (fun x => p x.wait)

/-- Whether a group's accesses before its arrival have all been performed (R214, R235). -/
def State.settled (s : State) (g : Group) : Bool := s.quiet g

/-- The waiting splits of groups go on (R214). -/
def State.releaseAll (s : State) (gs : List Group) : State :=
  gs.foldl (fun st g => st.modGroup g.key (fun g => { g with splits := g.splits.map (fun x => { x with wait := .none }) })) s

/-- BAR_COMPLETE (R214): every group of the crew that has not ended has arrived at barrier `n`. -/
def execBarComplete (launch core crew n : Nat) (s : State) : Out :=
  .next (
    let gs := s.crewGroups launch core crew
    if !gs.isEmpty && gs.all (fun g => g.arrived (fun w => w == .bar n) && s.settled g) then s.releaseAll gs else s)

/-- The fields of RBAR's immediate (R215). -/
def rbarH (i : Tern 8) : Nat := (i.field 0 2).index
def rbarW (i : Tern 8) : Nat := (i.field 2 2).index
def rbarId (i : Tern 8) : Nat := (i.field 4 2).index

/-- The groups of a launch's saved shares (R217, R349). -/
def State.savedOf (s : State) (launch : Nat) : List Group :=
  match s.launch? launch with | some l => l.shares.flatMap (fun sh => sh.savedGroups) | none => []

/-- Whether a wait is at an `RBAR` of an ID (R215). -/
def atRbar (id : Nat) (w : Wait) : Bool := match w with | .rbar i => rbarId i == id | _ => false

/-- RBAR (R215): the group that completes its arrival with other sides than the groups already waiting traps; splits of a
group that wait with different fields trap as at `BAR`. -/
def execRbar (f : IFmt) (s : State) : Out :=
  let u : Use := { vector := true, resv := sysI f false false || (f.imm.field 6 2).val != 0 }
  runOp s f.h u 1 fun fr s1 =>
    if !fr.any then .ok s1
    else
      let sides := match fr.s.launch? fr.g.launch with | some l => (l.logw, l.logh) | none => (0, 0)
      let w := rbarW f.imm
      let h := rbarH f.imm
      if 4 < w ∨ 4 < h ∨ sides.1 < w ∨ sides.2 < h then fr.fail .rbarLevelIllegal
      else
        let others := fr.g.splits.filter (fun x => x.idx != fr.sp.idx)
        let completes := others.all (fun x => x.wait == .rbar f.imm)
        let other := fun (g : Group) => g.arrived (fun w => match w with
            | .rbar i => rbarId i == rbarId f.imm && (rbarW i != rbarW f.imm || rbarH i != rbarH f.imm)
            | _ => false)
        let clash := fr.s.groups.any (fun e => e.2.launch == fr.g.launch && e.1 != fr.key && other e.2) ||
          (fr.s.savedOf fr.g.launch).any other
        if completes && clash then fr.fail .barrierMismatch
        else
          let s2 := fr.hold s1 (.rbar f.imm)
          let mixed := others.any (fun x => match x.wait with | .rbar i => i != f.imm | _ => false)
          if mixed then
            match (fr.g.splits.filter (fun x => x.idx == fr.sp.idx || (match x.wait with | .rbar _ => true | _ => false))).head? with
            | some x => .ok (s2.trapWaiter fr.key x.idx 1 .barrierMismatch)
            | none => .ok s2
          else .ok s2

/-- The cores of the aligned sub-rectangle that contains a core (R84, R215). -/
def subRect (x y logw logh : Nat) : List Nat :=
  let x0 := x / 2 ^ logw * 2 ^ logw
  let y0 := y / 2 ^ logh * 2 ^ logh
  (List.range (2 ^ logh)).flatMap (fun j => (List.range (2 ^ logw)).map (fun i => coreOf (x0 + i) (y0 + j)))

/-- Every group of a crew that has not ended, its responders among them: only `BAR` leaves those out (R215, R216, R291; DEDUCED, log 92). -/
def State.crewMembers (s : State) (launch core crew : Nat) : List Group :=
  (s.groups.map (·.2)).filter (fun g => g.launch == launch && g.core == core && g.crew == crew && !g.isSeq && !g.isWalker)

/-- Whether a crew of a launch on a core has nothing that still has to arrive: it has ended, or all its groups have, those saved while they
wait among them (R215, R217). -/
def State.crewArrived (s : State) (l : Launch) (core crew : Nat) (p : Wait → Bool) : Bool :=
  l.crewsEnded.contains (core, crew) ||
  (l.placed.contains (core, crew) && (s.crewMembers l.id core crew).all (fun g => g.arrived p && s.settled g) &&
    l.shares.all (fun sh => sh.savedGroups.all (fun g => !(g.core == core && g.crew == crew) ||
      (g.arrived p && !sh.savedLog.any (fun e => e.key == g.key)))))

/-- Groups saved at a barrier that has completed go on once they are restored (R217). -/
def State.releaseSaved (s : State) (launch : Nat) (cores : List Nat) (p : Wait → Bool) : State :=
  let go := fun (g : Group) => if cores.contains g.core && g.arrived p then { g with splits := g.splits.map (fun x => { x with wait := .none }) } else g
  s.modLaunch launch (fun l => { l with shares := l.shares.map (fun sh => { sh with savedGroups := sh.savedGroups.map go }) })

/-- RBAR_COMPLETE (R215): every group of every crew of the sub-rectangle that has not ended has arrived with the same fields. -/
def execRbarComplete (launch x y : Nat) (imm : Tern 8) (s : State) : Out :=
  .next (match s.launch? launch with
    | none => s
    | some l =>
      let cores := subRect x y (rbarW imm) (rbarH imm)
      let p := fun (w : Wait) => w == .rbar imm
      if cores.all (fun c => (List.range l.crewsPer).all (fun k => s.crewArrived l c k p)) then
        let gs := (s.groups.map (·.2)).filter (fun g => g.launch == launch && cores.contains g.core && !g.isSeq && g.arrived p)
        if gs.isEmpty then s
        else
          let s1 := (s.releaseAll gs).releaseSaved launch cores p
          (gs.map (·.core)).eraseDups.foldl (fun st c => st.l1Clear c false) s1
      else s)

/-- The fields of XBAR's extension word (R216). -/
def xbarMembers (w : Word) : Int := (w.field 18 9).val
def xbarTimeoutUs (w : Word) : Int := (w.field 6 12).val

/-- XBAR (R216). -/
def execXbar (f : LFmt) (s : State) : Out :=
  let u : Use :=
    { vector := true
      resv := resvPred f.r.h || resvReg f.r.a || resvReg f.r.b || plainR f.r || decide (xbarMembers f.ext < 1)
        || decide (384 < xbarMembers f.ext) || decide (xbarTimeoutUs f.ext < 0) || (f.ext.field 0 6).val != 0
      opds := [regOpd false f.r.d.index false true] }
  runOp s f.r.h u 2 fun fr s1 =>
    if !fr.any then .ok s1
    else
      let gang : Bool := match fr.s.launch? fr.g.launch with | some l => l.gang.isSome | none => false
      let lost : Bool := match fr.s.launch? fr.g.launch with | some l => l.memberLost | none => false
      if 1 < xbarMembers f.ext ∧ !gang then fr.fail .barrierMismatch
      else if lost then fr.fail .xbarMemberLost
      else .ok (fr.hold s1 (.xbar (xbarMembers f.ext).toNat (xbarTimeoutUs f.ext).toNat f.r.d.index fr.s.now))

/-- Whether a wait is at an `XBAR` (R216). -/
def atXbar (w : Wait) : Bool := match w with | .xbar _ _ _ _ => true | _ => false

/-- Whether every share of a launch is on its cores, so that no absence token of this device holds an `XBAR` open (R216, R349). -/
def Launch.savedNone (l : Launch) : Bool := l.shares.all (fun sh => match sh.state with | .resident => true | .draining _ => true | _ => false)

/-- Whether a member of a launch's gang is away, this one or another: its absence token holds an `XBAR` open (R216). -/
def Launch.away (l : Launch) : Bool := !l.savedNone || !l.xbarAbsent.isEmpty

/-- XBAR_COMPLETE (R216): every group of the launch has arrived on this device, and so have `others` other members; no
proxy absence token holds the barrier open. The generation number goes to every waiting split. Where waiting splits name different
MEMBERS, no number of arrivals is the one that all of them wait for, and the barrier does not complete (DESIGN CHOICE, log 106). -/
def execXbarComplete (launch others : Nat) (s : State) : Out :=
  .next (match s.launch? launch with
    | none => s
    | some l =>
      let cores := (List.range (2 ^ l.logh)).flatMap (fun j => (List.range (2 ^ l.logw)).map (fun i => coreOf (l.x + i) (l.y + j)))
      let here := cores.all (fun c => (List.range l.crewsPer).all (fun k => s.crewArrived l c k atXbar))
      let gs := (s.groups.map (·.2)).filter (fun g => g.launch == launch && !g.isSeq && g.arrived atXbar)
      let wants := gs.flatMap (fun g => g.splits.filterMap (fun x => match x.wait with | .xbar m _ _ _ => some m | _ => none))
      if here && !gs.isEmpty && wants.all (fun m => m == others + 1) && !l.away && !l.memberLost then
        let n := l.xbarGen + 1
        let s1 := s.modLaunch launch (fun l => { l with xbarGen := n })
        gs.foldl (fun st g => (st.modGroup g.key (fun g => g.splits.foldl (fun g x => match x.wait with
          | .xbar _ _ d _ => (g.writeNow x.idx (.s d (Tern.ofInt 27 (n : Int)))).modSplit x.idx (fun x => { x with wait := .none })
          | _ => g) g)).l1Clear g.core false) s1
      else s)

/-- XBAR_TIMEOUT (R216): suspended while a member is switched out, which does not count as waiting either (`Split.tick`). -/
def execXbarTimeout (core slot split : Nat) (s : State) : Out :=
  .next (match s.waiter core slot split with
    | some (g, x) =>
      match x.wait with
      | .xbar _ t _ since =>
        let away : Bool := match s.launch? g.launch with
          | some l => l.away
          | none => false
        if !away ∧ s.passed (t * usCycles) since then s.trapWaiter (gkey core slot) split 2 .barrierTimeout else s
      | _ => s
    | none => s)

/-- The waits of a launch at an `XBAR` trap that can, a member of its gang being lost (R216). -/
def State.trapLost (s : State) (launch : Nat) : State :=
  (s.launchKeys launch).foldl (fun st k =>
    match st.group? k with
    | none => st
    | some g =>
      match g.splits.find? (fun x => atXbar x.wait && g.awake x.idx) with
      | some x => st.trapWaiter k x.idx 2 .xbarMemberLost
      | none => st) s

/-- What becomes of the waits of a launch that has lost a member: one that was halted, held or saved as the member was lost traps once it can
(R216). -/
def lostWaiters (launch : Nat) (s : State) : Out :=
  .next (match s.launch? launch with | some l => if l.memberLost then s.trapLost launch else s | none => s)

/-- XBAR_MEMBER_LOST (R216): the next `XBAR`, and one that waits, traps. -/
def execXbarMemberLost (launch : Nat) (s : State) : Out :=
  .next ((s.modLaunch launch (fun l => { l with memberLost := true })).trapLost launch)

/-! ## Translation and cache maintenance -/

/-- TLBFILL (R218): the walker fills for the domain of its miss (R372); a walk that a `TLBINV` has overtaken fills nothing
(R366). -/
def execTlbfill (f : RFmt) (s : State) : Out :=
  let u : Use :=
    { priv := true, resv := resvPred f.h || plainR f || (f.d.index != 40 && f.d.index != 41)
      opds := [pairOpd f.a.index true false, regOpd false f.b.index true false] }
  runOp s f.h u 1 fun fr s1 =>
    if !fr.any then .ok s1
    else
      let a := fr.readS2 1 f.a.index
      let pte := fr.readS 2 f.b.index
      let large := f.d.index == 41
      let fm := pteFrame pte
      if pteType pte ≠ 1 ∨ pte.trit 0 ≠ 0 ∨ pteTiling pte = -1 ∨ fm < 0 ∨ (frameCount : Int) ≤ fm ∨ (large ∧ (frameCount : Int) ≤ fm + 19682) then
        fr.fail .tableFormat
      else
        let dom := match fr.g.walk with | some m => if fr.g.domain = 0 then m.domain else fr.g.domain | none => fr.g.domain
        let page := if large then pageNum a / 19683 * 19683 else pageNum a
        let e : TlbEntry := ⟨256 + clusterOf fr.g.core, dom, page, large, pte⟩
        let hit := match fr.g.walk with | some m => e.covers m.domain (pageNum m.va) | none => false
        let s2 := if hit then s1.modGroup fr.key (fun g => { g with walkFilled := true }) else s1
        if fr.g.walkStale then .ok s2
        else
          let s3 := s2.tlbPut e
          .ok (if fr.g.isSeq then s3 else s3.tlbPut { e with unit_ := fr.g.core })

/-- Translations dropped, with the walks in progress that they overtake (R219, R366). -/
def State.tlbDrop (s : State) (p : TlbEntry → Bool) (walks : Miss → Bool) : State :=
  { s with
    tlbs := s.tlbs.filter (fun e => !p e)
    groups := s.groups.map (fun e => (e.1, match e.2.walk with
      | some m => if walks m then { e.2 with walkStale := true } else e.2
      | none => e.2)) }

/-- The use of TLBINV: D holds its mode (R219). -/
def tlbinvUse (f : RFmt) : Use :=
  { priv := true
    resv := resvPred f.h || plainR f || resvReg f.b || decide (f.d.index < 39) || decide (41 < f.d.index)
      || (f.d.index != 40 && resvReg f.a)
    opds := if f.d.index = 40 then [pairOpd f.a.index true false] else [] }

/-- The units of an agent's core and cluster (R219). -/
def Group.tlbUnits (g : Group) : List Nat := [g.core, 256 + clusterOf g.core]

/-- TLBINV (R219): one page from the core's and the cluster's TLB. -/
def execTlbinv (f : RFmt) (s : State) : Out :=
  runOp s f.h (tlbinvUse f) 1 fun fr s1 =>
    if !fr.any then .ok s1
    else
      let page := pageNum (fr.readS2 1 f.a.index)
      let units := fr.g.tlbUnits
      .ok (s1.tlbDrop (fun e => units.contains e.unit_ && e.covers fr.g.domain page)
        (fun m => m.domain == fr.g.domain && pageNum m.va == page && clusterOf m.core == clusterOf fr.g.core))

/-- TLBINV.dom (R219): every entry of the domain from every TLB of the device. -/
def execTlbinvDom (f : RFmt) (s : State) : Out :=
  runOp s f.h (tlbinvUse f) 1 fun fr s1 =>
    .ok (if fr.any then s1.tlbDrop (fun e => e.domain == fr.g.domain) (fun m => m.domain == fr.g.domain) else s1)

/-- TLBINV.all (R219): every entry of the core's and the cluster's TLB. -/
def execTlbinvAll (f : RFmt) (s : State) : Out :=
  runOp s f.h (tlbinvUse f) 1 fun fr s1 =>
    .ok (if fr.any then
        s1.tlbDrop (fun e => fr.g.tlbUnits.contains e.unit_) (fun m => clusterOf m.core == clusterOf fr.g.core)
      else s1)

/-- What `CFLUSH` asks of each lane's address (R220). -/
def cflushReq : Req := { write := false, atomic := false, aligned := fun _ => true, users := fun _ _ => false }

/-- Bytes of one element of a record's encoding, for the bounds check of `CFLUSH` (R220); a P5 element is taken as a word's. -/
def cflushSize (r : Rec) : Nat := if r.enc = 0 then 1 else encSize r.enc 27

/-- The checks of `CFLUSH` for all lanes: their places (R176, R220). -/
def cflushLanes (fr : Fr) (m : MemOp) (r : Option Rec) : List Nat → Except Halt (List Loc)
  | [] => .ok []
  | l :: t =>
    let x := fr.recOfs m l
    let (a, bad) := match r with
      | none => (fr.addrOf m l, false)
      | some r => (addrAdd r.base x, decide (x < 0) || decide (r.extent < x + (cflushSize r : Int)))
    match laneCheck fr.s (fr.g.agent fr.sp.idx) cflushReq bad [a] with
    | .fail c => fr.fail c l
    | .wait s1 => .error (.block s1)
    | .ok ps =>
      match cflushLanes fr m r t with
      | .error h => .error h
      | .ok ls => .ok ((placeLocs [0] ps).getD [] ++ ls)

/-- What the modes of `CFLUSH` do to one tile (R220): drop the L1 copies, write back, or both and drop from the slice. -/
def State.flushTile (s : State) (core tile : Nat) (l1 l2 keep : Bool) : State :=
  let s1 := if l1 then (s.l1Drop core tile false).l1Drop core tile true else s
  if !l2 then s1
  else if keep then (if (mapFind tile s1.l2).isSome then { s1 with l2 := mapInsert tile false s1.l2 } else s1)
  else { s1 with l2 := mapErase tile s1.l2, l2tags := mapErase tile s1.l2tags }

/-- CFLUSH in one of its modes (R220); it counts on GS until its write-backs are done. -/
def runCflush (s : State) (f : MFmt) (l1 l2 keep : Bool) : Out :=
  let m := mOp f true 1 .load
  let u : Use :=
    { vector := true, resv := resvPred f.h || decide (f.d.index < 40) || decide (42 < f.d.index)
      opds := [if f.recd.index = 8 then regOpd true f.a.index true false 2 2 else regOpd true f.a.index true false] }
  runOp s f.h u 1 fun fr s1 =>
    if !fr.any then .ok s1
    else
      let rr : Except Cause (Option Rec) :=
        if m.recIdx = 8 then .ok none
        else match parseRec (fr.s.nslot fr.g.launch) ((fr.s.records_ fr.g).getD m.recIdx []) with
          | none => .error .badRecord
          | some r => .ok (some r)
      match rr with
      | .error c => fr.fail c
      | .ok r =>
        match cflushLanes fr m r fr.lanes with
        | .error h => .error h
        | .ok locs =>
          if 81 ≤ fr.g.inflight 1 then .error .full
          else
            let s2 := (tilesOf locs).foldl (fun st e => st.flushTile fr.g.core (tileCoord e.1 e.2.1) l1 l2 keep) s1
            let acc : Access :=
              { seq := fr.g.nextSeq, kind := .flush, pc := fr.sp.pc, split := fr.sp.idx, before := [fr.sp.idx], joined := [], path := 1, counters := [1], lanes := []
                dest := none, killed := [], conv := none, size := 1, region := fr.sp.region, ecount := fr.sp.ecount, done := false
                acq := false, rel := false, scope := 0, events := [], hold := false, watch := none }
            .ok ((s2.chargeTiles fr.key (if l2 then (tilesOf locs).length else 0)).modGroup fr.key (fun g => { g.takeSeq with infl := g.infl ++ [acc] }))

/-- CFLUSH.l1 (R220). -/
def execCflushL1 (f : MFmt) (s : State) : Out := runCflush s f true false true
/-- CFLUSH.wb (R220). -/
def execCflushWb (f : MFmt) (s : State) : Out := runCflush s f false true true
/-- CFLUSH.inv (R220). -/
def execCflushInv (f : MFmt) (s : State) : Out := runCflush s f true true false

/-- Fetched instructions of units dropped (R221). -/
def State.icDrop (s : State) (units : List Nat) : State :=
  { s with
    icache := s.icache.filter (fun e => !units.contains (e.1 / 2 ^ 40))
    badIc := s.badIc.filter (fun e => !units.contains (e.1 / 2 ^ 40)) }

/-- The use of ICINV: D holds its mode (R221). -/
def icinvUse (f : RFmt) : Use :=
  { resv := resvPred f.h || plainR f || resvReg f.a || resvReg f.b || (f.d.index != 40 && f.d.index != 41) }

/-- ICINV (R221): the issuing core and its sequencer. -/
def execIcinv (f : RFmt) (s : State) : Out :=
  runOp s f.h (icinvUse f) 1 fun fr s1 =>
    .ok (if fr.any then s1.icDrop [fr.g.core, 256 + clusterOf fr.g.core] else s1)

/-- ICINV.rect (R221): every core and sequencer of the launch rectangle. -/
def execIcinvRect (f : RFmt) (s : State) : Out :=
  runOp s f.h (icinvUse f) 1 fun fr s1 =>
    .ok (if !fr.any then s1
      else
        match fr.s.launch? fr.g.launch with
        | none => s1.icDrop [fr.g.core, 256 + clusterOf fr.g.core]
        | some l =>
          let cores := (List.range (2 ^ l.logh)).flatMap (fun j => (List.range (2 ^ l.logw)).map (fun i => coreOf (l.x + i) (l.y + j)))
          s1.icDrop (cores ++ cores.map (fun c => 256 + clusterOf c)))

/-! ## Time, counters and observation -/

/-- SLEEP (R222). -/
def execSleep (f : IFmt) (s : State) : Out :=
  runOp s f.h { resv := sysI f false false || decide (f.imm.val < 0) } 1 fun fr s1 =>
    .ok (if fr.any then fr.hold s1 (.sleep (fr.s.now + 27 * f.imm.val.toNat)) else s1)

/-- SLEEP_END (R222). -/
def execSleepEnd (core slot split : Nat) (s : State) : Out :=
  .next (match s.waiter core slot split with
    | some (_, x) =>
      match x.wait with
      | .sleep t => if t ≤ s.now then s.modSplit (gkey core slot) split (fun x => { x with wait := .none }) else s
      | _ => s
    | none => s)

/-- The use of CLOCK: A holds its mode (R223). -/
def clockUse (f : RFmt) : Use :=
  { resv := resvPred f.h || plainR f || resvReg f.b || (f.a.index != 40 && f.a.index != 41), opds := [pairOpd f.d.index false true] }

/-- The cycle count that a core reads: two cores differ by at most 8 (R223). -/
def State.clockAt (s : State) (core : Nat) : Nat := s.now + Config.skew core % 9

/-- CLOCK (R223): arithmetic-clock cycles since reset. -/
def execClock (f : RFmt) (s : State) : Out :=
  runOp s f.h (clockUse f) 1 fun fr s1 =>
    .ok (if fr.any then fr.writes s1 0 (wrPair f.d.index (Tern.ofInt 54 (fr.s.clockAt fr.g.core : Int))) else s1)

/-- CLOCK.ns (R223): nanoseconds of the device time base. -/
def execClockNs (f : RFmt) (s : State) : Out :=
  runOp s f.h (clockUse f) 1 fun fr s1 =>
    .ok (if fr.any then fr.writes s1 0 (wrPair f.d.index (Tern.ofInt 54 ((fr.s.timeBase / 10 : Nat) : Int))) else s1)

/-- PERF (R224). -/
def execPerf (f : IFmt) (s : State) : Out :=
  let u : Use :=
    { resv := sysI f true false || decide (f.imm.val < 0) || decide (7 < f.imm.val), opds := [regOpd false f.d.index false true] }
  runOp s f.h u 1 fun fr s1 =>
    .ok (if fr.any then
        let sel := f.imm.val.toNat
        let v := if fr.g.isSeq && sel != 0 && sel != 2 && sel != 3 then 0 else fr.g.perf.getD sel 0
        fr.writes s1 0 [.s f.d.index (Tern.ofInt 27 (sat (v : Int) 27))]
      else s1)

/-- Sessions that would take a MARK, with one more drop counted (R381). -/
def State.dropMark (s : State) (launch : Nat) : State :=
  { s with sessions := s.sessions.map (fun e => if e.2.accepts s 1 launch then (e.1, { e.2 with drops := e.2.drops + 1 }) else e) }

/-- MARK (R225, R379, R381): a record to the trace stream. While the Lantern core of its die still has records to take, the
stream may be full, and the record is then dropped and counted. -/
def execMark (f : IFmt) (s : State) : Out :=
  runOp s f.h { resv := sysI f false true, opds := [regOpd false f.a.index true false] } 1 fun fr s1 =>
    if !fr.any then .ok s1
    else if !fr.s.traced 1 fr.g.launch then .ok s1
    else
      let full := fr.s.records.any (fun r => r.die == dieOf fr.g.core) && Config.pick fr.s.free % 2 == 1
      if full then .ok ((s1.dropMark fr.g.launch).modGroup fr.key (fun g => { g with markLoss := true }))
      else
        let body := signedBytes 2 f.imm.val ++ zeroBytes 6 ++ signedBytes 8 (fr.readS 1 f.a.index).val
        let hd := recHeader fr.s 1 64 fr.g.launch fr.g.markLoss (some (fr.g.core, fr.g.slot, fr.sp.idx, fr.act)) (some fr.sp.pc)
        .ok ((s1.emit 1 fr.g.launch (dieOf fr.g.core) fr.key (hd ++ body)).modGroup fr.key (fun g => { g with markLoss := false }))

/-- The use of STOP: trit 0 of IMM8 is its reach (R226). -/
def stopUse (f : IFmt) : Use := { resv := sysI f false false || f.imm.trit 0 == -1 }
/-- The code of STOP (R226). -/
def stopCode (f : IFmt) : Int := (f.imm.field 1 7).val

/-- STOP (R226): the group stops after it. -/
def execStop (f : IFmt) (s : State) : Out :=
  runOp s f.h (stopUse f) 1 fun fr s1 =>
    .ok (if fr.any then
        s1.takeTrap fr.key fr.sp.idx { cause := .haltRequest, info := stopCode f, epc := pcAdd fr.sp.pc 1 }
      else s1)

/-- STOP with reach +1 (R226, R389): the fog-bell rings for the launch. -/
def execStopLaunch (f : IFmt) (s : State) : Out :=
  runOp s f.h (stopUse f) 1 fun fr s1 =>
    .ok (if fr.any then s1.ring fr.g.launch .haltRequest (stopCode f) else s1)

end Sys2Proof.Machine
end

