-- ==== Sys2Proof/Machine/Tickets.lean ====
section
/-! DEFINITION. Tickets and mooring tables (R245 to R261), with the arrival of a job at a tryte barrier (R276). -/

namespace Sys2Proof.Machine

/-! ## Arrivals -/

/-- A tryte barrier word after an arrival that cannot trap (R276). -/
def arriveWord (w : Word) (n : Nat) : Word :=
  let c := barrierCount w
  if c < 0 then w else w.setField 0 (Tern.ofInt 26 (if (n : Int) ≤ c then c - n else -50))

/-- A tryte barrier word after the last arrival of a job that met a fault (R272). -/
def faultWord (w : Word) (code : Nat) : Word := if barrierCount w < 0 then w else w.setField 0 (Tern.ofInt 26 (-(code : Int)))

/-- A buffer word that a job finds uncorrectable: the crew that owns it raises the cause (R357). -/
def State.bufTrap (s : State) (locs : List Loc) (c : Cause) : State :=
  let owner := fun (l : Loc) => match l with
    | .buf core path i => s.crews.find? (fun x => x.core == core && !x.reserved && decide (x.base.getD path 0 ≤ i / 243 ∧ i / 243 < x.base.getD path 0 + x.tiles.getD path 0))
    | _ => none
  match locs.findSome? owner with
  | some x => s.crewTrap x.launch x.core x.idx c
  | none => s

/-- A word of a buffer changed at its places. -/
def State.mapWord (s : State) (locs : List Loc) (f : Word → Word) : State :=
  match s.readLocs locs with
  | .error c => if c.delivery == .machine then s.bufTrap locs c else s
  | .ok ts => s.writeLocs locs (trytesOfWord (f (wordOfTrytes ts)))

/-- An arrival of a job (R276). -/
def State.arriveAt (s : State) (locs : List Loc) (n : Nat) : State := s.mapWord locs (fun w => arriveWord w n)

/-- Whether a split has a store in flight to a place: a job that it issues arrives there after it (R276). -/
def Group.storing (g : Group) (split : Nat) (locs : List Loc) : Bool :=
  g.infl.any (fun a => a.split == split && !a.done && a.kind.writes && a.lanes.any (fun x => x.locs.any (fun l => locs.contains l)))

/-! ## Entries and handles -/

/-- The entries of a mooring table (R245). -/
def moorEntries : Nat := 243

/-- The key of a mooring entry. -/
def moorKey (slice entry : Nat) : Nat := 243 * slice + entry

/-- A generation advanced (R248). -/
def nextGen (g : Int) : Int := if g = 64570081 then -64570081 else if g = -1 then 1 else g + 1

/-- A ticket handle (R247). -/
def handleOf (slice entry : Nat) (gen : Int) : Word :=
  Tern.ofInt 27 (((slice : Int) - 121) * 3 ^ 22 + ((entry : Int) - 121) * 3 ^ 17 + gen)

/-- The fields of a handle (R247). -/
def handleSlice (w : Word) : Nat := (w.field 22 5).index
def handleEntry (w : Word) : Nat := (w.field 17 5).index
def handleGen (w : Word) : Int := (w.field 0 17).val

/-- The lowest FREE entry of a slice (R251). -/
def State.freeMoor (s : State) (slice : Nat) : Option Nat :=
  (List.range moorEntries).find? (fun e => match mapFind (moorKey slice e) s.moor with | some m => m.state == .free | none => true)

/-- The generation of an entry (R245). -/
def State.moorGen (s : State) (slice entry : Nat) : Int :=
  match mapFind (moorKey slice entry) s.moor with | some m => m.gen | none => 0

/-- An entry written. -/
def State.setMoor (s : State) (slice entry : Nat) (m : Moor) : State := { s with moor := mapInsert (moorKey slice entry) m s.moor }

/-- An entry freed as STALE (R246). -/
def Moor.drop (m : Moor) : Moor := { m with state := .free, gen := nextGen m.gen, end_ := .stale, red := none, locked := false }

/-- An entry reclaimed: counted in TKRECLAIM (R250, R443, R341). -/
def State.reclaim (s : State) (slice entry : Nat) (m : Moor) : State :=
  let s1 := s.setMoor slice entry m.drop
  match s1.launch? m.launch with
  | none => s1
  | some l =>
    let s2 := s1.modLaunch l.id (fun l => { l with tkReclaimed := l.tkReclaimed + 1 })
    if l.jcb = azero then s2 else (s2.jcbUpdate l 1 (fun v => Tern.ofInt 27 (sat (v.val + 1) 27))).1

/-- What the count of reclaimed entries of a launch waits for, where there is an entry to reclaim (R250, R374, R381). -/
def State.reclaimWait (s : State) (launch : Nat) : Option State :=
  if s.moor.any (fun e => e.2.launch == launch && e.2.state == .moored) then s.jcbWait launch [1] else none

/-- The entries of a launch reclaimed as it ends (R250): MOORED now, PENDING once their snapshot is complete. -/
def State.reclaimLaunch (s : State) (launch : Nat) : State :=
  s.moor.foldl (fun st e =>
    if e.2.launch != launch then st
    else match e.2.state with
      | .moored => st.reclaim (e.1 / 243) (e.1 % 243) e.2
      | .pending => st.setMoor (e.1 / 243) (e.1 % 243) { e.2 with exited := true }
      | _ => st) s

/-! ## The elected value -/

/-- The elected value of a register: the lowest active lane's, or the scalar's (R252). -/
def Fr.elect (fr : Fr) (src : Int) (r : Nat) : Word :=
  if src = -1 then fr.readV 1 r (fr.lanes.head?.getD 0) else fr.readS 1 r
/-- The elected value of a pair. -/
def Fr.electPair (fr : Fr) (src : Int) (r : Nat) : Addr :=
  if src = -1 then fr.readV2 1 r (fr.lanes.head?.getD 0) else fr.readS2 1 r

/-- What the fields of a ticket instruction's word 0 break (R252). -/
def ticketResv (f : RFmt) (d b : Bool) : Bool :=
  resvPred f.h || f.src == 1 || f.shape != 0 || f.ovf != 0 || (!d && resvReg f.d) || (!b && resvReg f.b) || reuseBad f true b

/-- The operand A of a ticket instruction: a handle, or what R66 makes of an address; only the elected lane is read (R252). -/
def ticketA (f : RFmt) (pair : Bool) : Opd :=
  { (if pair then regOpd (f.src == -1) f.a.index true false 2 2 else regOpd (f.src == -1) f.a.index true false) with elected := true }

/-! ## TKLD -/

/-- What the extension word of `TKLD` breaks (R253). -/
def tkldResv (e : Word) : Bool :=
  e.trit 16 == -1 || e.trit 15 == -1 || e.trit 14 == -1 || (e.field 0 10).val != 0
    || (if e.trit 16 = 1 then decide (4 < extScope e) else (e.field 17 2).val != 0)
    || (e.trit 14 != 1 && (e.field 10 4).val != 0)

/-- What `TKLD` asks of its addresses (R254). -/
def tkldReq (lin : Bool) : Req :=
  { write := false, atomic := false, aligned := fun a => if lin then wordAligned a else tileAligned a, users := fun _ _ => false
    refuse := fun p => if p = 3 ∨ p = 4 then some .atomicUnsupportedRegion else none, tiledOk := !lin }

/-- The tryte offsets that an address of `TKLD` stands for: a word's, or a tile's (R163). -/
def tkldRun (lin : Bool) : List Int := if lin then [-1, 0, 1] else (List.range 243).map (fun (i : Nat) => (i : Int) - 121)

/-- The address of `TKLD`, the addresses that it checks, and whether its words leave their record (R254): a record holds a word or a tile
where it holds all its trytes (DESIGN CHOICE, log 107). -/
def Fr.tkldAddrs (fr : Fr) (f : LFmt) (r : Option Rec) (lin : Bool) (n : Nat) : List Addr × Bool :=
  let ofs := extOfs f.ext
  let (x, bounds) := match r with
    | none => (addrAdd (fr.electPair f.r.src f.r.a.index) ofs, false)
    | some r =>
      let o := (fr.elect f.r.src f.r.a.index).val + ofs
      let (lo, hi) := if lin then (o - 1, o + 3 * (n : Int) - 2) else (o - 121, o + 121)
      (addrAdd r.base o, decide (lo < 0) || decide (r.extent ≤ hi))
  (if lin then (List.range n).map (fun (k : Nat) => addrAdd x (3 * (k : Int))) else [x], bounds)

/-- The splits that wait at a slice: their order, group and split (R251). -/
def State.tkWaiters (s : State) (slice : Nat) : List (Nat × Nat × Nat) :=
  s.groups.flatMap (fun e => e.2.splits.filterMap (fun x => match x.wait with
    | .tkld h q => if h = slice then some (q, e.1, x.idx) else none
    | _ => none))

/-- Trytes in threes: the places of each word. -/
def threes : List Loc → List (List Loc)
  | a :: b :: c :: t => [a, b, c] :: threes t
  | _ => []

/-- An access of a group changed. -/
def Group.modAccess (g : Group) (seq : Nat) (f : Access → Access) : Group :=
  { g with infl := updFirst (fun (a : Access) => a.seq == seq) f g.infl }

/-- The allocation of a mooring entry for an access that holds its request: the handle is written and the snapshot begins
(R246, R254). -/
def State.moorAllocate (s : State) (key slice entry : Nat) (a : Access) : State :=
  match s.group? key with
  | none => s
  | some g =>
    let gen := nextGen (s.moorGen slice entry)
    let src := threes (a.lanes.flatMap (fun x => x.locs))
    let m : Moor :=
      { state := .pending, gen := gen, end_ := .none, domain := g.domain, launch := g.launch, extent := a.size == 3, len := src.length
        data := [], poison := false, age := 0, src := src, key := key, seq := a.seq, red := none, locked := false, exited := false, bad := [] }
    let d := match a.dest with | some d => d.reg | none => 80
    (s.setMoor slice entry m).modGroup key (fun g =>
      ((g.modAccess a.seq (fun a => { a with kind := .snapshot slice entry, dest := none })).writeNow a.split (.s d (handleOf slice entry gen))).modSplit
        a.split (fun x => if x.wait matches .tkld _ _ then { x with wait := .none } else x))

/-- What `TKLD` uses. -/
def tkldUse (f : LFmt) : Use :=
  { vector := f.r.src == -1, resv := ticketResv f.r true false || tkldResv f.ext
    opds := [regOpd false f.r.d.index false true, ticketA f.r (extRec f.ext == 8)] }

/-- Words that a `TKLD` fetches (R253, R254). -/
def tkldLen (f : LFmt) (lin : Bool) : Nat := if lin then (f.ext.field 10 4).index + 1 else 81

/-- TKLD in either kind (R253 to R255). -/
def runTkld (s : State) (f : LFmt) (lin : Bool) : Out :=
  let n := tkldLen f lin
  runOp s f.r.h (tkldUse f) 2 fun fr s1 =>
    if !fr.any then .ok s1
    else
      match nativeRecord fr.s fr.g (extRec f.ext) with
      | .error c => fr.fail c
      | .ok r =>
        let (addrs, bounds) := fr.tkldAddrs f r lin n
        match laneCheck fr.s (fr.g.agent fr.sp.idx) (tkldReq lin) bounds addrs with
        | .fail c => fr.fail c
        | .wait s2 => .error (.block s2)
        | .ok ps =>
          match placeLocs (tkldRun lin) ps with
          | none => .error (.block fr.s)
          | some locs =>
            match (locs.head?).bind Loc.tile with
            | none => .error (.block fr.s)
            | some (fm, t, _) =>
              let slice := homeSlice (tileCoord fm t)
              let waiters := fr.s.tkWaiters slice
              let free := if waiters.isEmpty then fr.s.freeMoor slice else none
              if addrs.any (fun a => fr.s.logged fr.key fr.sp.idx a) then .error (.block fr.s)
              else if 81 ≤ fr.g.inflight 0 then .error .full
              else if free.isNone && f.ext.trit 15 == 1 then .ok (fr.writes s1 0 [.s f.r.d.index wzero])
              else
                let a0 := addrs.head?.getD azero
                let la := laneAcc fr.g.isSeq 0 a0 ps locs [] azero azero true
                let acc : Access :=
                  { seq := fr.g.nextSeq, kind := .snapshot slice moorEntries, pc := fr.sp.pc, split := fr.sp.idx, before := [fr.sp.idx], joined := [], path := 0
                    counters := [0], lanes := [{ la with cls := 0 }], dest := some { vec := false, reg := f.r.d.index, words := 1 }, killed := []
                    conv := none, size := if lin then 3 else 243, region := fr.sp.region, ecount := fr.sp.ecount, done := false
                    acq := f.ext.trit 16 == 1, rel := false, scope := extScope f.ext, events := [], hold := false, watch := none }
                let s2 := addrs.foldl (fun st a => st.tlbCopy (fr.g.agent fr.sp.idx) a) s1
                let s3 := s2.modGroup fr.key (fun g => { (g.kill fr.sp.idx false f.r.d.index allLanes).takeSeq with infl := (g.kill fr.sp.idx false f.r.d.index allLanes).infl ++ [acc] })
                match free with
                | some e => .ok (s3.moorAllocate fr.key slice e acc)
                | none =>
                  let seq := waiters.foldl (fun m w => max m (w.1 + 1)) 0
                  .ok (fr.hold s3 (.tkld slice seq))

/-- TKLD (R254): a tile. -/
def execTkld (f : LFmt) (s : State) : Out := runTkld s f false
/-- TKLD.lin (R254): an extent of words. -/
def execTkldLin (f : LFmt) (s : State) : Out := runTkld s f true

/-- TKLD_WAIT_ALLOCATE (R251): the first waiter of a slice takes its lowest FREE entry. -/
def execTkldWaitAllocate (slice : Nat) (s : State) : Out :=
  .next (
    let ws := s.tkWaiters slice
    match s.freeMoor slice, ws.find? (fun w => ws.all (fun v => decide (w.1 ≤ v.1))) with
    | some e, some (_, key, i) =>
      match s.group? key with
      | none => s
      | some g =>
        match g.infl.find? (fun a => a.split == i && a.kind == .snapshot slice moorEntries) with
        | none => s
        | some a => s.moorAllocate key slice e a
    | _, _ => s)

/-! ## Snapshots -/

/-- The accesses in flight that fetch for an entry: group key and access (R255). -/
def State.snapshots (s : State) (slice entry : Nat) : List (Nat × Access) :=
  s.groups.flatMap (fun e => (e.2.infl.filter (fun a => a.kind == .snapshot slice entry && !a.done)).map (fun a => (e.1, a)))

/-- The words of a snapshot and whether it is poisoned (R255): data that cannot be read is taken as zeros. -/
def State.snapshotData (s : State) (src : List (List Loc)) : List Word × Bool :=
  let ws := src.map (fun ls => (s.readLocs ls, ls.any (fun l => s.locPoisoned l)))
  (ws.map (fun e => match e.1 with | .ok ts => wordOfTrytes ts | .error _ => wzero),
   ws.any (fun e => e.2 || (match e.1 with | .ok _ => false | .error _ => true)))

/-- The fetch of an access has returned: its counter falls, its tiles are charged to its issuer (R399), the core keeps no copy older than the
snapshot (R233, R244), and an acquire takes effect (R255). -/
def State.endSnapshot (s : State) (key : Nat) (a : Access) : State :=
  let s1 := a.lanes.foldl (fun st la => (tilesOf la.locs).foldl (fun st e =>
    let c := tileCoord e.1 e.2.1
    ((if la.l2 then st.l2Put c false none else st).l1Drop (key / 256) c false).chargeTiles key 1) st) s
  let s2 := if a.acq && decide (2 ≤ a.scope) then s1.l1Clear (key / 256) false else s1
  s2.modGroup key (fun g => g.finish a)

/-- The split that waits for a redemption of an entry to be accepted (R256). -/
def Group.redeemer (g : Group) (slice entry : Nat) : Option Split := g.splits.find? (fun x => x.wait == .redeem slice entry)

/-- The group of a redemption, and the length of its instruction. -/
def Redemption.key : Redemption → Nat
  | .regs k _ _ _ => k
  | .buffer k _ _ => k
def Redemption.words : Redemption → Nat
  | .regs _ _ _ _ => 1
  | .buffer _ _ _ => 2

/-- A locked redemption refused at check 6: its delivery no longer counts, and its split traps (R246, R256). A split that is held, halted or
parked stands at its instruction again, and meets the same check when it goes on (R97, R366). -/
def State.refuseLocked (s : State) (slice entry : Nat) (r : Redemption) : State :=
  let s1 := match r with
    | .regs k seq _ _ => s.modGroup k (fun g => { g with infl := g.infl.filter (fun a => a.seq != seq) })
    | .buffer _ _ _ => s
  match s1.group? r.key with
  | none => s1
  | some g => match g.redeemer slice entry with
    | none => s1
    | some x =>
      if g.awake x.idx then s1.trapWaiter r.key x.idx r.words .poisonedData
      else s1.modSplit r.key x.idx (fun x => { x with pc := pcAdd x.pc (-(r.words : Int)), wait := .none })

/-- The registers beyond the first that a delivery of `n` words covers (R257). -/
def redeemSpan (n : Nat) : Nat := (n - 1) / 32

/-- Results that accesses of split `i` older than `seq` have still to deliver no longer write the registers that a delivery of `n` words
from `reg` covers (R74, R257). -/
def Group.killForDelivery (g : Group) (i seq reg n : Nat) (mask : BitVec 32) : Group :=
  if 80 ≤ reg then g
  else
    let rest := maskOf (fun l => decide (n - 32 * redeemSpan n ≤ l))
    let g1 := (List.range (redeemSpan n + 1)).foldl (fun g j => g.kill i true (reg + j) (if j = redeemSpan n then mask &&& ~~~ rest else mask)) g
    { g1 with infl := (g.infl.zip g1.infl).map (fun e => if e.1.seq < seq then e.2 else e.1) }

/-- What acceptance of a redemption of `n` words does for its group: older results of a delivery's registers are dropped (R74), and the
redeemer is charged for the tile (R399). -/
def State.acceptFor (s : State) (r : Redemption) (i n : Nat) : State :=
  (match r with
  | .regs k seq reg mask => s.modGroup k (fun g => g.killForDelivery i seq reg n mask)
  | .buffer _ _ _ => s).chargeTiles r.key 1

/-- A locked redemption accepted: its split goes on (R256). -/
def State.acceptLocked (s : State) (slice entry n : Nat) (r : Redemption) : State :=
  match s.group? r.key with
  | none => s
  | some g => match g.redeemer slice entry with
    | none => s
    | some x => (s.acceptFor r x.idx n).modSplit r.key x.idx (fun x => { x with wait := .none })

/-- The snapshot of an entry's current allocation is complete (R246). -/
def State.moorComplete (s : State) (slice entry : Nat) (m : Moor) : State :=
  let (data, poison) := s.snapshotData m.src
  let m1 := { m with data := data, poison := poison, age := 0, src := [] }
  match m.state with
  | .pending => if m.exited then s.reclaim slice entry m1 else s.setMoor slice entry { m1 with state := .moored }
  | .redeeming =>
    match m.red with
    | none => s
    | some r =>
      if poison then (s.setMoor slice entry { m1 with state := .moored, red := none, locked := false }).refuseLocked slice entry r
      else (s.setMoor slice entry { m1 with locked := false }).acceptLocked slice entry m.len r
  | _ => s

/-- A snapshot that ends in a reclamation waits for the key of the count (R250, R374). -/
def State.moorKeyed (s : State) (m : Moor) (f : State → State) : State :=
  if m.exited && m.state == .pending then
    match s.jcbWait m.launch [1] with | some s1 => s1 | none => f s
  else f s

/-- TICKET_SNAPSHOT_COMPLETE (R246, R255): the fetch of a dropped allocation is discarded; the current one fills the entry. -/
def execTicketSnapshotComplete (slice entry : Nat) (s : State) : Out :=
  .next (
    let snaps := s.snapshots slice entry
    let current : Option Moor := match mapFind (moorKey slice entry) s.moor with
      | some m => if m.state == .pending || (m.state == .redeeming && m.locked) then some m else none
      | none => none
    let isCurrent := fun (e : Nat × Access) => match current with | some m => m.key == e.1 && m.seq == e.2.seq | none => false
    let ready := fun (e : Nat × Access) => match s.group? e.1 with | some g => s.mayReturn g e.2 | none => false
    match snaps.find? (fun e => !isCurrent e && ready e) with
    | some (k, a) => s.endSnapshot k a
    | none =>
      match current with
      | none => s
      | some m =>
        match snaps.find? isCurrent with
        | some (k, a) => if ready (k, a) then (s.moorKeyed m (fun st => (st.moorComplete slice entry m).endSnapshot k a)) else s
        | none => s.moorKeyed m (fun st => st.moorComplete slice entry m))

/-! ## Redemption -/

/-- What the first checks of R256 find for a handle. -/
inductive TkLook where
  /-- check 1 -/
  | malformed
  /-- check 2 -/
  | foreign
  /-- check 3, and an entry freed as STALE whose generation a handle names -/
  | stale
  | entry (m : Moor)
deriving DecidableEq, Repr

/-- Checks 1 to 3 of R256. -/
def State.tkLook (s : State) (domain : Nat) (w : Word) : TkLook :=
  if handleGen w = 0 ∨ 127 < handleSlice w then .malformed
  else
    match mapFind (moorKey (handleSlice w) (handleEntry w)) s.moor with
    | none => .stale
    | some m =>
      if !(m.state == .free && m.end_ == .none) && m.domain != domain then .foreign
      else if m.gen ≠ handleGen w then .stale
      else if m.state == .free && m.end_ != .redeemed then .stale
      else .entry m

/-- Checks 1 to 4 of R256: the entry, or the cause. -/
def State.redeemable (s : State) (domain : Nat) (w : Word) : Except Cause Moor :=
  match s.tkLook domain w with
  | .malformed => .error .staleTicket
  | .stale => .error .staleTicket
  | .foreign => .error .ticketForeign
  | .entry m => if m.state == .redeeming || m.state == .free then .error .ticketRedeemed else .ok m

/-- What `REDEEM` uses. -/
def redeemUse (f : RFmt) : Use :=
  { vector := true, resv := ticketResv f true false, opds := [regOpd true f.d.index false true, ticketA f false] }

/-- REDEEM (R256, R257). -/
def execRedeem (f : RFmt) (s : State) : Out :=
  runOp s f.h (redeemUse f) 1 fun fr s1 =>
    if !fr.any then .ok s1
    else
      let w := fr.elect f.src f.a.index
      let d := f.d.index
      if 81 ≤ fr.g.inflight 0 then .error .full
      else
        match fr.s.redeemable fr.g.domain w with
        | .error c => fr.fail c
        | .ok m =>
          let top := d + redeemSpan m.len
          if d < 80 ∧ (79 < top ∨ fr.g.nv ≤ top) then fr.fail .ticketShape
          else if m.state = .moored ∧ m.poison then fr.fail .poisonedData
          else
            let slice := handleSlice w
            let entry := handleEntry w
            let rest := maskOf (fun l => decide (m.len - 32 * redeemSpan m.len ≤ l))
            let acc : Access :=
              { seq := fr.g.nextSeq, kind := .delivery slice entry, pc := fr.sp.pc, split := fr.sp.idx, before := [fr.sp.idx], joined := []
                path := 0, counters := [0], lanes := fr.lanes.map (fun l => laneAcc true l azero [] [] [] azero azero true)
                dest := if d < 80 then some { vec := true, reg := d, words := redeemSpan m.len + 1 } else none
                killed := [(top, rest)], conv := none, size := 3, region := fr.sp.region, ecount := fr.sp.ecount, done := false
                acq := false, rel := false, scope := 0, events := [], hold := false, watch := none }
            let locked : Bool := m.state == .pending
            let red : Redemption := .regs fr.key fr.g.nextSeq d fr.act
            let s2 := s1.setMoor slice entry { m with state := .redeeming, red := some red, locked := locked }
            let s3 := s2.modGroup fr.key (fun g => { g.takeSeq with infl := g.infl ++ [acc] })
            .ok (if locked then fr.hold s3 (.redeem slice entry) else s3.acceptFor red fr.sp.idx m.len)

/-- What the target and the barrier of `REDEEMB` must meet (R258). -/
def redeembReq (barrier : Bool) : Req :=
  { write := true, atomic := false, aligned := wordAligned, users := fun b _ => b == 0 || (!barrier && b == 1), bufOnly := true }

/-- The checks of R176 for two buffer addresses of one instruction: the first failing check of either. -/
def bufPairCheck (s : State) (ag : Agent) (r1 : Req) (a1 : Addr) (r2 : Req) (a2 : Addr) : Option Cause :=
  (minCheck (earlyCheck s ag r1 false a1) (earlyCheck s ag r2 false a2)).map (·.2)

/-- The place of a buffer address's tryte at an offset; the checks have passed. -/
def bufLoc (s : State) (ag : Agent) (a : Addr) (d : Int) : Loc :=
  match lateCheck s ag (redeembReq false) a with
  | .at_ mk _ _ => mk d
  | _ => .buf 0 0 0

/-- The first tryte offset of a ticket's words from its target (R258). -/
def Moor.firstOfs (m : Moor) : Int := if m.extent then -1 else -121

/-- What `REDEEMB` uses. -/
def redeembUse (f : LFmt) : Use :=
  { vector := f.r.src == -1
    resv := resvPred f.r.h || f.r.src == 1 || f.r.shape != 0 || f.r.ovf != 0 || reuseBad f.r true true || (f.ext.field 0 15).val != 0
    opds := [pairOpd f.r.d.index true false, ticketA f.r false, pairOpd f.r.b.index true false] }

/-- REDEEMB (R256, R258). -/
def execRedeemb (f : LFmt) (s : State) : Out :=
  runOp s f.r.h (redeembUse f) 2 fun fr s1 =>
    if !fr.any then .ok s1
    else
      let w := fr.elect f.r.src f.r.a.index
      let target := addrAdd (fr.readS2 2 f.r.b.index) (f.ext.field 21 6).val
      let barrier := addrAdd (fr.readS2 0 f.r.d.index) (f.ext.field 15 6).val
      let ag := fr.g.agent fr.sp.idx
      match bufPairCheck fr.s ag (redeembReq false) target (redeembReq true) barrier with
      | some c => fr.fail c
      | none =>
        let blocs := [-1, 0, 1].map (bufLoc fr.s ag barrier)
        if fr.g.storing fr.sp.idx blocs then .error (.block fr.s)
        else
          match fr.s.redeemable fr.g.domain w with
          | .error c => fr.fail c
          | .ok m =>
            let path := (bufPath (addrPath target)).getD 0
            let last := (bufPos target : Int) + m.firstOfs + 3 * (m.len : Int) - 1
            if !m.extent && !tileAligned target then fr.fail .ticketShape
            else if (bufLimit fr.s ag path target : Int) ≤ last then fr.fail .bufferBounds
            else if m.state = .moored ∧ m.poison then fr.fail .poisonedData
            else
              let slice := handleSlice w
              let entry := handleEntry w
              let locs := (List.range (3 * m.len)).map (fun (i : Nat) => bufLoc fr.s ag target (m.firstOfs + (i : Int)))
              let locked : Bool := m.state == .pending
              let red : Redemption := .buffer fr.key locs blocs
              let s2 := s1.setMoor slice entry { m with state := .redeeming, red := some red, locked := locked }
              .ok (if locked then fr.hold s2 (.redeem slice entry) else s2.acceptFor red fr.sp.idx m.len)

/-- The words of an entry by lane, as a delivery into registers takes them (R257). -/
def Moor.laneWords (m : Moor) (mask : BitVec 32) : List (Nat × List Word) :=
  (lanesOf mask).map (fun l => (l, (List.range (redeemSpan m.len + 1)).map (fun i => m.data.getD (32 * i + l) wzero)))

/-- Whether a redemption, accepted or locked, writes places of a crew's buffers or arrives there, whatever has become of its issuer (R258). -/
def Redemption.into (r : Redemption) (c : Crew) : Bool :=
  match r with
  | .regs _ _ _ _ => false
  | .buffer _ target barrier => (target ++ barrier).any (fun l => match l with
      | .buf core path i => core == c.core && decide (c.base.getD path 0 ≤ i / 243 ∧ i / 243 < c.base.getD path 0 + c.tiles.getD path 0)
      | _ => false)

/-- Whether a delivery into a crew's buffers is accepted, or locked, and not complete (R258, R344, R349). -/
def State.deliveringInto (s : State) (c : Crew) : Bool :=
  s.moor.any (fun e => e.2.state == .redeeming && (match e.2.red with | some r => r.into c | none => false))

/-- The tiles of a buffer that places lie in: core, path and tile. -/
def bufTiles (locs : List Loc) : List (Nat × Nat × Nat) :=
  (locs.filterMap (fun l => match l with | .buf c p i => some (c, p, i / 243) | _ => none)).eraseDups

/-- A tile's type tag set; 0 is NONE (R313). -/
def State.setTag (s : State) (core path tile : Nat) (t : Int) : State := { s with tags := mapSet 0 s.tags (tagKey core path tile) t }

/-- TICKET_DELIVERY_COMPLETE (R257, R258): the words are written; a delivery into a buffer sets its tiles' tags to NONE and
arrives at its barrier. Its words are written in one event with the arrival (DESIGN CHOICE, log 100). -/
def execTicketDeliveryComplete (slice entry : Nat) (s : State) : Out :=
  .next (match mapFind (moorKey slice entry) s.moor with
    | none => s
    | some m =>
      if m.state ≠ .redeeming ∨ m.locked then s
      else
        match m.red with
        | none => s
        | some r =>
          let s1 := s.setMoor slice entry { m with state := .free, end_ := .redeemed, red := none, data := [] }
          match r with
          | .regs key seq _ mask =>
            (match s1.group? key with
            | none => s1
            | some g =>
              match g.infl.find? (fun a => a.seq == seq && a.kind == .delivery slice entry) with
              | none => s1
              | some a => s1.modGroup key (fun g => (g.deliverLoad a (m.laneWords mask)).finish a))
          | .buffer _ target barrier =>
            let s2 := s1.writeLocs target (m.data.flatMap trytesOfWord)
            let s3 := (bufTiles target).foldl (fun st e => st.setTag e.1 e.2.1 e.2.2 0) s2
            s3.arriveAt barrier (3 * m.len))

/-! ## TKDROP, TKQ and age -/

/-- What `TKDROP` uses. -/
def tkdropUse (f : RFmt) : Use := { vector := f.src == -1, resv := ticketResv f false false, opds := [ticketA f false] }

/-- TKDROP (R259). -/
def execTkdrop (f : RFmt) (s : State) : Out :=
  runOp s f.h (tkdropUse f) 1 fun fr s1 =>
    if !fr.any then .ok s1
    else
      let w := fr.elect f.src f.a.index
      match fr.s.tkLook fr.g.domain w with
      | .foreign => fr.fail .ticketForeign
      | .entry m =>
        .ok (if m.state == .pending || m.state == .moored then s1.setMoor (handleSlice w) (handleEntry w) { m.drop with data := [] } else s1)
      | _ => .ok s1

/-- The STATE field of a `TKQ` result for an entry that its handle matches (R260). -/
def Moor.report (m : Moor) : Int :=
  match m.state with
  | .pending => 1
  | .moored => 2
  | .redeeming => 3
  | .free => -1

/-- The word that `TKQ` writes (R260). -/
def tkqWord (w : Word) (k : TkLook) : Word :=
  match k with
  | .entry m => Tern.ofInt 27 (m.report + 27 * (if m.state = .moored then sat (m.age : Int) 24 else 0))
  | _ => if w = wzero then wzero else Tern.ofInt 27 (-2)

/-- What `TKQ` uses. -/
def tkqUse (f : RFmt) : Use :=
  { vector := f.src == -1, resv := ticketResv f true false, opds := [regOpd false f.d.index false true, ticketA f false] }

/-- TKQ (R260). -/
def execTkq (f : RFmt) (s : State) : Out :=
  runOp s f.h (tkqUse f) 1 fun fr s1 =>
    if !fr.any then .ok s1
    else
      let w := fr.elect f.src f.a.index
      match fr.s.tkLook fr.g.domain w with
      | .foreign => fr.fail .ticketForeign
      | k => .ok (fr.writes s1 0 [.s f.d.index (tkqWord w k)])

/-- Whether a launch has a crew resident and is not halted, so that its tickets age (R250). -/
def State.ageing (s : State) (launch : Nat) : Bool :=
  match s.launch? launch with
  | none => false
  | some l => l.halted.isNone && s.crews.any (fun c => c.launch == launch)

/-- A microsecond passes for every MOORED entry (R250). -/
def State.ageTickets (s : State) : State :=
  { s with moor := s.moor.map (fun (e : Nat × Moor) =>
      (e.1, if e.2.state == .moored && s.ageing e.2.launch then { e.2 with age := e.2.age + 1 } else e.2)) }

/-- TICKET_AGE_EXPIRY (R250): a MOORED entry older than its launch allows is reclaimed. -/
def execTicketAgeExpiry (slice entry : Nat) (s : State) : Out :=
  .next (match mapFind (moorKey slice entry) s.moor with
    | none => s
    | some m =>
      match s.launch? m.launch with
      | none => s
      | some l =>
        if m.state = .moored ∧ 0 < l.tkAge ∧ l.tkAge < m.age then
          match s.jcbWait m.launch [1] with | some s1 => s1 | none => s.reclaim slice entry m
        else s)

end Sys2Proof.Machine
end

