-- ==== Sys2Proof/Machine/Directory.lean ====
section
/-! DEFINITION. Tile directories and their events (R282 to R285, R301 to R303). -/

namespace Sys2Proof.Machine

/-- Entries of a directory (R282). -/
def dirEntries : Nat := 243

/-- The entry of a tile address whose state meets a test, with its key (R282, R283). -/
def State.dirAt? (s : State) (a : DirAt) (p : DirState → Bool) : Option (Nat × DirEntry) :=
  s.dir.find? (fun e => e.1 / dirEntries == a.core && e.2.launch == a.launch && e.2.crew == a.crew && e.2.buf == a.buf
    && e.2.pos == a.pos && p e.2.state)
/-- The LIVE entry of a tile address. -/
def State.dirLive? (s : State) (a : DirAt) : Option (Nat × DirEntry) := s.dirAt? a (fun t => t == .live)

/-- A FREE entry of a core's directory; which of several is taken is left open (R282). -/
def State.dirFree? (s : State) (core : Nat) : Option Nat :=
  let free := (List.range dirEntries).filter (fun i => (mapFind (dirEntries * core + i) s.dir).isNone)
  free[Config.pick s.free % free.length]?.map (fun i => dirEntries * core + i)

/-- Whether the LIVE entry of a tile address is pinned (R283). -/
def State.dirPinned (s : State) (a : DirAt) : Bool := match s.dirLive? a with | some (_, e) => decide (0 < e.pins) | none => false

/-- The security domain of a launch (R199). -/
def State.domainOf (s : State) (launch : Nat) : Nat := match s.launch? launch with | some l => l.domain | none => 0

/-- A tile entered into the directory: its LIVE entry is replaced, or a FREE entry becomes LIVE (R283, R301). -/
def State.publishNow (s : State) (a : DirAt) (tensor : Word) (row col : Int) : Except Cause State :=
  match s.dirLive? a with
  | some (k, e) => .ok { s with dir := mapInsert k { e with tensor := tensor, trow := row, tcol := col } s.dir }
  | none =>
    match s.dirFree? a.core with
    | none => .error .solicitLimit
    | some k =>
      let e : DirEntry :=
        { state := .live, pins := 0, tensor := tensor, trow := row, tcol := col, buf := a.buf, pos := a.pos, launch := a.launch
          crew := a.crew, domain := s.domainOf a.launch, peer := none }
      .ok { s with dir := mapInsert k e s.dir, free := s.free + 1 }

/-- Whether a split's earlier accesses are all performed, side-log entries included, as a release of core scope or wider
asks (R232, R235, R295). -/
def Fr.drained (fr : Fr) : Bool :=
  !fr.g.fenceWaits fr.sp.idx true false && !fr.s.logWaits fr.key fr.sp.idx true false false

/-- What a tile address of an instruction of this class must meet (R301, R304). -/
def tileReq (own : Bool) (write : Bool) : Req :=
  { write := write, atomic := false, aligned := tileAligned, users := fun b o => (b == 0 || b == 1) && (!own || o), bufOnly := true }

/-- The checks of R176 for a buffer address: the cause, or nothing. -/
def bufCheck (s : State) (ag : Agent) (r : Req) (a : Addr) : Option Cause := (earlyCheck s ag r false a).map (·.2)

/-- The directory address of a tile address of an agent. -/
def Agent.dirAt (ag : Agent) (a : Addr) : DirAt :=
  { core := ag.bufCore a, launch := ag.launch, crew := ag.crew, buf := (bufPath (addrPath a)).getD 0, pos := bufPos a }

/-- Reserved fields of a block +4 word 0 (R296). -/
def solicitResv (f : RFmt) (d b : Bool) : Bool := resvPred f.h || plainR f || (!d && resvReg f.d) || (!b && resvReg f.b)

/-- The row and the column of a coordinate word (R296). -/
def coordRow (w : Word) : Int := (w.field 14 13).val
def coordCol (w : Word) : Int := (w.field 1 13).val
/-- A coordinate word. -/
def coordWord (row col : Int) : Word := Tern.ofInt 27 (row * 3 ^ 14 + col * 3)

/-- The MATCH word of an entry (R290). -/
def DirEntry.matchWord (e : DirEntry) : Word := Tern.ofInt 27 ((e.pos : Int) + (if e.buf = 1 then 3 ^ 26 else 0))

/-- Whether an entry is pinned by a responder's own census (R302, R304). -/
def Group.pinsOwn (g : Group) (k : Nat) : Bool := match g.resp with | some r => !r.replied && r.hits.contains k | none => false

/-- A split goes on after a wait. -/
def State.goOn (s : State) (key i : Nat) : State := s.modSplit key i (fun x => { x with wait := .none })

/-- What `PUBLISH` uses. -/
def publishUse (f : LFmt) : Use :=
  { resv := solicitResv f.r true true || (f.ext.field 0 9).val != 0
    opds := [regOpd false f.r.d.index true false, pairOpd f.r.a.index true false, regOpd false f.r.b.index true false] }

/-- PUBLISH (R301). -/
def execPublish (f : LFmt) (s : State) : Out :=
  runOp s f.r.h (publishUse f) 2 fun fr s1 =>
    if !fr.any then .ok s1
    else if fr.g.isSeq then fr.fail .bufferPathForbidden
    else
      let a := fr.readS2 1 f.r.a.index
      let ag := fr.g.agent fr.sp.idx
      match bufCheck fr.s ag (tileReq true false) a with
      | some c => fr.fail c
      | none =>
        let w := fr.readS 0 f.r.d.index
        let tensor := fr.readS 2 f.r.b.index
        let row := coordRow w + (f.ext.field 18 9).val
        let col := coordCol w + (f.ext.field 9 9).val
        if tensor.val ≤ 0 ∨ row < 0 ∨ col < 0 ∨ w.trit 0 ≠ 0 then fr.fail .solicitKeyInvalid
        else if !fr.drained then .error (.block fr.s)
        else
          let at_ := ag.dirAt a
          if fr.s.dirPinned at_ then .ok (fr.hold s1 (.pins (.publish at_ tensor row col)))
          else match s1.publishNow at_ tensor row col with
            | .error c => fr.fail c
            | .ok s2 => .ok s2

/-- Whether a `WITHDRAW` is delayed: an entry in migration, or a pinned one (R302). -/
def State.withdrawDelayed (s : State) (a : DirAt) : Bool := (s.dirAt? a (fun t => t != .live)).isSome || s.dirPinned a

/-- A `WITHDRAW` takes effect: its result, and the directory (R302). -/
def State.withdrawNow (s : State) (a : DirAt) : Word × State :=
  match s.dirLive? a with
  | some (k, _) => (Tern.ofInt 27 1, { s with dir := mapErase k s.dir })
  | none => (wzero, s)

/-- What `WITHDRAW` uses. -/
def withdrawUse (f : RFmt) : Use :=
  { resv := solicitResv f true false, opds := [regOpd false f.d.index false true, pairOpd f.a.index true false] }

/-- WITHDRAW (R302). -/
def execWithdraw (f : RFmt) (s : State) : Out :=
  runOp s f.h (withdrawUse f) 1 fun fr s1 =>
    if !fr.any then .ok s1
    else if fr.g.isSeq then fr.fail .bufferPathForbidden
    else
      let a := fr.readS2 1 f.a.index
      let ag := fr.g.agent fr.sp.idx
      match bufCheck fr.s ag (tileReq true false) a with
      | some c => fr.fail c
      | none =>
        let at_ := ag.dirAt a
        let own := match fr.s.dirLive? at_ with | some (k, _) => fr.g.pinsOwn k | none => false
        if own then fr.fail .solicitKeyInvalid
        else if !fr.drained then .error (.block fr.s)
        else if fr.s.withdrawDelayed at_ then .ok (fr.hold s1 (.pins (.withdraw at_ f.d.index)))
        else
          let (w, s2) := s1.withdrawNow at_
          .ok (fr.writes s2 0 [.s f.d.index w])

/-- DIRECTORY_UNPINNED_UPDATE (R283): a delayed `PUBLISH` or `WITHDRAW` takes effect. -/
def execDirectoryUnpinnedUpdate (core slot split : Nat) (s : State) : Out :=
  .next (match s.waiter core slot split with
    | some (_, x) =>
      let key := gkey core slot
      match x.wait with
      | .pins (.publish a tensor row col) =>
        if s.dirPinned a then s
        else (match s.publishNow a tensor row col with
          | .error c => s.trapWaiter key split 2 c
          | .ok s1 => s1.goOn key split)
      | .pins (.withdraw a d) =>
        if s.withdrawDelayed a then s
        else
          let (w, s1) := s.withdrawNow a
          (s1.goOn key split).modGroup key (fun g => g.writeNow split (.s d w))
      | _ => s
    | none => s)

/-- What `SQRY` uses. -/
def sqryUse (f : RFmt) : Use :=
  { resv := solicitResv f true false, opds := [pairOpd f.d.index false true, regOpd false f.a.index true false] }

/-- SQRY (R303). -/
def execSqry (f : RFmt) (s : State) : Out :=
  runOp s f.h (sqryUse f) 1 fun fr s1 =>
    if !fr.any then .ok s1
    else
      match fr.g.resp with
      | none => fr.fail .solicitKeyInvalid
      | some r =>
        let k := (fr.readS 1 f.a.index).val
        let e := if k < 0 then none else (r.hits[k.toNat]?).bind (fun i => mapFind i fr.s.dir)
        .ok (fr.writes s1 0 (wrPair f.d.index (match e with
          | some e => mkPair e.matchWord (coordWord e.trow e.tcol)
          | none => azero)))

end Sys2Proof.Machine
end

