-- ==== Sys2Proof/Machine/Translate.lean ====
section
/-! DEFINITION. The translation service: the walker (R371 to R373) and the memory-management processor (R374, R377). -/

namespace Sys2Proof.Machine

/-- The first miss that waits at a core (R371). -/
def State.firstMiss (s : State) (core : Nat) : Option Miss := s.misses.find? (fun m => m.core == core)

/-- The misses of a walk's page answered, and held ones admitted to the queue (R371). -/
def State.answerMisses (s : State) (m : Miss) : State × List Miss :=
  ({ s with misses := s.misses.filter (fun x => !x.same m) }.admitMisses m.core s.heldMisses.length, s.misses.filter (fun x => x.same m))

/-- A leaf installed in the cluster TLB and the core's L1 TLB (R218). -/
def State.fillLeaf (s : State) (core domain page : Nat) (large : Bool) (pte : Word) : State :=
  let p := if large then page / 19683 * 19683 else page
  (s.tlbPut ⟨256 + clusterOf core, domain, p, large, pte⟩).tlbPut ⟨core, domain, p, large, pte⟩

/-- The walk that the shipped firmware makes, with its outcome (R372, R373): its loads go through its core's caches, and a fault of one of
them ends the walk as any fault of the walker does. -/
def State.shippedWalk (s0 : State) (m : Miss) : State :=
  let s := match mapFind m.domain s0.roots with | some f => s0.walkTouch m.core m.va 4 f | none => s0
  let (s1, mine) := s.answerMisses m
  match s0.coreWalk m.core m.domain m.va with
  | .leaf large pte => s1.fillLeaf m.core m.domain (pageNum m.va) large pte
  | .hostBacked large pte =>
    if addrPath m.va = 3 then s1.fillLeaf m.core m.domain (pageNum m.va) large pte
    else { s1 with asks := s1.asks ++ mine.map (fun x => ⟨x⟩) }
  | .invalid _ => { s1 with asks := s1.asks ++ mine.map (fun x => ⟨x⟩) }
  | .bad => { s1 with walkFails := s1.walkFails ++ mine.map (fun x => (x, .tableFormat)) }
  | .unread => { s1 with walkFails := s1.walkFails ++ mine.map (fun x => (x, .walkerFault)) }

/-- The start state of R86 for a group with all of its registers zero. -/
def newGroup (core slot : Nat) (pc : Addr) (mask : BitVec 32) : Group :=
  { core := core, slot := slot, launch := 0, crew := 0, gidx := 0, nv := 8, ns := 80, v := [], s := [], p := []
    splits := [{ idx := 0, pc := pc, mask := mask, age := 0, waitCount := 0, tokens := [], falls := [], region := none
                 ecount := wzero, wait := .none, waitAt := azero, nextAt := 0, pend := [], passBreak := false, lastAct := 0#32 }]
    absent := ~~~ mask, fstat := Flags.none, late := [], cause := wzero, epc := azero, epc2 := azero, eregion := azero, ecount := wzero
    tvec := azero, scheck := false, role := 0, hdepth := 0, trapSplit := none, heldSplits := [], domain := 0, privileged := false
    perf := List.replicate 8 0, startSeq := 0, nextAge := 1, nextSeq := 0, status := .running, hist := [], infl := [], faults := []
    longs := [], resp := none, walk := none, walkAt := 0, walkFilled := false, walkStale := false, ctx := none, stepping := none
    markLoss := false, stored := [], haltedAt := 0, parked := false, stepIssued := false, bad := []
    pending := none, perfAt := List.replicate 8 0, resumeDue := false }

/-- WALKER_START (R371): the walker serves the next miss of its core: placed firmware runs as a group in slot 191; without
any, the shipped firmware's walk is made as one operation. -/
def execWalkerStart (core : Nat) (s : State) : Out :=
  .next (match s.group? (gkey core 191), s.firstMiss core with
    | none, some m =>
      if s.walkerEntry = azero then s.shippedWalk m
      else
        let g := { newGroup core 191 s.walkerEntry allLanes with
          privileged := true, walk := some m, walkAt := s.now, startSeq := s.startSeq }
        { s.setGroup (gkey core 191) g with startSeq := s.startSeq + 1 }.admitMisses core s.heldMisses.length
    | _, _ => s)

/-- WALK_TIMEOUT (R372): a walk of more than 4,096 cycles. -/
def execWalkTimeout (core : Nat) (s : State) : Out :=
  .next (match s.group? (gkey core 191) with
    | some g => if g.walkAt + 4096 < s.now then s.endWalk (gkey core 191) .failed else s
    | none => s)

/-! ## The memory-management processor -/

/-- A frame's bytes as allocation and bring-up leave them, with no tile of it in any cache (R168, R374). -/
def State.clearFrame (s : State) (f : Nat) : State :=
  let a := frameAddr f
  { s with
    mem := s.mem.filter (fun c => decide (c.1 < a) || decide (a + frameBytes ≤ c.1))
    l1 := s.l1.filter (fun x => x.tile / 243 != f)
    binPoison := s.binPoison.filter (fun c => c / 243 != f)
    sealed := s.sealed.filter (fun e => e.1 / 243 != f)
    l2 := s.l2.filter (fun e => e.1 / 243 != f)
    l2tags := s.l2tags.filter (fun e => e.1 / 243 != f) }

/-- The tiles of `n` frames from frame `f` dropped from every cache, written back first (R374). -/
def State.uncacheFrames (s : State) (f n : Nat) : State :=
  let out := fun (c : Nat) => decide (c / 243 < f) || decide (f + n ≤ c / 243)
  { s with
    l1 := s.l1.filter (fun x => out x.tile), l2 := s.l2.filter (fun e => out e.1), l2tags := s.l2tags.filter (fun e => out e.1)
    moved := s.moved + (s.l2.filter (fun e => !out e.1 && e.2)).length }

/-- The MODE and the TILING that a leaf gives its frames noted; a host-backed leaf names none (R168 to R171). -/
def State.noteMode (s : State) (pte : Word) (n : Nat) : State :=
  if pteMode pte = 0 then s
  else { s with frameModes := ((pteFrame pte).toNat, n, pteMode pte == -1, pteTiling pte == 1) :: s.frameModes }

/-- A table entry written (R368). -/
def State.putEntry (s : State) (f j : Nat) (w : Word) : State :=
  s.homeWrite [.packed f (3 * j), .packed f (3 * j + 1), .packed f (3 * j + 2)] (trytesOfWord w)

/-- The frame of the table at a level on the way to an address, if its pointers are there (R369). -/
def State.tableAt (s : State) (a : Addr) (level : Nat) : Nat → Nat → Option Nat
  | 0, _ => none
  | n + 1, f =>
    if n + 1 = level then some f
    else
      match s.tableEntry f (levelIndex a (n + 1)) with
      | none => none
      | some w => if pteType w = -1 ∧ 0 ≤ pteFrame w then s.tableAt a level n (pteFrame w).toNat else none

/-- The declared region of a page (R374). -/
def State.regionOf (s : State) (domain page : Nat) : Option AllocRegion :=
  s.allocatable.find? (fun r => r.domain == domain && decide (r.page ≤ page) && decide (page < r.page + r.pages))

/-- Whether the memory-management processor may allocate a frame (R374, R377). -/
def State.frameFree (s : State) (f : Nat) : Bool :=
  decide (f < frameCount) && !s.badFrames.contains f && !s.retired.contains f && !s.allocated.contains f

/-- The asks of a page answered, and its side-log entries told (R359, R361, R374). -/
def State.pageServed (s : State) (m : Miss) (ok : Bool) : State :=
  let tell := fun (e : SideEntry) => if e.domain == m.domain && samePage e.va m.va then { e with served := some ok } else e
  { s with
    asks := s.asks.filter (fun x => !(x.miss.domain == m.domain && samePage x.miss.va m.va))
    sideLog := s.sideLog.map tell
    launches := s.launches.map (fun l => { l with shares := l.shares.map (fun sh => { sh with savedLog := sh.savedLog.map tell }) }) }

/-- A leaf as a declared region gives it (R368, R374). -/
def AllocRegion.leaf (r : AllocRegion) (f : Nat) : Word :=
  Tern.ofInt 27 ((f : Int) * 3 ^ 6 + 3 ^ 5 + r.write.val * 3 ^ 4 + r.mode.val * 3 ^ 3 + r.cache.val * 3 ^ 2 + r.tiling.val * 3)

/-- A page that the service cannot serve: a load's requesters raise PAGE_NOT_PRESENT, logged stores are discarded, and a
store that has not yet issued again retires into the side log as an entry to discard (R177, R361, R374). -/
def State.refusePage (s : State) (m : Miss) : State :=
  let logged := fun (x : Miss) => s.sideLog.any (fun e => e.key == x.key && e.split == x.split && e.domain == x.domain && samePage e.va x.va)
  let told := (s.asks.filter (fun x => x.miss.domain == m.domain && samePage x.miss.va m.va && (x.miss.access != 0 || !logged x.miss))).map (·.miss)
  { s.pageServed m false with walkFails := s.walkFails ++ told.map (fun x => (x, .pageNotPresent)) }

/-- MMP_PAGE_SERVICE (R374): the processor walks the tables itself for ask `k`. An invalid entry in a declared region
receives `frame`: a table where one is missing on the way, then the page's leaf. A host-backed page waits for the host. -/
def execMmpPageService (k frame : Nat) (s : State) : Out :=
  .next (match s.asks[k]? with
    | none => s
    | some ask =>
      let m := ask.miss
      match s.walk m.domain m.va with
      | .leaf _ _ => s.pageServed m true
      | .hostBacked _ _ => s
      | .bad => s.refusePage m
      | .unread => s.refusePage m
      | .invalid level =>
        match s.regionOf m.domain (pageNum m.va), (mapFind m.domain s.roots).bind (fun f => s.tableAt m.va level 4 f) with
        | some r, some table =>
          if !s.frameFree frame then s.refusePage m
          else
            let s1 := { s.clearFrame frame with allocated := frame :: s.allocated }
            if level = 1 then
              let s2 := s1.putEntry table (levelIndex m.va 1) (r.leaf frame)
              let s3 := match r.key with
                | some slot => { s2 with frameKey := mapInsert frame (slot + 1) s2.frameKey }
                | none => { s2 with frameKey := mapErase frame s2.frameKey }
              (s3.noteMode (r.leaf frame) 1).pageServed m true
            else s1.putEntry table (levelIndex m.va level) (Tern.ofInt 27 ((frame : Int) * 3 ^ 6 - 3 ^ 5))
        | _, _ => s.refusePage m)

/-- Pages that an entry of a level covers. -/
def levelPages (level : Nat) : Nat := 19683 ^ (level - 1)

/-- Whether a leaf is given to frames with another MODE or TILING than an old leaf gave them (R374). -/
def rebinds (old new : Word) : Bool :=
  pteType new == 1 && pteFrame old == pteFrame new && (pteMode old != pteMode new || pteTiling old != pteTiling new)

/-- MMP_ENTRY_CHANGE (R374): an entry written, the old translations removed from every TLB, the old frames' tiles written back and dropped,
those of every page of a large page among them; where a frame's MODE or TILING changes, every translation of it in any domain is removed
too. Level 5 names a domain's level-4 table itself: FRAME of the entry is its frame. -/
def execMmpEntryChange (domain : Nat) (va : Addr) (level : Nat) (entry : Word) (s : State) : Out :=
  .next (
    let span := levelPages level
    let covered := fun (page : Nat) => page / span == pageNum va / span
    let drop := fun (st : State) => st.tlbDrop (fun e => e.domain == domain && (covered e.page || (e.large && e.page / 19683 == pageNum va / 19683)))
      (fun m => m.domain == domain && covered (pageNum m.va))
    if level = 5 then
      (if 0 ≤ pteFrame entry ∧ pteFrame entry < frameCount then
        { s with roots := mapInsert domain (pteFrame entry).toNat s.roots }.tlbDrop (fun e => e.domain == domain) (fun m => m.domain == domain)
      else s)
    else
      match (mapFind domain s.roots).bind (fun f => s.tableAt va level 4 f) with
      | none => s
      | some table =>
        let n := if level = 2 then 19683 else 1
        let s1 : State := match s.tableEntry table (levelIndex va level) with
          | some old =>
            if pteType old = 1 ∧ pteMode old ≠ 0 ∧ 0 ≤ pteFrame old then
              let f := (pteFrame old).toNat
              let names := fun (e : TlbEntry) => rebinds old entry && decide ((e.frame e.page) < f + n ∧ f < e.frame e.page + (if e.large then 19683 else 1))
              (s.uncacheFrames f n).tlbDrop names (fun _ => false)
            else s
          | none => s
        let s2 := if pteType entry = 1 then s1.noteMode entry n else s1
        drop (s2.putEntry table (levelIndex va level) entry))

/-- BAD_PAGE_ADD (R377): a frame joins the bad-page list; once the list is full it is retired until the next reset only, and the list reports
itself full: a reply of one byte, 1 (its form is a DESIGN CHOICE, log 93). -/
def execBadPageAdd (frame : Nat) (s : State) : Out :=
  .next (
    if s.badFrames.contains frame || s.retired.contains frame then s
    else if s.badFrames.length < 4096 then { s with badFrames := frame :: s.badFrames }
    else { s with retired := frame :: s.retired, replies := s.replies ++ [⟨0, [1#8]⟩] })

end Sys2Proof.Machine
end

