-- ==== Sys2Proof/Machine/Place.lean ====
section
/-! DEFINITION. Room on a core and the start of groups: group slots, registers, buffer allocations and contexts (R18 to R23,
R85, R86, R173, R343). -/

namespace Sys2Proof.Machine

/-- Group slots of a core that groups may take (R85), lane-words of its vector file (R19), and tiles of its buffers (R20). -/
def placeSlots : Nat := 191
def vectorFile : Nat := 262144
def bufTilesOf (path : Nat) : Nat := if path = 2 then 243 else 729

/-- The groups that hold slots of a core, the walker and contexts apart. -/
def State.onCore (s : State) (core : Nat) : List Group := (s.groups.map (·.2)).filter (fun g => g.core == core && !g.isSeq && !g.isWalker)

/-- Groups and lane-words that reserved crews of a core will take (R350). -/
def State.reservedOn (s : State) (core : Nat) : Nat × Nat :=
  (s.crews.filter (fun c => c.core == core && c.reserved)).foldl (fun a c =>
    match s.launch? c.launch with
    | some l => (a.1 + l.groupsPer, a.2 + 32 * l.nv * l.groupsPer)
    | none => a) (0, 0)

/-- Whether `n` groups of `nv` vector registers find slots and registers on a core, what is reserved left alone (R19, R343). -/
def State.groupsFit (s : State) (core n nv : Nat) : Bool :=
  let gs := s.onCore core
  let (rg, rw) := s.reservedOn core
  decide (gs.length + rg + n ≤ placeSlots) && decide (gs.foldl (fun a g => a + 32 * g.nv) 0 + rw + 32 * nv * n ≤ vectorFile)

/-- Whether `n` tiles from a base overlap no allocation of a core's buffer. -/
def State.baseFree (s : State) (core path n base : Nat) : Bool :=
  decide (base + n ≤ bufTilesOf path) &&
  (s.crews.filter (fun c => c.core == core)).all (fun c =>
    let b := c.base.getD path 0
    let m := c.tiles.getD path 0
    decide (m = 0) || decide (b + m ≤ base) || decide (base + n ≤ b))

/-- A contiguous allocation of `n` tiles (R20). Which of several bases that are free it takes the spec does not say: here the lowest (DESIGN
CHOICE, log 96). -/
def State.bufBase (s : State) (core path n : Nat) : Option Nat :=
  if n = 0 then some 0
  else
    let ends := (s.crews.filter (fun c => c.core == core)).map (fun c => c.base.getD path 0 + c.tiles.getD path 0)
    ((0 :: ends).filter (s.baseFree core path n)).foldl (fun (m : Option Nat) b => match m with | none => some b | some a => some (min a b)) none

/-- Free group slots of an issue slot of a core (R18). -/
def State.freeSlots (s : State) (core issue : Nat) : List Nat :=
  (List.range 48).filterMap (fun i =>
    let k := 48 * issue + i
    if k < placeSlots && (s.group? (gkey core k)).isNone then some k else none)

/-- The group slot that the next group of a core takes (R343). -/
def State.pickSlot (s : State) (core : Nat) : Option Nat :=
  let counts := (List.range 4).map (fun q => s.freeSlots core q)
  let most : Nat := counts.foldl (fun m l => max m l.length) 0
  if most = 0 then none else (counts.find? (fun l => l.length == most)).bind (·.head?)

/-- A group in its start state (R86). -/
def startState (l : Launch) (core slot crew gidx : Nat) (pc : Addr) : Group :=
  { newGroup core slot pc allLanes with
    launch := l.id, crew := crew, gidx := gidx, nv := l.nv, ns := l.ns, role := l.role, domain := l.domain, privileged := l.privileged }

/-- A group put into a slot; it is the youngest (R99). -/
def State.putGroup (s : State) (g : Group) : State :=
  { s.setGroup g.key { g with startSeq := s.startSeq } with startSeq := s.startSeq + 1, exited := mapErase g.key s.exited }

/-- The rank-0 core of a cluster, on which its contexts stand (R15, R378). -/
def seqCore (cluster : Nat) : Nat := coreOfRank cluster 0

/-- Whether a launch that runs occupies a context, by its key: it does until it completes, even once the context has ended (R305, R114). -/
def State.contextHeld (s : State) (key : Nat) : Bool := s.launches.any (fun l => !l.complete && l.ctxs.contains key)

/-- A free context of a cluster's sequencer (R23, R305). -/
def State.freeContext (s : State) (cluster : Nat) : Option Nat :=
  (List.range 8).find? (fun n =>
    let k := gkey (seqCore cluster) (192 + n)
    (s.group? k).isNone && !s.contextHeld k) |>.map (192 + ·)

/-- The context of a cluster that a launch takes: the one that it occupies there already, or a free one (R305, R348). -/
def State.contextFor (s : State) (l : Launch) (cluster : Nat) : Option Nat :=
  match l.ctxs.find? (fun k => clusterOf (k / 256) == cluster && (s.group? k).isNone) with
  | some k => some (k % 256)
  | none => s.freeContext cluster

/-- The matrix side of a context as it starts (R305, R308, R323). -/
def ctxStart (l : Launch) (now : Nat) : CtxState :=
  { binding := 0, ksplit := 1, claims := [], sat := wzero, ovf := wzero, flush := wzero, nan := wzero, records := l.records, issuedMx := 0, lastMma := none, since := now, cycles := 0, passes := 0 }

/-- A context in its start state: one lane (R114, R305). -/
def contextState (l : Launch) (cluster slot now : Nat) : Group :=
  { newGroup (seqCore cluster) slot l.seqEntry 1#32 with
    launch := l.id, nv := 0, ns := l.ns, domain := l.domain, privileged := l.privileged, ctx := some (ctxStart l now) }

/-- How the share of a launch on a core's cluster stands. -/
def Launch.shareAt (l : Launch) (core : Nat) : Option Share := l.shares.find? (fun sh => sh.cluster == clusterOf core)
/-- Whether a share's crews are on their cores and not being taken off them. -/
def Share.live (sh : Share) : Bool := match sh.state with | .resident => true | .draining _ => true | _ => false
/-- Whether a launch's share at a core is on its cores (R349). -/
def Launch.live (l : Launch) (core : Nat) : Bool := match l.shareAt core with | some sh => sh.live && !sh.replaying | none => true

/-- The cores of a launch rectangle, row by row (R84). -/
def Launch.cores (l : Launch) : List Nat :=
  (List.range (2 ^ l.logh)).flatMap (fun j => (List.range (2 ^ l.logw)).map (fun i => coreOf (l.x + i) (l.y + j)))
/-- The clusters of a launch rectangle. -/
def Launch.clusters (l : Launch) : List Nat := (l.cores.map clusterOf).eraseDups

end Sys2Proof.Machine
end

