-- ==== Sys2Proof/Machine/Energy.lean ====
section
/-! DEFINITION. Energy accounts (R399 to R401): what each interval charges to crews, sequencer accounts, COPY jobs and the
device. -/

namespace Sys2Proof.Machine

/-- The share of a core's static energy that `w` group-slot cycles of `c` take (R400). -/
def staticShare (core w c : Nat) : Nat := if c = 0 then 0 else Config.coreStatic core * w / (191 * c)

/-- The static energy of a sequencer that a context takes: its cycles of 8 times the interval's (R399). -/
def seqShare (cluster w c : Nat) : Nat := if c = 0 then 0 else Config.seqStatic cluster * w / (8 * c)

/-- The number under which the static energy of a sequencer is counted beside the cores' (R399). -/
def seqUnit (cluster : Nat) : Nat := 1000 + cluster

/-- The static energy of a unit for one interval: a core, or a sequencer. -/
def unitStatic (u : Nat) : Nat := if u < 1000 then Config.coreStatic u else Config.seqStatic (u - 1000)

/-- A share of a unit's static energy taken, and what has been taken of each unit: never more than the unit has (R400). -/
def takeShare (m : FMap Nat) (u share : Nat) : Nat × FMap Nat :=
  let x := min share (unitStatic u - mapGet 0 m u)
  (x, mapInsert u (mapGet 0 m u + x) m)

/-- Cycles of the interval that has run so far. -/
def State.intervalCycles (s : State) : Nat := s.now - s.intervalAt

/-- Cycles by which the accounts of a launch are settled that completes within an interval: a microsecond of the time base is 2,500 (R223;
DESIGN CHOICE, log 57), or what has run if that is more. -/
def State.earlyCycles (s : State) : Nat := max 2500 s.intervalCycles

/-- Picojoules of the activity of a crew's groups in this interval, its responders' too (R399). -/
def State.crewActivity (s : State) (c : Crew) : Nat :=
  s.groups.foldl (fun a e =>
    if e.2.launch == c.launch && e.2.core == c.core && e.2.crew == c.idx && !e.2.isSeq && !e.2.isWalker then a + e.2.activityPj else a) 0

/-- A crew charged for an interval of `n` cycles: its share of its core's static energy, its groups' activity, and the tiles moved for it
(R399, R400); with what has been taken of each core. -/
def State.chargeCrew (s : State) (n : Nat) (m : FMap Nat) (c : Crew) : Crew × FMap Nat :=
  let (share, m1) := takeShare m c.core (staticShare c.core c.slotCycles n)
  let e := addPj c.energy c.energyPj (1000 * share + s.crewActivity c + Config.energyCoef 17 * c.moved)
  ({ c with energy := e.1, energyPj := e.2, slotCycles := 0, moved := 0, energyCr := e.1 / 1000 }, m1)

/-- Crews charged one after another. -/
def State.chargeCrews (s : State) (n : Nat) : FMap Nat → List Crew → List Crew × FMap Nat
  | m, [] => ([], m)
  | m, c :: t =>
    let (c1, m1) := s.chargeCrew n m c
    let (t1, m2) := s.chargeCrews n m1 t
    (c1 :: t1, m2)

/-- The crews of a launch that are off their cores, saved or waiting to start again, charged with the others (R401). -/
def State.chargeShares (s : State) (n : Nat) : FMap Nat → List Share → List Share × FMap Nat
  | m, [] => ([], m)
  | m, sh :: t =>
    let (a, m1) := s.chargeCrews n m sh.savedCrews
    let (b, m2) := s.chargeCrews n m1 sh.kept
    let (t1, m3) := s.chargeShares n m2 t
    ({ sh with savedCrews := a, kept := b } :: t1, m3)

/-- The contexts of a launch in this interval: cluster and cycles, those that have left it too. -/
def State.seqCycles (s : State) (l : Launch) : List (Nat × Nat) :=
  l.seqLeft ++ s.groups.filterMap (fun e =>
    if e.2.launch == l.id then e.2.ctx.map (fun c => (clusterOf e.2.core, c.cycles)) else none)

/-- Shares of sequencers' static energy for some contexts, added up (R399). -/
def seqTake (n : Nat) : FMap Nat → List (Nat × Nat) → Nat × FMap Nat
  | m, [] => (0, m)
  | m, (k, w) :: t =>
    let (x, m1) := takeShare m (seqUnit k) (seqShare k w n)
    let (y, m2) := seqTake n m1 t
    (x + y, m2)

/-- Picojoules of the activity of a launch's contexts in this interval (R399). -/
def State.seqActivity (s : State) (l : Launch) : Nat :=
  s.groups.foldl (fun a e => if e.2.launch == l.id && e.2.isSeq then a + e.2.activityPj else a) 0

/-- A launch's sequencer account charged for an interval of `n` cycles (R399). -/
def State.chargeSeq (s : State) (n : Nat) (m : FMap Nat) (l : Launch) : Launch × FMap Nat :=
  let (x, m1) := seqTake n m (s.seqCycles l)
  let e := addPj l.seqEnergy l.seqEnergyPj (1000 * x + s.seqActivity l + Config.energyCoef 17 * l.seqMoved)
  ({ l with seqEnergy := e.1, seqEnergyPj := e.2, seqEnergyCr := e.1 / 1000, seqMoved := 0, seqLeft := [] }, m1)

/-- Launches charged at an interval's end: their sequencer accounts and the crews that are off their cores. -/
def State.chargeLaunches (s : State) (n : Nat) : FMap Nat → List Launch → List Launch × FMap Nat
  | m, [] => ([], m)
  | m, l :: t =>
    if l.complete then (l :: (s.chargeLaunches n m t).1, (s.chargeLaunches n m t).2)
    else
      let (l1, m1) := s.chargeSeq n m l
      let (shares, m2) := s.chargeShares n m1 l1.shares
      let (t1, m3) := s.chargeLaunches n m2 t
      ({ l1 with shares := shares } :: t1, m3)

/-- A COPY job charged for the tiles that it has moved (R399). -/
def CopyJob.charge (j : CopyJob) : CopyJob :=
  let e := addPj j.energy j.energyPj (Config.energyCoef 17 * j.moved)
  { j with energy := e.1, energyPj := e.2, moved := 0 }

/-- The static energy of cores and sequencers that no crew and no context has been charged: unoccupied slots and every rounding
remainder (R400). -/
def restStatic (m : FMap Nat) : Nat :=
  (List.range 256).foldl (fun a c => a + (unitStatic c - mapGet 0 m c)) 0 +
  (List.range 64).foldl (fun a k => a + (unitStatic (seqUnit k) - mapGet 0 m (seqUnit k))) 0

/-- Picojoules of the walkers' activity in this interval (R399). -/
def State.walkerActivity (s : State) : Nat := s.groups.foldl (fun a e => if e.2.isWalker then a + e.2.activityPj else a) 0

/-- A group as an interval begins (R399). -/
def Group.newInterval (g : Group) : Group := { g with perfAt := g.perf, ctx := g.ctx.map (fun c => { c with cycles := 0, passes := 0 }) }

/-- A crew's account closed into its launch's; its remainder goes to the device account (R401). -/
def State.endCrew (s : State) (c : Crew) : State :=
  let dev := addPj s.energy s.energyPj c.energyPj
  { s with energy := dev.1, energyPj := dev.2 }.modLaunch c.launch (fun l => { l with crewEnergy := l.crewEnergy + c.energy })

/-- A crew that is over: its account closes with the interval (R400, R401). -/
def State.closeCrew (s : State) (c : Crew) : State := { s with leftCrews := s.leftCrews ++ [c] }

/-- ENERGY_INTERVAL_END (R399 to R401): the charges of a microsecond of the time base that has passed. -/
def execEnergyIntervalEnd (s : State) : Host.Outcome State Fault Refusal :=
  .next (
    if s.timeBase / 10000 ≤ s.intervalTick then s
    else
      let n := s.intervalCycles
      let (crews, m1) := s.chargeCrews n s.energyEarly s.crews
      let (left, m2) := s.chargeCrews n m1 s.leftCrews
      let (launches, m3) := s.chargeLaunches n m2 s.launches
      let dev := addPj s.energy s.energyPj (1000 * (restStatic m3 + Config.ioStatic) + s.walkerActivity + Config.energyCoef 17 * s.moved)
      left.foldl State.endCrew
        { s with
          crews := crews
          launches := launches
          leftCrews := []
          copyJobs := s.copyJobs.map CopyJob.charge
          energy := dev.1
          energyPj := dev.2
          moved := 0
          energyEarly := []
          intervalAt := s.now
          intervalTick := s.timeBase / 10000
          groups := s.groups.map (fun (e : Nat × Group) => (e.1, e.2.newInterval)) })

/-- The accounts of a launch that completes within an interval settled at once: those of its crews that have left, and its contexts'
(R399 to R401). -/
def State.settleLaunch (s : State) (l0 : Launch) : State :=
  let n := s.earlyCycles
  let l := (s.launch? l0.id).getD l0
  let (crews, m1) := s.chargeCrews n s.energyEarly (s.leftCrews.filter (fun c => c.launch == l.id))
  let (l1, m2) := s.chargeSeq n m1 l
  crews.foldl State.endCrew
    ({ s with leftCrews := s.leftCrews.filter (fun c => c.launch != l.id), energyEarly := m2 }.modLaunch l.id (fun m =>
      { m with seqEnergy := l1.seqEnergy, seqEnergyPj := l1.seqEnergyPj, seqEnergyCr := l1.seqEnergyCr, seqMoved := 0, seqLeft := [] }))

/-- The nanojoules of a launch's accounts as it completes (R401): whole microjoules for its record, the rest to the device. -/
def State.closeLaunch (s0 : State) (l0 : Launch) : State × Nat :=
  let s := s0.settleLaunch l0
  match s.launch? l0.id with
  | none => (s, 0)
  | some l =>
    let pj := 1000 * (l.seqEnergy + l.crewEnergy) + l.seqEnergyPj
    let dev := addPj s.energy s.energyPj (pj % 1000000)
    ({ s with energy := dev.1, energyPj := dev.2 }, pj / 1000000)

/-- The same of a COPY job. -/
def State.closeCopy (s : State) (j : CopyJob) : State × Nat :=
  let e := j.charge
  let pj := 1000 * e.energy + e.energyPj
  let dev := addPj s.energy s.energyPj (pj % 1000000)
  ({ s with energy := dev.1, energyPj := dev.2 }, pj / 1000000)

/-- A COPY job that is lost: it has no record, and its account passes to the device account, so that the sums hold (R401; DESIGN CHOICE,
log 97). -/
def State.loseCopy (s : State) (j : CopyJob) : State :=
  let e := j.charge
  let dev := addPj s.energy s.energyPj (1000 * e.energy + e.energyPj)
  { s with copyJobs := s.copyJobs.filter (fun k => k.id != j.id), energy := dev.1, energyPj := dev.2 }

/-- What system software reads of the estimate (R399, R401): a calibrated coefficient, and beyond them the device account. The form of the
reading is the model's (DESIGN CHOICE, log 97): a reply of eight bytes on port 0. -/
def execEnergyRead (k : Nat) (s : State) : Host.Outcome State Fault Refusal :=
  .next { s with replies := s.replies ++ [⟨0, leBytes 8 (if k < 18 then Config.energyCoef k else s.energy)⟩] }

end Sys2Proof.Machine
end

