-- ==== Sys2Proof/Machine/Copy.lean ====
section
/-! DEFINITION. Tensor copies, tryte barrier instructions and record reloads (R262 to R279, R281). -/

namespace Sys2Proof.Machine

/-! ## Layout records -/

/-- Trits of one part of an element value (R266). -/
def Layout.n (l : Layout) : Nat := if l.elt = 3 ∨ l.elt = -1 then 9 else if l.elt = 4 ∨ l.elt = -2 then 27 else 54
/-- Whether the elements are floats (R263). -/
def Layout.float (l : Layout) : Bool := decide (l.elt < 0)
/-- Element columns of an element tile (R266). -/
def Layout.e (l : Layout) : Nat := if l.n = 9 then 27 else 9
/-- Parts of a value, planes of a part, planes of a value (R266). -/
def Layout.parts (l : Layout) : Nat := if l.complex || l.elt == -4 then 2 else 1
def Layout.ppp (l : Layout) : Nat := if l.n = 54 then 2 else 1
def Layout.planes (l : Layout) : Nat := l.parts * l.ppp
/-- Trytes of an element of one plane (R267). -/
def Layout.tpe (l : Layout) : Nat := if l.n = 9 then 1 else 3
/-- Tile columns of the tensor (R267). -/
def Layout.tcols (l : Layout) : Int := (l.cols + (l.e : Int) - 1) / (l.e : Int)
/-- Bytes of a binary element (R267). -/
def Layout.zb (l : Layout) : Nat := encSize l.enc l.n

/-- The code of PADVAL in ELT, where it is exact there (R263). -/
def padCode (elt : Int) (v : Word) : Option Int :=
  if elt = 3 then (if -(half 9 : Int) ≤ v.val ∧ v.val ≤ (half 9 : Int) then some v.val else none)
  else if elt = 4 ∨ elt = -2 then some v.val
  else
    let F := if elt = -1 then tf9 else tf54
    match fval tf27 v.val with
    | .fin m k => match fpack F .trap (exactOf m k) with
      | .ok (c, fl) => if fl = .none then some c else none
      | .error _ => none
    | .inf neg => some (infCode F neg)
    | .nan => some nanCode

/-- The fields of a layout record (R263). -/
def layoutFields (w : List Word) : Layout :=
  let g := fun i => w.getD i wzero
  let w3 := g 3
  let w12 := g 12
  { base := mkPair (g 0) (g 1), tensor := g 2, elt := (w3.field 0 2).val, enc := ((w3.field 2 9).val).toNat, policy := w3.trit 11
    cslot := (w3.field 12 9).val, tiled := w3.trit 21 == 1, complex := w3.trit 22 == 1, rows := (g 4).val, cols := (g 5).val
    rstride := (g 6).val, pstride := (g 7).val, scale := g 8, imgh := (g 9).val, imgw := (g 10).val, batch := (g 11).val
    step := (w12.field 0 9).val, padh := (w12.field 9 9).val, padw := (w12.field 18 9).val, padval := g 13, smooth := (g 14).val
    outh := (g 15).val, outw := (g 16).val }

/-- Whether a float word is a finite number. -/
def finiteWord (w : Word) : Bool := match fval tf27 w.val with | .fin _ _ => true | _ => false

/-- Check 3 of R269: the fields that a copy uses, the reserved trits, and misused options (R263). -/
def layoutBad (nslot : Nat) (o : CopyOpts) (w : List Word) : Bool :=
  let l := layoutFields w
  let w3 := w.getD 3 wzero
  let enc := (w3.field 2 9).val
  let fields :=
    !([3, 4, -1, -2, -3, -4].contains l.elt) || decide (enc < 0) || decide (14 < enc) || w3.trit 21 == -1 || w3.trit 22 == -1
    || (l.complex && l.elt != -1 && l.elt != -2) || (w3.field 23 4).val != 0 || ((w.getD 17 wzero).field 21 6).val != 0
    || decide (l.rows < 1) || decide (l.cols < 1)
    || (l.tiled && (l.rstride != 0 || l.enc != 0 || !tileAligned l.base || (decide (1 < l.planes) && l.pstride % 243 != 0)))
    || !finiteWord l.scale || (l.enc == 0 && l.scale != wzero)
    || ((l.enc != 0 || o.smooth) && (decide (l.cslot < -1) || decide ((nslot : Int) ≤ l.cslot)))
    || (o.smooth && (decide (l.smooth < 0) || l.smooth % 3 != 0))
    || (o.pub && decide (l.tensor.val < 0))
  let image := o.gather &&
    (decide (l.imgh < 1) || decide (l.imgw < 1) || decide (l.batch < 1) || decide (l.step < 1) || decide (l.outh < 1)
      || decide (l.outw < 1) || decide (l.padh < 0) || decide (l.padw < 0) || l.rows != l.batch * l.imgh * l.imgw
      || (padCode l.elt l.padval).isNone)
  let misuse :=
    (o.conj && l.parts == 1) || (o.smooth && !l.float) || (o.gather && o.trans)
    || (o.pub && (o.trans || o.gather || decide (1 < l.planes) || l.tensor == wzero))
  fields || image || misuse

/-! ## The geometry of a copy -/

/-- Rows and columns of elements of the target, tiles of a plane, and its tile columns (R271). -/
def CopyOpts.trows (o : CopyOpts) (l : Layout) : Nat := if o.trans then l.e * o.bcols else 9 * o.brows
def CopyOpts.tcols (o : CopyOpts) (l : Layout) : Nat := if o.trans then 9 * o.brows else l.e * o.bcols
def CopyOpts.tcb (o : CopyOpts) (l : Layout) : Nat := o.tcols l / l.e
def CopyOpts.tiles (o : CopyOpts) (l : Layout) : Nat := o.trows l / 9 * o.tcb l

/-- Where a target element comes from (R271). -/
inductive CopySrc where
  | edge
  | pad
  | elem (i c : Int)
deriving DecidableEq, Repr

/-- The source of target element (r, k) (R271). -/
def copySrc (l : Layout) (o : CopyOpts) (r k : Nat) : CopySrc :=
  let i := 9 * o.row0 + (if o.trans then (k : Int) else (r : Int))
  let c := (l.e : Int) * o.col0 + (if o.trans then (r : Int) else (k : Int))
  if l.cols ≤ c ∨ (!o.gather ∧ l.rows ≤ i) then .edge
  else if o.gather then
    let n := i / (l.outh * l.outw)
    let ih := i / l.outw % l.outh * l.step + o.fh - l.padh
    let iw := i % l.outw * l.step + o.fw - l.padw
    if l.batch ≤ n ∨ ih < 0 ∨ l.imgh ≤ ih ∨ iw < 0 ∨ l.imgw ≤ iw then .pad
    else .elem (n * l.imgh * l.imgw + ih * l.imgw + iw) c
  else .elem i c

/-- First tryte address and trytes of each plane of a native element, or of each part of a binary one (R267). -/
def copySpans (l : Layout) (i c : Int) : List (Addr × Nat) :=
  if l.enc ≠ 0 then
    (List.range l.parts).map (fun (p : Nat) => (addrAdd l.base (i * l.rstride + c * (l.zb : Int) + (p : Int) * l.pstride), l.zb))
  else
    (List.range l.planes).map (fun (q : Nat) =>
      if l.tiled then
        let e := (l.e : Int)
        let ofs := (q : Int) * l.pstride + 243 * (i / 9 * l.tcols + c / e) - 121 + 27 * (i % 9) + (l.tpe : Int) * (c % e)
        (addrAdd l.base ofs, l.tpe)
      else
        let ofs := (q : Int) * l.pstride + i * l.rstride + c * (l.tpe : Int)
        (addrAdd l.base (if l.tpe = 3 then ofs - 1 else ofs), l.tpe))

/-- Every element that a copy reads, in the order of its target. -/
def copyReads (l : Layout) (o : CopyOpts) : List (Int × Int) :=
  (List.range (o.trows l)).flatMap (fun r => (List.range (o.tcols l)).filterMap (fun k =>
    match copySrc l o r k with | .elem i c => some (i, c) | _ => none))

/-- The key of an address's page with its path, by which a job keeps the translations of its acceptance (R375). -/
def pageKey (a : Addr) : Nat := (a.field 10 44).index

/-- One address for each page that a copy reads (R269 check 9). -/
def copyPages (spans : List (Addr × Nat)) : FMap Addr :=
  spans.foldl (fun m s =>
    let put := fun (m : FMap Addr) (a : Addr) => if (mapFind (pageKey a) m).isSome then m else mapInsert (pageKey a) a m
    put (put m s.1) (addrAdd s.1 ((s.2 : Int) - 1))) []

/-- What a copy asks of its source (R269 check 9). -/
def copyReq (tiled : Bool) : Req :=
  { write := false, atomic := false, aligned := fun _ => true, users := fun _ _ => false, tiledOk := tiled
    refuse := fun p => if p = 3 ∨ p = 4 then some .atomicUnsupportedRegion else none }

/-- Whether an address of a word element of a linear source is misaligned (R267). -/
def copyMisaligned (l : Layout) (spans : List (Addr × Nat)) : Bool :=
  l.enc == 0 && !l.tiled && l.tpe == 3 && spans.any (fun s => !wordAligned (addrAdd s.1 1))

/-- The frame of a place in DRAM, and whether it is binary. -/
def locFrame : Place → Option (Bool × Nat)
  | .at_ mk _ _ => match mk 0 with | .packed f _ => some (false, f) | .binary f _ => some (true, f) | _ => none
  | _ => none

/-- The source of a copy checked: its pages' frames (R269 check 9). -/
def Fr.copySource (fr : Fr) (l : Layout) (spans : List (Addr × Nat)) : Except Halt (FMap (Bool × Nat)) :=
  let reps := copyPages spans
  let as := reps.map (·.2)
  let ag := fr.g.agent fr.sp.idx
  let rq := copyReq l.tiled
  let mis := if copyMisaligned l spans then some (5, Cause.misaligned) else none
  match minCheck (earlyAll fr.s ag rq false as) mis with
  | some (_, c) => fr.fail c
  | none =>
    match laneCheck fr.s ag rq false as with
    | .fail c => fr.fail c
    | .wait s => .error (.block s)
    | .ok ps => .ok ((reps.zip ps).filterMap (fun e => (locFrame e.2).map (fun f => (e.1.1, f))))

/-- The virtual range that addresses span, paths 0 to +2 taken as one (R240). -/
def spanRange (spans : List (Addr × Nat)) : Option (Int × Int) :=
  spans.foldl (fun m s =>
    let lo := (s.1.setField 51 (Tern.zero 3)).val
    let hi := lo + (s.2 : Int) - 1
    match m with
    | none => some (lo, hi)
    | some (a, b) => some (min a lo, max b hi)) none

/-- Whether two jobs' regions clash: an overlap, one of them a write (R241). -/
def footClash (a b : List Foot) : Bool :=
  a.any (fun x => b.any (fun y => x.global == y.global && x.space == y.space && decide (x.lo ≤ y.hi) && decide (y.lo ≤ x.hi)
    && (x.write || y.write)))

/-- The earlier jobs of a core's copy request unit that a new one waits for (R241). -/
def State.tcDeps (s : State) (core : Nat) (f : List Foot) : List Nat :=
  (s.tcJobs.filter (fun e => e.2.core == core && footClash e.2.foot f)).map (·.1)

/-- Whether a core's copy request unit is full (R269 check 10, R304 check 6). -/
def State.tcFull (s : State) (core : Nat) : Bool := decide (27 ≤ (s.tcJobs.filter (fun e => e.2.core == core)).length)

/-- A job accepted. -/
def State.tcAccept (s : State) (j : TcJob) : State :=
  { s with tcJobs := mapInsert s.nextJob { j with waits := s.tcDeps j.core j.foot } s.tcJobs, nextJob := s.nextJob + 1 }

/-! ## TCOPY -/

/-- What the extension word of `TCOPY` breaks (R268). -/
def tcopyResv (e : Word) : Bool :=
  e.trit 22 == -1 || e.trit 21 == -1 || e.trit 20 == -1 || e.trit 19 == -1 || e.trit 18 == -1 || (e.field 0 12).val != 0
    || (e.trit 19 != 1 && ((e.field 15 3).val != 0 || (e.field 12 3).val != 0))

/-- The options and box of a `TCOPY` (R268). -/
def tcopyOpts (e : Word) (origin : Word) : CopyOpts :=
  { trans := e.trit 22 == 1, conj := e.trit 21 == 1, smooth := e.trit 20 == 1, gather := e.trit 19 == 1, pub := e.trit 18 == 1
    brows := (e.field 25 2).index + 1, bcols := (e.field 23 2).index + 1, fh := (e.field 15 3).val, fw := (e.field 12 3).val
    row0 := coordRow origin, col0 := coordCol origin }

/-- The place of a position of a crew's own A allocation. -/
def ownA (ag : Agent) (c : Crew) (pos : Nat) : Loc := .buf ag.core 0 (243 * c.base.getD 0 0 + pos)

/-- The word at three positions of a crew's own A allocation, or the cause of its read: a word that cannot be corrected (R265, R357). -/
def State.ownWord (s : State) (ag : Agent) (c : Crew) (pos : Nat) : Except Cause Word :=
  match s.readLocs [ownA ag c pos, ownA ag c (pos + 1), ownA ag c (pos + 2)] with
  | .ok ts => .ok (wordOfTrytes ts)
  | .error c => .error c

/-- Words at positions of a crew's own A allocation, read in order, or the cause of the first that cannot be read. -/
def State.ownWords (s : State) (ag : Agent) (c : Crew) : List Nat → Except Cause (List Word)
  | [] => .ok []
  | p :: t =>
    match s.ownWord ag c p with
    | .error e => .error e
    | .ok w => match s.ownWords ag c t with | .error e => .error e | .ok ws => .ok (w :: ws)

/-- The record of a handle: checks 1 and 2 of R269 (R262, R264). -/
def State.layoutRecord (s : State) (ag : Agent) (h : Word) : Except Cause (List Word × Crew) :=
  match s.crew? ag.launch ag.core ag.crew, s.launch? ag.launch with
  | some c, some l =>
    let slot := (h.field 0 6).index
    let pos := l.laypos.toNat + 54 * slot
    if l.lcount ≤ slot ∨ 243 * c.tiles.getD 0 0 < pos + 54 then .error .layoutInvalid
    else
      match s.ownWords ag c ((List.range 18).map (fun k => pos + 3 * k)) with
      | .error e => .error e
      | .ok w =>
        let gen := ((w.getD 17 wzero).field 0 21).val
        if gen = 0 ∨ gen ≠ (h.field 6 21).val then .error .staleLayoutHandle else .ok (w, c)
  | _, _ => .error .layoutInvalid

/-- What the target and the barrier of a `TCOPY` must meet (R269 checks 5 to 7). -/
def tcopyReq (barrier : Bool) : Req :=
  { write := true, atomic := false, aligned := if barrier then wordAligned else tileAligned
    users := fun b _ => b == 0 || (!barrier && b == 1), bufOnly := true }

/-- Checks 2 to 6 of R176 only. -/
def earlyOnly (s : State) (ag : Agent) (r : Req) (a : Addr) : Option (Nat × Cause) :=
  match earlyCheck s ag r false a with
  | some (n, c) => if n ≤ 6 then some (n, c) else none
  | none => none

/-- The smoothing factors of the columns that a copy reads, or the cause of checks 7 and 8 (R269, R271). -/
def State.smoothFactors (s : State) (ag : Agent) (c : Crew) (l : Layout) (o : CopyOpts) : Except Cause (FMap Word) :=
  if !o.smooth then .ok []
  else
    let first := (l.e : Int) * o.col0
    let last := min l.cols (first + (l.e * o.bcols : Nat)) - 1
    if (243 * c.tiles.getD 0 0 : Int) < l.smooth + 3 * last + 3 then .error .bufferBounds
    else
      let cols := (List.range (last - first + 1).toNat).map (fun (j : Nat) => first.toNat + j)
      match s.ownWords ag c (cols.map (fun col => l.smooth.toNat + 3 * col)) with
      | .error e => .error e
      | .ok ws =>
      let fs : FMap Word := cols.zip ws
      if fs.any (fun e => !finiteWord e.2) then .error .layoutInvalid
      else if fs.any (fun e => match fval tf27 e.2.val with | .fin m _ => m == 0 | _ => false) then .error .smoothingZero
      else .ok fs

/-- What `TCOPY` uses. -/
def tcopyUse (f : LFmt) : Use :=
  { resv := resvPred f.r.h || plainR f.r || tcopyResv f.ext
    opds := [regOpd false f.r.d.index true true, regOpd false f.r.a.index true false, regOpd false f.r.b.index true false 4 2] }

/-- The job that a `TCOPY` asks for and the word that it writes, once the checks of R269 pass (R268 to R270). -/
def Fr.tcopyJob (fr : Fr) (f : LFmt) : Except Halt (TcJob × Word) :=
  if fr.g.isSeq then fr.fail .bufferPathForbidden
  else
    let ag := fr.g.agent fr.sp.idx
    match fr.s.layoutRecord ag (fr.readS 1 f.r.a.index) with
    | .error c => fr.fail c
    | .ok (w, crew) =>
      let origin := fr.readS 0 f.r.d.index
      let o := tcopyOpts f.ext origin
      let l := layoutFields w
      let target := fr.readS2 2 f.r.b.index
      let barrier := if 80 ≤ f.r.b.index then azero else fr.readS2 2 (f.r.b.index + 2)
      if layoutBad (fr.s.nslot ag.launch) o w then fr.fail .layoutInvalid
      else if origin.trit 0 ≠ 0 ∨ o.row0 < 0 ∨ o.col0 < 0 ∨ l.tcols ≤ o.col0 ∨ (!o.gather ∧ (l.rows + 8) / 9 ≤ o.row0)
          ∨ (o.trans ∧ l.e = 27 ∧ o.brows % 3 ≠ 0) then fr.fail .copyBounds
      else
        match minCheck (earlyOnly fr.s ag (tcopyReq false) target) (earlyOnly fr.s ag (tcopyReq true) barrier) with
        | some (_, c) => fr.fail c
        | none =>
          let tpath := bufPath (addrPath target)
          if (tpath ≠ some 0 ∧ tpath ≠ some 1) ∨ bufPath (addrPath barrier) ≠ some 0 then fr.fail .bufferPathForbidden
          else
            match bufPairCheck fr.s ag (tcopyReq false) target (tcopyReq true) barrier with
            | some c => fr.fail c
            | none =>
              let path := tpath.getD 0
              let nt := o.tiles l
              if bufLimit fr.s ag path target < 243 * (bufPos target / 243 + l.planes * nt) then fr.fail .bufferBounds
              else
                match fr.s.smoothFactors ag crew l o with
                | .error c => fr.fail c
                | .ok factors =>
                  let reads := copyReads l o
                  let spans := reads.flatMap (fun e => copySpans l e.1 e.2)
                  match fr.copySource l spans with
                  | .error h => .error h
                  | .ok pages =>
                    let blocs := [-1, 0, 1].map (bufLoc fr.s ag barrier)
                    if fr.s.tcFull ag.core || fr.g.storing fr.sp.idx blocs then .error (.block fr.s)
                    else
                      let tcore := ag.bufCore target
                      let tile0 : Nat := match bufLoc fr.s ag target 0 with | .buf _ _ i => i / 243 | _ => 0
                      let rfoot := match spanRange spans with
                        | some (lo, hi) => [(⟨true, ag.domain, lo, hi, false⟩ : Foot)]
                        | none => []
                      let wfoot : Foot := ⟨false, 3 * tcore + path, 243 * (tile0 : Int), 243 * ((tile0 + l.planes * nt : Nat) : Int) - 1, true⟩
                      let job : TcJob :=
                        { core := ag.core, launch := ag.launch, domain := ag.domain, work := .tcopy l o factors pages tcore path tile0
                          barrier := blocs, crews := [(tcore, ag.crew), (ag.bufCore barrier, ag.crew)].eraseDups, done := []
                          fault := none, foot := wfoot :: rfoot, waits := [] }
                      let pad := (o.trows l * o.tcols l - reads.length) * l.tpe * l.planes
                      let status : Word := Tern.ofInt 27 ((243 * l.planes * nt : Nat) + (pad : Int) * 3 ^ 13)
                      .ok (job, status)

/-- TCOPY (R268 to R270). -/
def execTcopy (f : LFmt) (s : State) : Out :=
  runOp s f.r.h (tcopyUse f) 2 fun fr s1 =>
    if !fr.any then .ok s1
    else
      match fr.tcopyJob f with
      | .error h => .error h
      | .ok (job, status) => .ok (fr.writes (s1.tcAccept job) 0 [.s f.r.d.index status])

/-! ## The job -/

/-- The place of a source tryte under the translations of acceptance (R375). -/
def pageLoc (pages : FMap (Bool × Nat)) (a : Addr) : Option Loc :=
  (mapFind (pageKey a) pages).map (fun e => if e.1 then .binary e.2 (pagePos a) else .packed e.2 (pagePos a))

/-- The trytes of one span of a source element (R272). -/
def State.spanTrytes (s : State) (pages : FMap (Bool × Nat)) (sp : Addr × Nat) : Except Cause (List Tryte) :=
  let locs := (List.range sp.2).filterMap (fun (i : Nat) => pageLoc pages (addrAdd sp.1 (i : Int)))
  if locs.any (fun l => s.locPoisoned l) then .error .poisonedData else s.readLocs locs

/-- Every span's trytes, or the first fault with the number of its span. -/
def State.spansTrytes (s : State) (pages : FMap (Bool × Nat)) : Nat → List (Addr × Nat) → Except (Nat × Cause) (List (List Tryte))
  | _, [] => .ok []
  | q, sp :: t =>
    match s.spanTrytes pages sp with
    | .error c => .error (q, c)
    | .ok x => match s.spansTrytes pages (q + 1) t with | .ok xs => .ok (x :: xs) | .error e => .error e

/-- A value divided by its smoothing factor (R271). -/
def smoothed (f : Option Word) (v : BVal) : BVal :=
  match f with
  | none => v
  | some w =>
    match v with
    | .inf neg => .inf (match fval tf27 w.val with | .fin m _ => if m < 0 then !neg else neg | _ => neg)
    | v => scaled true w v

/-- A float value put into ELT by `fpack` with saturation; a saturation or flush is counted (R271), and where the element has been converted
so is an infinity or a NaN (R51, R442). -/
def packSat (F : Fmt) (converted : Bool) (v : BVal) : Int × ConvEvents :=
  match v with
  | .fin n d =>
    match fpack F .saturate (.rat n d 0) with
    | .ok (c, fl) => (c, if fl.overflow then [0] else if fl.flush then [1] else [])
    | .error _ => (nanCode, [])
  | .inf neg => (infCode F neg, if converted then [2] else [])
  | .nan => (nanCode, if converted then [2] else [])

/-- One part of an element from its trytes: the code and its counted events (R271, R180). -/
def partCode (l : Layout) (factor : Option Word) (trytes : List (List Tryte)) : Except Cause (Int × ConvEvents) :=
  let value : Except Cause BVal :=
    if l.enc = 0 then
      let ts := trytes.flatten
      let code := if l.n = 9 then (ts.getD 0 (Tern.zero 9)).val else if l.n = 27 then (wordOfTrytes ts).val
        else (mkPair (wordOfTrytes ts) (wordOfTrytes (ts.drop 3))).val
      .ok (ternValue l.float l.n code)
    else
      let bs := (trytes.flatten).map tryteByte
      if bs.any Option.isNone then .error .badByteCode
      else
        let raw := bs.map (fun b => b.getD 0#8)
        if l.enc = 14 then (match p5dec l.n raw with | none => .error .badByteCode | some t => .ok (scaled false l.scale (ternValue l.float l.n t.val)))
        else .ok (scaled false l.scale (binDecode l.enc raw))
  match value with
  | .error c => .error c
  | .ok v =>
    if l.float then .ok (packSat (fmtBits l.n) (l.enc != 0 && !(l.enc == 14 && l.scale == wzero)) (smoothed factor v))
    else toIntRange (-(half l.n : Int)) (half l.n : Int) l.policy v

/-- The plane codes of a value from the codes of its parts (R266, R271): imaginary planes are inverted by CONJ, trit by trit (log 116). -/
def planeCodes (l : Layout) (conj : Bool) (parts : List Int) : List Int :=
  let ps := match parts with | [re, im] => [re, if conj then -im else im] | p => p
  if l.ppp = 2 then ps.flatMap (fun c => let a : Addr := Tern.ofInt 54 c; [(pairLo a).val, (pairHi a).val]) else ps

/-- Spans of part `p` among the spans of an element. -/
def partSpans (l : Layout) (p : Nat) (xs : List (List Tryte)) : List (List Tryte) :=
  if l.enc ≠ 0 then (xs.drop p).take 1 else (xs.drop (p * l.ppp)).take l.ppp

/-- The parts of an element one after another; counted events are added as they arise, and an event that passes a threshold
is the part's fault (R271, R272, R183). -/
def State.copyParts (s : State) (launch : Nat) (l : Layout) (factor : Option Word) (xs : List (List Tryte)) :
    Nat → Nat → State × Except (Nat × Cause) (List Int)
  | 0, _ => (s, .ok [])
  | k + 1, p =>
    match partCode l factor (partSpans l p xs) with
    | .error c => (s, .error (p * l.ppp, c))
    | .ok (code, ev) =>
      let (s1, hits) := s.countEvents launch l.cslot (ev.map (fun e => (0, e)))
      if !hits.isEmpty then (s1, .error (p * l.ppp, .conversionThreshold))
      else
        match s1.copyParts launch l factor xs k (p + 1) with
        | (s2, .ok cs) => (s2, .ok (code :: cs))
        | (s2, .error e) => (s2, .error e)

/-- One target element of a copy: its plane codes, and a fault with its plane (R271, R272). PADVAL of a complex ELT is the real part, the
imaginary part being 0 (DESIGN CHOICE, log 114). -/
def State.copyElem (s : State) (launch : Nat) (l : Layout) (o : CopyOpts) (factors : FMap Word) (pages : FMap (Bool × Nat)) (src : CopySrc) :
    State × List Int × Option (Nat × Cause) :=
  let zeros := List.replicate l.planes (0 : Int)
  match src with
  | .edge => (s, zeros, none)
  | .pad => (s, planeCodes l o.conj ((padCode l.elt l.padval).getD 0 :: List.replicate (l.parts - 1) 0), none)
  | .elem i c =>
    match s.spansTrytes pages 0 (copySpans l i c) with
    | .error (q, e) => (s, zeros, some (if l.enc ≠ 0 then q * l.ppp else q, e))
    | .ok xs =>
      match s.copyParts launch l (if o.smooth then mapFind c.toNat factors else none) xs l.parts 0 with
      | (s1, .ok codes) => (s1, planeCodes l o.conj codes, none)
      | (s1, .error (q, e)) => (s1, zeros, some (q, e))

/-- The lesser of two faults in the order of R272. -/
def firstFault (a b : Option (List Nat × Nat)) : Option (List Nat × Nat) :=
  match a, b with
  | some x, some y => if List.lex y.1 x.1 then some y else some x
  | some x, none => some x
  | none, y => y

/-- One element of a target tile: its plane codes and its fault with its place in the order of R272. -/
def State.copyCell (s : State) (launch : Nat) (l : Layout) (o : CopyOpts) (factors : FMap Word) (pages : FMap (Bool × Nat)) (tile r k : Nat) :
    State × List Int × Option (List Nat × Nat) :=
  let (s1, codes, f) := s.copyElem launch l o factors pages (copySrc l o (9 * (tile / o.tcb l) + r) (l.e * (tile % o.tcb l) + k))
  (s1, codes, f.map (fun e => ([e.1, tile, r, k], e.2.code)))

/-- The elements of a target tile in order: their plane codes and the first fault (R272); one that has been read already stays as it was
read. -/
def State.copyTile (s : State) (launch : Nat) (l : Layout) (o : CopyOpts) (factors : FMap Word) (pages : FMap (Bool × Nat))
    (fixed : FMap (List Int)) (tile : Nat) : List (Nat × Nat) → State × List (List Int) × Option (List Nat × Nat)
  | [] => (s, [], none)
  | (r, k) :: t =>
    let (s1, codes, f) := match mapFind (243 * tile + (r * l.e + k)) fixed with
      | some codes => (s, codes, none)
      | none => s.copyCell launch l o factors pages tile r k
    let (s2, rest, g) := s1.copyTile launch l o factors pages fixed tile t
    (s2, codes :: rest, firstFault f g)

/-- The trytes of a plane of a tile from its elements' codes, in tile order (R163, R311). -/
def planeTrytes (l : Layout) (codes : List (List Int)) (q : Nat) : List Tryte :=
  codes.flatMap (fun cs => if l.n = 9 then [(Tern.ofInt 9 (cs.getD q 0) : Tryte)] else trytesOfWord (Tern.ofInt 27 (cs.getD q 0)))

/-- What is left of a plane's trytes, those written early left out (R243). -/
def restOf {α : Type} (early : List Nat) (q : Nat) (xs : List α) : List α :=
  if early.isEmpty then xs else ((List.range xs.length).zip xs).filterMap (fun e => if early.contains (243 * q + e.1) then none else some e.2)

/-- The places of a buffer tile's trytes. -/
def tileLocs (core path tile : Nat) : List Loc := (List.range 243).map (fun i => .buf core path (243 * tile + i))

/-- A job changed. -/
def State.setTc (s : State) (id : Nat) (j : TcJob) : State := { s with tcJobs := mapInsert id j s.tcJobs }

/-- The position of a crew's tile in its allocation (R282). -/
def State.crewPos (s : State) (launch core crew path tile : Nat) : Nat :=
  match s.crew? launch core crew with | some c => 243 * (tile - c.base.getD path 0) + 121 | none => 121

/-- The tiles of DRAM that a target tile reads under the translations of acceptance, by coordinate (R171, R271). -/
def copyTiles (l : Layout) (o : CopyOpts) (pages : FMap (Bool × Nat)) (tile : Nat) (cells : List (Nat × Nat)) : FMap Bool :=
  (cells.flatMap (fun e => match copySrc l o (9 * (tile / o.tcb l) + e.1) (l.e * (tile % o.tcb l) + e.2) with
    | .elem i c => (copySpans l i c).flatMap (fun sp => [pageLoc pages sp.1, pageLoc pages (addrAdd sp.1 ((sp.2 : Int) - 1))])
    | _ => [])).foldl (fun m x => match x.bind Loc.tile with
      | some (f, t, _) => mapInsert (tileCoord f t) true m
      | none => m) []

/-- Tiles that an engine job has moved, charged to its crew (R399). -/
def State.chargeJob (s : State) (j : TcJob) (n : Nat) : State :=
  match j.crews with
  | [] => s
  | (_, k) :: _ => s.modCrew j.launch j.core k (fun c => { c with moved := c.moved + n })

/-- The source tiles of a target tile fetched (R171, R172): paths 0 and +1 allocate in L2, a tensor-tiled tile under the tag of its layout,
a tile of a linear page under tensor 0 whatever its layout is. -/
def State.copyFetch (s : State) (j : TcJob) (l : Layout) (tiles : FMap Bool) : State :=
  let tag := fun (c : Nat) => if l.tiled && s.tiledFrame (c / 243) then l.tensor else wzero
  let s1 := if addrPath l.base = 0 ∨ addrPath l.base = 1 then tiles.foldl (fun st e => st.l2Put e.1 false (some (tag e.1))) s else s
  s1.chargeJob j tiles.length

/-- The writing of a target tile's planes, with its publication (R271 to R273, R313): the state, and the faults met; none while a
pinned entry delays the publication. -/
def State.copyWrite (s : State) (j : TcJob) (tile : Nat) : Option (State × Option (List Nat × Nat)) :=
  match j.work with
  | .migrate _ _ _ _ => none
  | .tcopy l o factors pages core path tile0 =>
    let nt := o.tiles l
    let cells := (List.range 9).flatMap (fun r => (List.range l.e).map (fun k => (r, k)))
    let (s1, codes, f) := (s.copyFetch j l (copyTiles l o pages tile cells)).copyTile j.launch l o factors pages j.fixed tile cells
    let s2 := (List.range l.planes).foldl (fun st q =>
      (st.writeLocs (restOf (mapGet [] j.early tile) q (tileLocs core path (tile0 + q * nt + tile)))
        (restOf (mapGet [] j.early tile) q (planeTrytes l codes q))).setTag core path (tile0 + q * nt + tile) l.elt) s1
    if !o.pub then some (s2, f)
    else
      let crew := ((j.crews.find? (fun e => e.1 == core)).map (·.2)).getD 0
      let at_ : DirAt := ⟨core, j.launch, crew, path, s.crewPos j.launch core crew path (tile0 + tile)⟩
      if s.dirPinned at_ then none
      else
        match s2.publishNow at_ l.tensor (o.row0 + (tile / o.tcb l : Nat)) (o.col0 + (tile % o.tcb l : Nat)) with
        | .ok s3 => some (s3, f)
        | .error c => some (s2, firstFault f (some ([0, tile, 9, 0], c.code)))

/-- Planes and tiles of a copy. -/
def TcJob.extent (j : TcJob) : Nat × Nat :=
  match j.work with
  | .tcopy l o _ _ _ _ _ => (l.planes, o.tiles l)
  | .migrate _ _ _ _ => (0, 0)

/-- What the counted events of a copy wait for (R271, R374, R381, R443). -/
def State.copyWait (s : State) (j : TcJob) : Option State :=
  match j.work with
  | .tcopy l o _ _ _ _ _ => s.jcbWait j.launch (if l.enc != 0 || o.smooth then slotWords l.cslot else [])
  | .migrate _ _ _ _ => none

/-- TCOPY_TILE_COMPLETE (R271 to R273, R276): a target tile of a plane is complete and its trytes arrive at the barrier. -/
def execTcopyTileComplete (job plane tile : Nat) (s : State) : Out :=
  .next (match mapFind job s.tcJobs with
    | none => s
    | some j =>
      let (planes, nt) := j.extent
      let held := j.waits.any (fun w => (mapFind w s.tcJobs).isSome)
      if held || decide (planes ≤ plane) || decide (nt ≤ tile) || j.done.contains (plane, tile) || (plane != 0 && !j.done.contains (0, tile)) then s
      else match s.copyWait j with
      | some s1 => s1
      | none =>
        match (if plane = 0 then s.copyWrite j tile else some (s, none)) with
        | none => s
        | some (s1, f) =>
          let j1 := { j with done := (plane, tile) :: j.done, fault := firstFault j.fault f }
          let s2 := s1.setTc job j1
          match (if j1.done.length = planes * nt then j1.fault else none) with
          | some (_, code) => s2.mapWord j.barrier (fun w => faultWord w code)
          | none => s2.arriveAt j.barrier 243)

/-- A tryte of a tile that a job has written early, noted (R243). -/
def TcJob.noteEarly (j : TcJob) (tile idx : Nat) : TcJob := { j with early := mapInsert tile (idx :: mapGet [] j.early tile) j.early }

/-- One tryte of a target tile of a copy written early: its element is read, once (R271), and its tryte written, once. -/
def State.tcopyEarly (s : State) (job : Nat) (j : TcJob) (l : Layout) (o : CopyOpts) (factors : FMap Word) (pages : FMap (Bool × Nat))
    (core path tile0 tile idx : Nat) : State :=
  let q := idx / 243
  let cell := if l.n = 9 then idx % 243 else idx % 243 / 3
  let (s1, codes, f) := match mapFind (243 * tile + cell) j.fixed with
    | some codes => (s, codes, none)
    | none => s.copyCell j.launch l o factors pages tile (cell / l.e) (cell % l.e)
  match (planeTrytes l [codes] q)[if l.n = 9 then 0 else idx % 3]? with
  | none => s
  | some t =>
    (s1.writeLocs [.buf core path (243 * (tile0 + q * o.tiles l + tile) + idx % 243)] [t]).setTc job
      ({ j with fixed := mapInsert (243 * tile + cell) codes j.fixed, fault := firstFault j.fault f }.noteEarly tile idx)

/-- One tryte of a target tile that its copy, or its migration, has already written, while the tile is not complete (R243, R271: the elements
of a tile are written in any order, and until the signal a tryte has its old value or the job's). `idx` counts the trytes of the tile's
planes. -/
def execTcopyTryteWritten (job tile idx : Nat) (s : State) : Out :=
  .next (match mapFind job s.tcJobs with
    | none => s
    | some j =>
      if j.waits.any (fun w => (mapFind w s.tcJobs).isSome) || (mapGet [] j.early tile).contains idx then s
      else
        match j.work with
        | .migrate _ _ a b =>
          if tile != 0 || decide (243 ≤ idx) then s
          else
            (match s.readLoc (.buf a.1 a.2.1 (243 * a.2.2 + idx)) with
            | .ok t => (s.writeLocs [.buf b.1 b.2.1 (243 * b.2.2 + idx)] [t]).setTc job (j.noteEarly tile idx)
            | .error _ => s)
        | .tcopy l o factors pages core path tile0 =>
          if decide (o.tiles l ≤ tile) || decide (l.planes ≤ idx / 243) || j.done.contains (0, tile) then s
          else match s.copyWait j with
            | some s1 => s1
            | none => s.tcopyEarly job j l o factors pages core path tile0 tile idx)

/-- TCOPY_JOB_COMPLETE (R242): a copy whose tiles are all complete; jobs held by it may go on. -/
def execTcopyJobComplete (job : Nat) (s : State) : Out :=
  .next (match mapFind job s.tcJobs with
    | none => s
    | some j =>
      let (planes, nt) := j.extent
      if j.done.length = planes * nt ∧ planes ≠ 0 then { s with tcJobs := mapErase job s.tcJobs } else s)

/-! ## Barrier instructions -/

/-- The access of a barrier word by an instruction of block +2. -/
def barrierOp (f : MFmt) (kind : AccKind) : MemOp := { scalarWord f with kind := kind }

/-- What `BINIT`, `BARRV` and `BQRY` ask of their word, which a record may make read-only (R278). -/
def barrierRq (write : Bool) (r : Option Rec) : Req := barrierReq write (match r with | some r => !r.write | none => false)

/-- BINIT (R278): a relaxed store of the word. -/
def execBinit (f : MFmt) (s : State) : Out :=
  runOp s f.h { resv := resvPred f.h, opds := scalarOpds f true false } 1 fun fr s1 =>
    if !fr.any then .ok s1
    else if barrierCount (fr.readS 0 f.d.index) < 0 then fr.fail .reservedField
    else fr.accessAs s1 (barrierOp f .store) (nativeRecord fr.s fr.g f.recd.index) (barrierRq true)

/-- BQRY (R278): a relaxed load of the word. -/
def execBqry (f : MFmt) (s : State) : Out :=
  runOp s f.h { resv := resvPred f.h, opds := scalarOpds f false true } 1 fun fr s1 =>
    fr.accessAs s1 (barrierOp f .load) (nativeRecord fr.s fr.g f.recd.index) (barrierRq false)

/-- BARRV (R276, R278): an arrival made once the split's earlier accesses are performed; one that is too large is refused. -/
def execBarrv (f : MFmt) (s : State) : Out :=
  runOp s f.h { resv := resvPred f.h, opds := scalarOpds f true false } 1 fun fr s1 =>
    if !fr.any then .ok s1
    else
      let n := (fr.readS 0 f.d.index).val
      if n < 0 then fr.fail .reservedField
      else
        match fr.wordPlace f (barrierReq true) with
        | .error h => .error h
        | .ok (a, locs) =>
          let counter := pathCounter (addrPath a) (ownBuf a && !fr.g.isSeq) true
          if !fr.drained then .error (.block fr.s)
          else if 81 ≤ fr.g.inflight counter then .error .full
          else
            match fr.s.readLocs locs with
            | .error c => fr.fail c
            | .ok ts =>
              let c := barrierCount (wordOfTrytes ts)
              if 0 ≤ c ∧ c < n then fr.fail .barrierUnderflow
              else
                let watch := watchHit (fr.s.launch? fr.g.launch) true true [addrAdd a (-1), a, addrAdd a 1]
                let acc : Access :=
                  { seq := fr.g.nextSeq, kind := .flush, pc := fr.sp.pc, split := fr.sp.idx, before := [fr.sp.idx], joined := []
                    path := counter, counters := [counter], lanes := [], dest := none, killed := [], conv := none, size := 3, region := fr.sp.region, ecount := fr.sp.ecount
                    done := false, acq := false, rel := false, scope := 0, events := [], hold := false, watch := watch }
                let s2 := (s1.arriveAt locs n.toNat).modGroup fr.key (fun g => { g.takeSeq with infl := g.infl ++ [acc] })
                .ok (if watch.isSome then fr.hold s2 (.held acc.seq) else s2)

/-! ## RECLD -/

/-- What `RECLD` asks of its words: what admits an `LDS27` (R174, R281). -/
def recldReq : Req :=
  { write := false, atomic := false, aligned := wordAligned, users := fun b own => b == 0 || (b == 2 && own) }

/-- The twelve words read through the core's L1 as loads read them (R172, R281), those of this device's own peer window where they are served
here (R165, R413): the words or the first word's cause, and the state with the events of refusals. -/
def State.recldWords (s : State) (core domain : Nat) : List LaneAcc → State × Except Cause (List Word)
  | [] => (s, .ok [])
  | la :: t =>
    match s.reachRead domain la.locs with
    | (s1, .error c) => (s1, .error c)
    | (_, .ok at_) =>
      match s.readLane core { la with locs := at_ }, s.recldWords core domain t with
      | .ok ts, (s1, .ok ws) => (s1, .ok (wordOfTrytes ts :: ws))
      | .error c, _ => (s, .error c)
      | _, e => e

/-- A record of a crew, or of a context's own copy, replaced (R178, R281). -/
def State.setRecord (s : State) (g : Group) (k : Nat) (ws : List Word) : State :=
  match g.ctx with
  | some _ => s.modGroup g.key (fun g => { g with ctx := g.ctx.map (fun c => { c with records := setAt c.records k ws }) })
  | none => s.modCrew g.launch g.core g.crew (fun c => { c with records := setAt c.records k ws })

/-- What `RECLD` uses. -/
def recldUse (f : MFmt) : Use :=
  { resv := resvPred f.h || decide (7 < f.d.index)
    opds := [if f.recd.index = 8 then pairOpd f.a.index true false else regOpd false f.a.index true false] }

/-- The addresses of the twelve words, and whether they leave their record (R281). -/
def Fr.recldAddrs (fr : Fr) (f : MFmt) (r : Option Rec) : List Addr × Bool :=
  let m := scalarWord f
  let x := if m.recIdx = 8 then 0 else fr.recOfs m 0
  let a0 := match r with | some r => addrAdd r.base x | none => fr.addrOf m 0
  ((List.range 12).map (fun (i : Nat) => addrAdd a0 (3 * (i : Int))),
   match r with | some r => decide (x < 0) || decide (r.extent ≤ x + 33) | none => false)

/-- The twelve words as a load would read them (R281). -/
def recldLanes (seq : Bool) (addrs : List Addr) (ps : List Place) : List LaneAcc :=
  (addrs.zip ps).map (fun e => laneAcc seq 0 (addrAdd e.1 (-1)) [e.2] ((placeLocs [-1, 0, 1] [e.2]).getD []) [] azero azero false)

/-- Whether an earlier access of the split must return before `RECLD` reads (R232, R235). -/
def Fr.recldWaits (fr : Fr) (addrs : List Addr) (locs : List Loc) : Bool :=
  !fr.s.readFree fr.g fr.sp.idx locs || addrs.any (fun a => fr.s.logged fr.key fr.sp.idx a)

/-- A trap of an instruction that leaves events of its own behind it: a read refused by this device, or failed at the host (R165, R410). -/
def Fr.trapAfter (fr : Fr) (s : State) (c : Cause) : State := s.takeTrap fr.key fr.sp.idx (fr.trap c)

/-- Whether a read of host memory by a split's `RECLD` fails (R410). -/
def Fr.hostFails (fr : Fr) (locs : List Loc) : Bool := locs.any Loc.onHost && fr.s.hostFails.contains (fr.key, fr.sp.idx)

/-- RECLD (R281). -/
def execRecld (f : MFmt) (s : State) : Out :=
  runOp s f.h (recldUse f) 1 fun fr s1 =>
    if !fr.any then .ok s1
    else
      match nativeRecord fr.s fr.g f.recd.index with
      | .error c => fr.fail c
      | .ok r =>
        let (addrs, bounds) := fr.recldAddrs f r
        match laneCheck fr.s (fr.g.agent fr.sp.idx) recldReq bounds addrs with
        | .fail c => fr.fail c
        | .wait s2 => .error (.block s2)
        | .ok ps =>
          let las := recldLanes fr.g.isSeq addrs ps
          let locs := las.flatMap (fun la => la.locs)
          if fr.recldWaits addrs locs then .error (.block fr.s)
          else if fr.hostFails locs then
            .ok (fr.trapAfter { fr.s with hostFails := fr.s.hostFails.filter (fun e => e != (fr.key, fr.sp.idx)) } .hostWindowError)
          else match fr.s.ownKey fr.g.domain false locs with
          | some k => .error (.block (fr.s.askKey k))
          | none =>
            let s2 := las.foldl (fun st la => st.cacheLoad fr.key fr.g.core la) (addrs.foldl (fun st a => st.tlbCopy (fr.g.agent fr.sp.idx) a) s1)
            match s2.recldWords fr.g.core fr.g.domain las with
            | (_, .error c) => .ok (fr.trapAfter (fr.s.recldWords fr.g.core fr.g.domain las).1 c)
            | (_, .ok ws) =>
              let watch := watchHit (fr.s.launch? fr.g.launch) false true (tryteAddrs addrs [-1, 0, 1])
              let s3 := s2.setRecord fr.g f.d.index ws
              .ok (match watch with | some i => fr.hold s3 (.watched i) | none => s3)

end Sys2Proof.Machine
end

