-- ==== Sys2Proof/Machine/Queue.lean ====
section
/-! DEFINITION. User queues: descriptors, the notify registers, packets and their checks, the argument block, and `ENQ` (R280,
R334 to R341, R443). -/

namespace Sys2Proof.Machine

/-! ## Bytes of a domain -/

/-- The place of a byte that Daymark or a producer reaches in a domain: it must lie on a binary frame (R334). -/
def State.byteLoc (s : State) (domain : Nat) (write : Bool) (a : Addr) : Except Cause Loc :=
  match s.sysPlace domain a write with
  | .error c => .error c
  | .ok (loc, _) => match loc 0 with | .binary f pos => .ok (.binary f pos) | _ => .error .badRecord

/-- The places of consecutive bytes of a domain. -/
def State.byteLocs (s : State) (domain : Nat) (write : Bool) (a : Addr) : Nat → Except Cause (List Loc)
  | 0 => .ok []
  | n + 1 =>
    match s.byteLoc domain write a, s.byteLocs domain write (addrAdd a 1) n with
    | .ok l, .ok ls => .ok (l :: ls)
    | .error c, _ => .error c
    | _, .error c => .error c

/-- The bytes at places of binary frames or host pages. -/
def State.bytesAt (s : State) (ls : List Loc) : List (BitVec 8) :=
  ls.map (fun l => match s.readLoc l with | .ok t => (tryteByte t).getD 0#8 | .error _ => 0#8)

/-- Bytes written at places, each where its tile's home slice holds it (R171). -/
def State.putBytes (s : State) (ls : List Loc) (bs : List (BitVec 8)) : State := s.homeWrite ls (bs.map byteTryte)

/-! ## Queue descriptors -/

/-- The places of a field of a queue's descriptor, in the table whose base system software has set (R334, R404). -/
def State.queueLocs (s : State) (q ofs n : Nat) : List Loc :=
  (List.range n).map (fun i => .binary (s.ctrl.qtable + q / 922) (64 * (q % 922) + ofs + i))

/-- Bytes of a queue's descriptor: until QTABLE is written the descriptors stand at their reset values, apart from DRAM, which a start clears
otherwise (R28, R334, R404; DESIGN CHOICE, log 101). -/
def State.queueBytes (s : State) (q ofs n : Nat) : List (BitVec 8) :=
  if s.ctrl.qset then s.bytesAt (s.queueLocs q ofs n) else (List.range n).map (fun i => BitVec.ofNat 8 (mapGet 0 s.ctrl.qboot (64 * q + ofs + i)))

/-- A field of a queue's descriptor. -/
def State.queueNat (s : State) (q ofs n : Nat) : Nat := leNat (s.queueBytes q ofs n)

/-- A field of a queue's descriptor written. -/
def State.setQueue (s : State) (q ofs n v : Nat) : State :=
  if s.ctrl.qset then s.putBytes (s.queueLocs q ofs n) (leBytes n v)
  else { s with ctrl := { s.ctrl with qboot := (List.range n).foldl (fun m i => mapSet 0 m (64 * q + ofs + i) ((leBytes n v).getD i 0#8).toNat) s.ctrl.qboot } }

/-- The fields of a descriptor (R334). -/
def State.qRing (s : State) (q : Nat) : Option Addr := p5dec 54 (s.queueBytes q 0 11)
def State.qLog (s : State) (q : Nat) : Nat := s.queueNat q 11 1
def State.qSlots (s : State) (q : Nat) : Nat := 2 ^ s.qLog q
def State.qEnabled (s : State) (q : Nat) : Bool := s.queueNat q 12 1 % 2 == 1
def State.qPrivileged (s : State) (q : Nat) : Bool := s.queueNat q 12 1 / 2 % 2 == 1
def State.qStopped (s : State) (q : Nat) : Bool := s.queueNat q 12 1 / 4 % 2 == 1
def State.qDomain (s : State) (q : Nat) : Nat := s.queueNat q 14 2
def State.qReserve (s : State) (q : Nat) : Nat := s.queueNat q 16 8
def State.qWrite (s : State) (q : Nat) : Nat := s.queueNat q 24 8
def State.qRead (s : State) (q : Nat) : Nat := s.queueNat q 32 8
def State.qQuantum (s : State) (q : Nat) : Nat := s.queueNat q 40 4
/-- A signed number of 64 bits from its code, and back. -/
def signed64 (n : Nat) : Int := if n < 2 ^ 63 then (n : Int) else (n : Int) - 2 ^ 64
def State.qDeficit (s : State) (q : Nat) : Int := signed64 (s.queueNat q 44 8)
def State.setDeficit (s : State) (q : Nat) (d : Int) : State := s.setQueue q 44 8 (d % 2 ^ 64).toNat

/-- STOPPED set with its cause (R334, R353 kind Q). -/
def State.stopQueue (s : State) (q : Nat) (c : Cause) : State :=
  let ctrl := s.queueNat q 12 1
  let s1 := (s.setQueue q 12 1 (if ctrl / 4 % 2 = 1 then ctrl else ctrl + 4)).setQueue q 13 1 c.code
  { s1 with day := { s1.day with heads := mapErase q s1.day.heads, visit := if s1.day.visit = some q then none else s1.day.visit } }

/-- Why a descriptor is not served (R334, R367); a ring whose key slot is not loaded waits for the key (R374). -/
def State.descCause (s : State) (q : Nat) : Option Cause :=
  match s.qRing q with
  | none => some .badRecord
  | some ring =>
    if s.qLog q < 4 ∨ 16 < s.qLog q ∨ s.qQuantum q = 0 ∨ pagePos ring % 64 ≠ 0 then some .badRecord
    else if s.qDomain q = 0 ∧ !s.qPrivileged q then some .noAccess
    else
      match s.byteLoc (s.qDomain q) false ring with
      | .ok _ => none
      | .error c => if (s.sysKey (s.qDomain q) ring false).isSome then none else some c

/-- The address of a slot (R334). -/
def State.slotAddr (s : State) (q i : Nat) : Addr := addrAdd ((s.qRing q).getD azero) (64 * (i % s.qSlots q : Nat))

/-- A write to a queue's notify register (R335); in minimal mode a kicked queue is stopped (R420). -/
def State.notify (s : State) (q v : Nat) : State :=
  let s1 := s.setQueue q 24 8 (max v (s.qWrite q))
  let s2 : State := { s1 with kicks := if s1.kicks.contains q then s1.kicks else s1.kicks ++ [q] }
  if s.ctrl.minimal then (if s.qEnabled q then s2.stopQueue q .noAccess else s2)
  else if s.qRead q + s.qSlots q < v then s2.stopQueue q .queueFull
  else s2

/-- A record of Daymark's journal; an active core that has trapped writes none (R351). -/
def State.journal (s : State) (r : JournalRec) : State :=
  if s.day.down then s else { s with day := { s.day with journal := s.day.journal ++ [r] } }

/-- DEFICIT changed, and journalled before (R342, R351). -/
def State.changeDeficit (s : State) (q : Nat) (d : Int) : State := (s.journal (.deficit q d)).setDeficit q d

/-- Cycles of groups charged to a queue: 191ths of a core-cycle, the rest carried (R342). While no Daymark core acts the charge waits for the
standby, which journals it (R351). -/
def State.chargeQueue (s : State) (q units : Nat) : State :=
  if s.day.down then { s with day := { s.day with owed := s.day.owed ++ [(q, units)] } }
  else
  let u := mapGet 0 s.day.rest q + units
  let s1 := s.changeDeficit q (s.qDeficit q - ((u / 191 : Nat) : Int))
  { s1 with day := { s1.day with rest := mapSet 0 s1.day.rest q (u % 191) } }

/-- A context that leaves its sequencer charged: as one group of the cluster's rank-0 core to its queue; its share of this interval's
static energy is its launch's (R342, R399). -/
def State.chargeContext (s : State) (g : Group) : State :=
  match g.ctx, s.launch? g.launch with
  | some c, some l => (s.chargeQueue l.queue (s.now - c.since)).modLaunch g.launch (fun l => { l with seqLeft := l.seqLeft ++ [(clusterOf g.core, c.cycles)] })
  | _, _ => s

/-! ## Completion counters -/

/-- The places of a completion counter (R212, R338): BAD_RECORD where its address is none, and the cause of the access (R212, R242). -/
def State.counterLocs (s : State) (domain : Nat) (a : Addr) (write : Bool) : Except Cause (List Loc) :=
  let p := addrPath a
  if p ≠ 0 ∧ p ≠ 2 ∧ p ≠ 3 ∧ p ≠ 4 then .error .badRecord
  else if pagePos a % 8 ≠ 0 ∨ 59040 < pagePos a then .error .badRecord
  else
    match s.sysPlace domain a write with
    | .error c => .error c
    | .ok (loc, _) =>
      match loc 0 with
      | .packed _ _ => .error .atomicUnsupportedRegion
      | .buf _ _ _ => .error .badRecord
      | _ => .ok ((List.range 8).map (fun (i : Nat) => loc (i : Int)))

/-- Whether a packet's counter field is none or a counter (R338, R340). -/
def State.counterOk (s : State) (domain : Nat) (a : Addr) : Bool :=
  a == azero || (match s.counterLocs domain a true with | .ok _ => true | .error _ => false)

/-- An addition to a completion counter at system scope, and the STATUS that its failure gives (R242). -/
def State.counterAdd (s : State) (domain : Nat) (a : Addr) (n : Nat) : State × Nat :=
  if a = azero then (s, 0)
  else
    match s.counterLocs domain a true with
    | .error c => (s, c.code)
    | .ok ls =>
      if ls.any s.locPoisoned then (s, Cause.poisonedData.code)
      else (s.putBytes ls (leBytes 8 (leNat (s.bytesAt ls) + n)), 0)

/-! ## Packets -/

/-- A byte and a little-endian field of a packet. -/
def pkNat (b : List (BitVec 8)) (ofs n : Nat) : Nat := byteField b ofs n

/-- A P5 address field of a packet (R338). -/
def pkAddr (b : List (BitVec 8)) (ofs : Nat) : Except Cause Addr :=
  match p5dec 54 ((b.drop ofs).take 11) with | some a => .ok a | none => .error .badByteCode

/-- Whether bytes of a packet are all zero. -/
def pkZero (b : List (BitVec 8)) (ofs : Nat) : Bool := (b.drop ofs).all (fun x => x == 0#8)

/-- A word of a domain's packed memory as Daymark reads it (R341). -/
def State.sysWord (s : State) (domain : Nat) (a : Addr) : Except Cause Word :=
  match s.sysPlace domain a with
  | .error c => .error c
  | .ok (loc, _) =>
    match loc 0 with
    | .packed f pos =>
      if s.poisoned f (pos / 243) then .error .poisonedData
      else match s.readLocs [loc (-1), loc 0, loc 1] with | .ok ts => .ok (wordOfTrytes ts) | .error c => .error c
    | _ => .error .badRecord

/-- Consecutive words of a domain's packed memory. -/
def State.sysWords (s : State) (domain : Nat) (a : Addr) : Nat → Except Cause (List Word)
  | 0 => .ok []
  | n + 1 =>
    match s.sysWord domain a, s.sysWords domain (addrAdd a 3) n with
    | .ok w, .ok ws => .ok (w :: ws)
    | .error c, _ => .error c
    | _, .error c => .error c

/-- Whether an address of a domain lies on a packed, read-write page (R443). -/
def State.packedPage (s : State) (domain : Nat) (a : Addr) : Bool :=
  match s.sysPlace domain a true with
  | .ok (loc, _) => (match loc 0 with | .packed _ _ => true | _ => false)
  | .error _ => false

/-- A list cut into runs of `n`. -/
def runsOf {α : Type} (n : Nat) : Nat → List α → List (List α)
  | 0, _ => []
  | k + 1, l => l.take n :: runsOf n k (l.drop n)

/-- A failed check of a packet (R337 to R341). -/
def breach (b : Bool) (c : Cause := .badRecord) : Except Cause Unit := if b then .error c else .ok ()

/-- The argument block of a LAUNCH packet, added to the launch that its packet describes (R341, R443). An NSLOT that is not 1 to 27, for which
the spec names no fate, is taken as it stands, and as 0 where it is negative (DESIGN CHOICE, log 112). -/
def State.argBlock (s : State) (l : Launch) : Except Cause Launch := do
  let w ← s.sysWords l.domain l.argptr 146
  let at_ := fun (i : Nat) => w.getD i wzero
  let laypos := (at_ 4).val
  let lcount := (at_ 5).val
  let nfoot := (at_ 8).val
  breach (laypos < 0 || laypos % 3 != 0 || lcount < 0 || decide (729 < lcount) || decide (243 * (l.aTiles : Int) < laypos + 54 * lcount))
  breach (nfoot < 0 || decide (8 < nfoot) || (at_ 6).val < 0 || (at_ 7).val < 0 || (at_ 9).val < 0)
  breach ((List.range 8).any (fun i => at_ (10 + i) != wzero))
  let lw ← s.sysWords l.domain (addrAdd l.argptr (3 * 146)) (18 * lcount.toNat)
  let layouts := runsOf 18 lcount.toNat lw
  let records := runsOf 12 8 (w.drop 18)
  let regions := (List.range nfoot.toNat).map (fun j =>
    (mkPair (at_ (114 + 4 * j)) (at_ (115 + 4 * j)), (at_ (116 + 4 * j)).val, (at_ (117 + 4 * j)).val))
  breach (regions.any (fun r => r.2.1 < 1 || (r.2.2 != 1 && r.2.2 != -1)))
  let jcb := mkPair (at_ 0) (at_ 1)
  let nslot ← (if jcb = azero then .ok 0 else (s.sysWord l.domain jcb).map (fun w => w.val))
  breach (jcb == azero &&
    (records.any (fun r => (r.getD 7 wzero).trit 0 == 1 && ((r.getD 6 wzero).field 0 9).val != -1)
      || layouts.any (fun y => ((y.getD 17 wzero).field 0 21).val != 0 && ((y.getD 3 wzero).field 12 9).val != -1)))
  breach (jcb != azero && !((List.range (6 + 6 * nslot.toNat)).all (fun i =>
    s.packedPage l.domain (addrAdd jcb (3 * i - 1)) && s.packedPage l.domain (addrAdd jcb (3 * i + 1)))))
  .ok { l with
    jcb := jcb, nslot := nslot.toNat, handler := mkPair (at_ 2) (at_ 3), laypos := laypos, lcount := lcount.toNat, waitTo := (at_ 6).val.toNat
    tkAge := (at_ 7).val.toNat, drain := (if (at_ 9).val = 0 then 20 else (at_ 9).val.toNat), records := records, layouts := layouts
    foot := regions.map (fun r => ⟨r.1, r.2.1.toNat, r.2.2 == 1⟩) }

/-- A debug set as a launch starts with it (R387). -/
def DebugSet.none : DebugSet :=
  { attached := false, breaks := List.replicate 4 (azero, false), watches := List.replicate 4 ⟨azero, 1, false, false, false⟩, dumpOnAbort := false }

/-- A LAUNCH packet parsed with its argument block (R338, R341). Its number is given at acceptance. -/
def State.parseLaunch (s : State) (q index : Nat) (b : List (BitVec 8)) : Except Cause Launch := do
  let n := pkNat b
  let entry ← pkAddr b 16
  let seqEntry ← pkAddr b 27
  let argp ← pkAddr b 38
  let counter ← pkAddr b 49
  let x := n 2 1 % 16
  let y := n 2 1 / 16
  let lw := n 3 1 % 8
  let lh := n 3 1 / 8 % 8
  breach (decide (4 < lw) || decide (4 < lh) || n 3 1 / 64 != 0 || x % 2 ^ lw != 0 || y % 2 ^ lh != 0)
  breach (n 4 1 == 0 || n 5 1 == 0 || decide (32 < n 5 1))
  breach (decide (n 6 1 < 8) || decide (80 < n 6 1) || n 6 1 % 8 != 0 || n 7 1 == 0 || decide (80 < n 7 1))
  breach (decide (729 < n 4 1 * n 8 2) || decide (729 < n 4 1 * n 10 2) || decide (243 < n 4 1 * n 12 2))
  breach (decide (191 < n 4 1 * n 5 1) || decide (262144 < n 4 1 * n 5 1 * 32 * n 6 1))
  breach (entry == azero || entry.trit 0 != 0 || seqEntry.trit 0 != 0)
  breach ((addrPath argp != 0 && addrPath argp != 1) || argp.trit 0 != 0)
  let domain := s.qDomain q
  let flags := n 1 1
  s.argBlock
    { id := 0, queue := q, index := index, domain := domain, privileged := s.qPrivileged q, x := x, y := y, logw := lw, logh := lh
      crewsPer := n 4 1, groupsPer := n 5 1, nv := n 6 1, ns := n 7 1, aTiles := n 8 2, wTiles := n 10 2, cTiles := n 12 2
      sliceUs := n 14 2, entry := entry, seqEntry := seqEntry, argptr := argp, counter := counter, increment := n 60 2, expectKi := n 62 2
      idempotent := flags / 4 % 2 == 1, gangBit := flags / 8 % 2 == 1
      role := (if flags / 16 % 4 = 1 then 1 else if flags / 16 % 4 = 2 then -1 else 0)
      jcb := azero, nslot := 0, handler := azero, laypos := 0, lcount := 0, waitTo := 0, tkAge := 0, drain := 20, foot := [], records := []
      layouts := [], started := false, complete := false, placed := [], crewsEnded := [], shares := [], gang := none, gangState := .no
      armedAt := 0, armedReports := [], memberLost := false, xbarGen := 0, xbarAbsent := [], dbg := DebugSet.none, halted := none
      haltedAt := 0, tkReclaimed := 0, seqEnergy := 0, seqEnergyPj := 0, crewEnergy := 0, seqEnergyCr := 0, seqMoved := 0, seqLeft := [], ctxs := [], abort := none }

/-- The checks of a COPY packet (R339); its counter is checked at acceptance (R242). -/
def checkCopy (b : List (BitVec 8)) : Except Cause Unit := do
  let n := pkNat b
  let src ← pkAddr b 4
  let dst ← pkAddr b 15
  let _ ← pkAddr b 48
  breach (decide (128 < n 2 1) || n 3 1 / 2 != 0 || !pkZero b 61)
  breach (n 26 6 == 0 || decide (2 ^ 47 < n 26 6) || n 44 4 == 0)
  breach (decide (addrPath src < -3) || decide (3 < addrPath src) || decide (addrPath dst < -3) || decide (3 < addrPath dst))

/-- The checks of a WAITC packet (R340). -/
def State.checkWaitc (s : State) (q : Nat) (b : List (BitVec 8)) : Except Cause Unit := do
  let counter ← pkAddr b 2
  breach (!pkZero b 23 || (match s.counterLocs (s.qDomain q) counter false with | .ok _ => false | .error _ => true))

/-- The fields of a GANG packet (R340). -/
def pkGang (b : List (BitVec 8)) : Gang :=
  { gang := pkNat b 2 2, members := pkNat b 4 2, member := pkNat b 6 2, coordinator := pkNat b 8 2, armTimeout := pkNat b 10 2 }

/-- The checks of a GANG packet (R340). -/
def State.checkGang (s : State) (b : List (BitVec 8)) : Except Cause Unit :=
  let g := pkGang b
  breach (g.members == 0 || decide (384 < g.members) || decide (g.members ≤ g.member) || decide (383 < g.coordinator)
    || (g.member == 0 && g.coordinator != s.devid) || !pkZero b 12)

/-- The checks of a MARKER packet (R340); its counter is checked at acceptance (R242). -/
def checkMarker (b : List (BitVec 8)) : Except Cause Unit := do
  let _ ← pkAddr b 10
  breach (!pkZero b 23)

/-- Whether the GANG packet that a LAUNCH with the GANG flag needs stands just before it (R337). -/
def State.gangBefore (s : State) (q index : Nat) : Bool :=
  match mapFind q s.day.gangs with | some (i, _) => i + 1 == index | none => false

/-- A packet examined as the head of its queue (R336, R337, R341). -/
def State.parseHead (s : State) (q index : Nat) (b : List (BitVec 8)) : Except Cause HeadPkt := do
  let ty := pkNat b 0 1
  let flags := pkNat b 1 1
  breach (decide (5 < ty) || flags / 64 != 0 || flags / 16 % 4 == 3 || (ty != 1 && flags / 4 % 16 != 0))
  breach (flags / 8 % 2 == 1 && !s.gangBefore q index)
  if ty = 1 then
    let l ← s.parseLaunch q index b
    .ok ⟨index, b, some l⟩
  else
    (if ty = 2 then checkCopy b else if ty = 3 then s.checkWaitc q b else if ty = 4 then s.checkGang b else checkMarker b)
    .ok ⟨index, b, none⟩

/-- The key slot that Daymark waits for before it can examine a packet (R374): that of the argument block, of its layout records and of the
job control block, or of the counter of a WAITC. -/
def State.headKey (s : State) (q : Nat) (b : List (BitVec 8)) : Option Nat :=
  let domain := s.qDomain q
  match pkNat b 0 1 with
  | 1 =>
    (match pkAddr b 38 with
    | .error _ => none
    | .ok argp =>
      match s.keysFor domain false (pagesOf argp 438) with
      | some k => some k
      | none =>
        match s.sysWords domain argp 6 with
        | .error _ => none
        | .ok w =>
          let jcb := mkPair (w.getD 0 wzero) (w.getD 1 wzero)
          match s.keysFor domain false (pagesOf argp (438 + 54 * min 729 (w.getD 5 wzero).val.toNat)) with
          | some k => some k
          | none =>
            if jcb = azero then none
            else
              match s.keysFor domain true [jcb] with
              | some k => some k
              | none =>
                match s.sysWord domain jcb with
                | .error _ => none
                | .ok n => s.keysFor domain true (pagesOf jcb (18 + 18 * n.val.toNat)))
  | 3 => (match pkAddr b 2 with | .error _ => none | .ok a => s.keysFor domain false [a])
  | _ => none

/-- The completion counter that a packet names, or none (R338 to R340). -/
def HeadPkt.counter (h : HeadPkt) : Addr :=
  let at_ := fun (ofs : Nat) => (p5dec 54 ((h.bytes.drop ofs).take 11)).getD azero
  match pkNat h.bytes 0 1 with
  | 1 => at_ 49
  | 2 => at_ 48
  | 5 => at_ 10
  | _ => azero

/-- Daymark looks at the head slot of a queue that it has been kicked for (R336): a zero type byte waits for the next kick, and a frame whose
key slot is not loaded for its key (R374). -/
def State.examine (s : State) (q : Nat) : State :=
  let read := s.qRead q
  if !s.qEnabled q || s.qStopped q then s
  else
    match s.descCause q with
    | some c => s.stopQueue q c
    | none =>
      if (mapGet 0 s.day.seen q) ≤ read then { s with day := { s.day with seen := mapErase q s.day.seen } }
      else if (match mapFind q s.day.heads with | some h => h.index == read | none => false) then s
      else
        match s.keysFor (s.qDomain q) true (pagesOf (s.slotAddr q read) 64), s.byteLocs (s.qDomain q) true (s.slotAddr q read) 64 with
        | some k, _ => s.askKey k
        | none, .error c => s.stopQueue q c
        | none, .ok ls =>
          let b := s.bytesAt ls
          if pkNat b 0 1 = 0 then { s with day := { s.day with seen := mapErase q s.day.seen } }
          else
            match s.headKey q b, s.parseHead q read b with
            | some k, _ => s.askKey k
            | none, .error c => s.stopQueue q c
            | none, .ok h => { s with day := { s.day with heads := mapInsert q h s.day.heads } }

/-! ## ENQ -/

/-- What the image of `ENQ` must meet (R280 step 1). -/
def enqReq : Req := { write := false, atomic := false, aligned := fun _ => true, users := fun b _ => b == 0, bufOnly := true }

/-- The image of `ENQ`: 64 bytes, or the cause (R280 step 1). -/
def Fr.enqImage (fr : Fr) (a : Addr) : Except Cause (List (BitVec 8)) := do
  let ag := fr.g.agent fr.sp.idx
  breach (earlyCheck fr.s ag enqReq false a).isSome (((earlyCheck fr.s ag enqReq false a).map (·.2)).getD .bufferBounds)
  breach (decide (bufLimit fr.s ag 0 a < bufPos a + 64)) .bufferBounds
  let base := match bufResolve fr.s ag 0 a with | .ok (core, base) => (core, base + bufPos a) | .error _ => (0, 0)
  let ts ← fr.s.readLocs ((List.range 64).map (fun i => Loc.buf base.1 0 (base.2 + i)))
  let bs := ts.map tryteByte
  breach (bs.any (·.isNone)) .badByteCode
  let img := bs.map (fun b => b.getD 0#8)
  breach (pkNat img 0 1 == 0 || decide (5 < pkNat img 0 1))
  .ok img

/-- Whether a group may append to a queue (R280 step 2, R198). -/
def State.mayAppend (s : State) (g : Group) (q : Int) : Bool :=
  decide (0 ≤ q) && decide (q ≤ 4095) && s.qEnabled q.toNat && (s.qDomain q.toNat == g.domain || g.privileged)

/-- A packet appended to a queue: the index claimed, the slot written, the queue notified (R335, R280). -/
def State.append (s : State) (q : Nat) (ls : List Loc) (img : List (BitVec 8)) : State :=
  let i := s.qReserve q
  ((s.setQueue q 16 8 (i + 1)).putBytes ls img).notify q (i + 1)

/-- ENQ (R280). It issues once every earlier access of its split has been performed, its image read after them (R232); a full ring holds the
split, and so does a ring whose key slot is not loaded (R374). -/
def execEnq (f : LFmt) (s : State) : Out :=
  let u : Use :=
    { resv := resvPred f.r.h || plainR f.r || f.ext.trit 26 == -1 || (f.ext.field 0 26).val != 0
      opds := [pairOpd f.r.d.index false true, pairOpd f.r.a.index true false, regOpd false f.r.b.index true false] }
  runOp s f.r.h u 2 fun fr s1 =>
    if !fr.any then .ok s1
    else if !fr.drained then .error (.block fr.s)
    else
      match fr.enqImage (fr.readS2 1 f.r.a.index) with
      | .error c => fr.fail c
      | .ok img =>
        let q := (fr.readS 2 f.r.b.index).val
        if !fr.s.mayAppend fr.g q then fr.fail .noAccess
        else if fr.s.qRead q.toNat + fr.s.qSlots q.toNat ≤ fr.s.qReserve q.toNat then
          (if f.ext.trit 26 = 1 then .ok (fr.writes s1 0 (wrPair f.r.d.index (Tern.ofInt 54 (-1)))) else .error (.block fr.s))
        else
          let i := fr.s.qReserve q.toNat
          match fr.s.keysFor (fr.s.qDomain q.toNat) true (pagesOf (fr.s.slotAddr q.toNat i) 64),
              fr.s.byteLocs (fr.s.qDomain q.toNat) true (fr.s.slotAddr q.toNat i) 64 with
          | some k, _ => .error (.block (fr.s.askKey k))
          | none, .error c => fr.fail c
          | none, .ok ls => .ok (fr.writes (s1.append q.toNat ls img) 0 (wrPair f.r.d.index (Tern.ofInt 54 (i : Int))))

end Sys2Proof.Machine
end

