-- ==== Sys2Proof/Machine/Solicit.lean ====
section
/-! DEFINITION. Solicitation: censuses, responders and migrations (R284 to R300, R304). -/

namespace Sys2Proof.Machine

/-! ## Censuses -/

/-- A census handle (R297). -/
def censusHandle (slot : Nat) (gen : Int) : Word := Tern.ofInt 27 (((slot : Int) - 364) * 3 ^ 21 + gen)
/-- The fields of a census handle. -/
def handleCensus (w : Word) : Nat := (w.field 21 6).index
def handleCensusGen (w : Word) : Int := (w.field 0 21).val

/-- The next generation of a census slot (R297). -/
def nextCensusGen (g : Int) : Int :=
  let n := if g = (half 21 : Int) then -(half 21 : Int) else g + 1
  if n = 0 then 1 else n

/-- The core against which an agent's censuses count (R289). -/
def Group.askCore (g : Group) : Nat := if g.isSeq then seqCore (clusterOf g.core) else g.core

/-- Slots of the package that hold no census (R286). -/
def State.freeCensus (s : State) : List Nat := (List.range 729).filter (fun i => (mapFind i s.census).isNone)

/-- The limits of R289. -/
def State.censusFull (s : State) (core : Nat) : Bool :=
  decide (729 ≤ s.census.length) || decide (9 ≤ (s.census.filter (fun e => e.2.core == core)).length)

/-- The placement of a census: its level and the origin of its square (R286). -/
def placement (l : Launch) (pkg : Bool) : Nat × Nat × Nat :=
  if pkg then (4, 0, 0)
  else
    let k := max l.logw l.logh
    (k, l.x / 2 ^ k * 2 ^ k, l.y / 2 ^ k * 2 ^ k)

/-- The cores under a census's placement. -/
def Census.cores (c : Census) : List Nat :=
  (List.range (2 ^ c.level)).flatMap (fun j => (List.range (2 ^ c.level)).map (fun i => coreOf (c.px + i) (c.py + j)))
/-- The clusters under a census's placement. -/
def Census.clusters (c : Census) : List Nat := (c.cores.map clusterOf).eraseDups

/-- What the extension word of `SOLICIT` breaks (R298). -/
def solicitExtResv (e : Word) : Bool :=
  e.trit 8 == -1 || decide ((e.field 5 3).val < -2) || decide (2 < (e.field 5 3).val) || (e.field 0 5).val != 0

/-- What `SOLICIT` uses. -/
def solicitUse (f : LFmt) : Use :=
  { resv := solicitResv f.r true true || solicitExtResv f.ext
    opds := [regOpd false f.r.d.index false true, regOpd false f.r.a.index true false, regOpd false f.r.b.index true false] }

/-- SOLICIT (R298, R286, R289, R295). -/
def execSolicit (f : LFmt) (s : State) : Out :=
  runOp s f.r.h (solicitUse f) 2 fun fr s1 =>
    if !fr.any then .ok s1
    else
      let tensor := fr.readS 1 f.r.a.index
      let org := fr.readS 2 f.r.b.index
      let nr := (f.ext.field 18 9).val
      let nc := (f.ext.field 9 9).val
      if tensor.val ≤ 0 ∨ coordRow org < 0 ∨ coordCol org < 0 ∨ org.trit 0 ≠ 0 ∨ nr ≤ 0 ∨ nc ≤ 0 then fr.fail .solicitKeyInvalid
      else if fr.s.censusFull fr.g.askCore then fr.fail .solicitLimit
      else if !fr.drained then .error (.block fr.s)
      else
        match fr.s.launch? fr.g.launch, fr.s.freeCensus[Config.pick fr.s.free % fr.s.freeCensus.length]? with
        | some l, some slot =>
          let gen := nextCensusGen (mapGet 0 fr.s.censusGen slot)
          let (level, px, py) := placement l (f.ext.trit 8 == 1)
          let c : Census :=
            { gen := gen, core := fr.g.askCore, launch := fr.g.launch, domain := fr.g.domain, op := (f.ext.field 5 3).val, scope := f.ext.trit 8
              tensor := tensor, row0 := coordRow org, nrows := nr, col0 := coordCol org, ncols := nc, level := level, px := px, py := py
              arrived := [], matched := 0, resps := [], fault := none, complete := false, orphan := false, result := wzero, sat := false }
          let s2 := { s1 with census := mapInsert slot c s1.census, censusGen := mapInsert slot gen s1.censusGen }
          .ok (fr.writes s2 0 [.s f.r.d.index (censusHandle slot gen)])
        | _, _ => .error (.block fr.s)

/-- Whether a directory entry matches a census's key (R284). -/
def State.matches_ (s : State) (c : Census) (e : DirEntry) : Bool :=
  (e.state == .live || e.state == .incoming) && e.tensor == c.tensor
  && decide (c.row0 ≤ e.trow) && decide (e.trow < c.row0 + c.nrows) && decide (c.col0 ≤ e.tcol) && decide (e.tcol < c.col0 + c.ncols)
  && e.domain == c.domain
  && (if c.scope = 0 then e.launch == c.launch
      else match s.launch? e.launch with | some l => l.handler != azero | none => false)

/-- The crews of a core with matched entries, in increasing crew index, with their entries' keys in increasing order. -/
def State.hitCrews (s : State) (c : Census) (core : Nat) : List (Nat × Nat × List Nat) :=
  let hits := s.dir.filter (fun e => e.1 / dirEntries == core && s.matches_ c e.2)
  let crews := (hits.map (fun e => (e.2.launch, e.2.crew))).eraseDups
  crews.map (fun k => (k.1, k.2, (hits.filter (fun e => e.2.launch == k.1 && e.2.crew == k.2)).map (·.1)))

/-- A key at one core: its matches pinned and a responder due for each crew, or counted only where the crew's launch gives no
handler (R286, R290). -/
def State.keyAtCore (s : State) (slot core : Nat) : State :=
  match mapFind slot s.census with
  | none => s
  | some c =>
    (s.hitCrews c core).foldl (fun st h =>
      match mapFind slot st.census with
      | none => st
      | some c1 =>
        let handler := match st.launch? h.1 with | some l => l.handler != azero | none => false
        if !handler then { st with census := mapInsert slot { c1 with matched := c1.matched + h.2.2.length } st.census }
        else
          let dir := h.2.2.foldl (fun d k => match mapFind k d with
            | some e => mapInsert k { e with pins := e.pins + 1 } d
            | none => d) st.dir
          let r : Resp := ⟨core, h.1, h.2.1, h.2.2, false, false, none, none⟩
          { st with dir := dir, census := mapInsert slot { c1 with matched := c1.matched + h.2.2.length, resps := c1.resps ++ [r] } st.census }) s

/-- CENSUS_KEY_ARRIVAL (R285, R286): the key takes its place in a cluster's order and meets its four directories. -/
def execCensusKeyArrival (slot cluster : Nat) (s : State) : Out :=
  .next (match mapFind slot s.census with
    | none => s
    | some c =>
      if c.arrived.contains cluster || !c.clusters.contains cluster then s
      else
        let s1 := { s with census := mapInsert slot { c with arrived := cluster :: c.arrived } s.census }
        (c.cores.filter (fun k => clusterOf k == cluster)).foldl (fun st k => st.keyAtCore slot k) s1)

/-! ## Responders -/

/-- The start registers of a responder that its allocation holds (R290). -/
def responderRegs (handle : Word) (hits : List Nat) (dir : FMap DirEntry) (ns : Nat) : FMap Word :=
  let words := (hits.take 9).map (fun k => match mapFind k dir with | some e => e.matchWord | none => wzero)
  let vals := handle :: Tern.ofInt 27 (hits.length : Int) :: words
  ((List.range vals.length).zip vals).foldl (fun m e => if e.1 < ns then mapSet wzero m e.1 e.2 else m) []

/-- RESPONDER_START (R290): once a slot and registers are free, none of the matched entries is INCOMING, and the crew stands on
its core and is not halted (R349, R390). The start is ordered after what the census is ordered after, so that the core keeps no older copy in
its L1 (R295). -/
def execResponderStart (slot core launch crew : Nat) (s : State) : Out :=
  .next (match mapFind slot s.census, s.launch? launch, s.crew? launch core crew, s.pickSlot core with
    | some c, some l, some cr, some g =>
      let mine := fun (r : Resp) => r.core == core && r.launch == launch && r.crew == crew && !r.started
      match c.resps.find? mine with
      | none => s
      | some r =>
        let incoming := r.hits.any (fun k => match mapFind k s.dir with | some e => e.state == .incoming | none => false)
        if incoming || !s.groupsFit core 1 l.nv || l.halted.isSome || cr.reserved || !l.live core || l.abort.isSome then s
        else
          let h := censusHandle slot c.gen
          let grp := { startState l core g crew l.groupsPer l.handler with
            s := responderRegs h r.hits s.dir l.ns
            resp := some { census := slot, gen := c.gen, handle := h, replied := false, hits := r.hits } }
          let s1 := (s.putGroup grp).l1Clear core false
          { s1 with census := mapInsert slot { c with resps := updFirst mine (fun r => { r with started := true }) c.resps } s1.census }
    | _, _, _, _ => s)

/-- What `SREPLY` uses. -/
def sreplyUse (f : RFmt) : Use :=
  { resv := solicitResv f false false, opds := [regOpd false f.a.index true false] }

/-- SREPLY (R299, R292). -/
def execSreply (f : RFmt) (s : State) : Out :=
  runOp s f.h (sreplyUse f) 1 fun fr s1 =>
    if !fr.any then .ok s1
    else
      match fr.g.resp with
      | none => fr.fail .solicitKeyInvalid
      | some r =>
        if r.replied then fr.fail .solicitKeyInvalid
        else if !fr.sp.falls.isEmpty || fr.g.splits.any (fun x => x.idx != fr.sp.idx) then fr.fail .joinMismatch
        else if !fr.drained then .error (.block fr.s)
        else
          let s2 := s1.finishResponder r fr.g.core fr.g.launch fr.g.crew (some (fr.readS 1 f.a.index)) none
          .ok (s2.modGroup fr.key (fun g =>
            { g with resp := some { r with replied := true } }.modSplit fr.sp.idx (fun x => { x with pc := fr.sp.pc, wait := .ending })))

/-! ## Combination -/

/-- Two combined values combined, and whether an overflow was met (R287). -/
def combine2 (op : Int) (a b : Int) : Int × Bool :=
  if op = 2 then (if a ≤ b then b else a, false)
  else if op = -2 then (if a ≤ b then a else b, false)
  else if op = -1 then
    match (fadd (fval tf27 a) (fval tf27 b)).pack tf27 .toInf with
    | .ok (c, fl) => (c, fl.overflow)
    | .error _ => (nanCode, false)
  else (a + b, false)

/-- Operands combined in order, absent ones skipped. -/
def combineList (op : Int) : List (Option Int × Bool) → Option Int × Bool
  | [] => (none, false)
  | x :: t =>
    t.foldl (fun acc y => match acc.1, y.1 with
      | some a, some b => let (v, o) := combine2 op a b; (some v, acc.2 || y.2 || o)
      | some a, none => (some a, acc.2 || y.2)
      | none, r => (r, acc.2 || y.2)) x

/-- Responders of a core in increasing crew index; crews of one index, of different launches, in the order of their launches (R287; DESIGN
CHOICE, log 94). -/
def insertResp (r : Resp) : List Resp → List Resp
  | [] => [r]
  | x :: t => if r.crew < x.crew ∨ (r.crew = x.crew ∧ r.launch < x.launch) then r :: x :: t else x :: insertResp r t
def Census.respsAt (c : Census) (core : Nat) : List Resp := (c.resps.filter (fun r => r.core == core)).foldr insertResp []

/-- What a reply counts as (R287). -/
def replyValue (op : Int) (w : Word) : Int := if op = 1 then (if w = wzero then 0 else 1) else w.val

/-- The combined value of a node of the network (R287): children in the order 2·(y half) + (x half). -/
def Census.node (c : Census) : Nat → Nat → Nat → Option Int × Bool
  | 0, x, y => combineList c.op ((c.respsAt (coreOf x y)).map (fun r => (r.reply.map (replyValue c.op), false)))
  | k + 1, x, y =>
    let h := 2 ^ k
    combineList c.op [c.node k x y, c.node k (x + h) y, c.node k x (y + h), c.node k (x + h) (y + h)]

/-- The responders below a node in combine order. -/
def Census.order (c : Census) : Nat → Nat → Nat → List Resp
  | 0, x, y => c.respsAt (coreOf x y)
  | k + 1, x, y =>
    let h := 2 ^ k
    c.order k x y ++ c.order k (x + h) y ++ c.order k x (y + h) ++ c.order k (x + h) (y + h)

/-- The completed census (R287, R292): its value, its SAT field and its first fault in combine order. -/
def Census.finish (c : Census) : Census :=
  let (v, o) := c.node c.level c.px c.py
  let x := v.getD 0
  let y := if c.op = 0 then Sys2Proof.Machine.sat x 27 else x
  { c with complete := true, result := Tern.ofInt 27 y, sat := o || y != x
           fault := (c.order c.level c.px c.py).findSome? (fun r => r.fault) }

/-- The first word of a `SWAIT` result (R300). -/
def Census.word (c : Census) : Word :=
  Tern.ofInt 27 (Sys2Proof.Machine.sat (c.resps.length : Int) 11 + Sys2Proof.Machine.sat (c.matched : Int) 11 * 3 ^ 11 + (if c.fault.isSome then 3 ^ 22 else 0)
    + (if c.sat then 3 ^ 23 else 0))

/-- A split that waits at a census slot (R300): the generation it names, its place in the slot's order of requests, its group, index and
destination, and whether it can go on or trap now. One of a saved group, or held, keeps its place. -/
structure CensusWaiter where
  gen : Int
  ask : Nat
  key : Nat
  idx : Nat
  dest : Nat
  awake : Bool
deriving DecidableEq, Repr

/-- The splits of a group that wait at a census slot. -/
def Group.censusWaiters (g : Group) (slot : Nat) (saved : Bool) : List CensusWaiter :=
  g.splits.filterMap (fun x => match x.wait with
    | .swait c gen d _ ask => if c = slot then some ⟨gen, ask, g.key, x.idx, d, !saved && g.awake x.idx⟩ else none
    | _ => none)

/-- Every split that waits at a census slot, those of saved shares included (R300, R349). -/
def State.censusWaiters (s : State) (slot : Nat) : List CensusWaiter :=
  s.groups.flatMap (fun e => e.2.censusWaiters slot false) ++
  s.launches.flatMap (fun l => l.shares.flatMap (fun sh => sh.savedGroups.flatMap (fun g => g.censusWaiters slot true)))

/-- The place that the next request at a census slot takes. -/
def State.nextAsk (s : State) (slot : Nat) : Nat := (s.censusWaiters slot).foldl (fun m w => max m (w.ask + 1)) 0

/-- A complete census collected by a split (R288, R295, R300): the pair written, an acquire, and RESPONDER_FAULT after it. -/
def State.collect (s : State) (slot : Nat) (c : Census) (key i d : Nat) : State :=
  let s1 := { s with census := mapErase slot s.census }
  let s2 := s1.modGroup key (fun g =>
    (g.deliverPair i d (mkPair c.word c.result)).modSplit i (fun x => { x with wait := .none }))
  let s3 := s2.l1Clear (key / 256) false
  match c.fault with
  | none => s3
  | some f =>
    match (s3.group? key).bind (fun g => g.split? i) with
    | some x => s3.takeTrap key i { cause := .responderFault, info := (f.code : Int), epc := x.pc }
    | none => s3

/-- Waiting splits that trap because another has collected their census, or will (R300); one that is held traps once it can. -/
def State.refuseWaiters (s : State) (ws : List CensusWaiter) : State :=
  ws.foldl (fun st w => if w.awake then st.trapWaiter w.key w.idx 1 .solicitKeyInvalid else st) s

/-- A census slot served (R300): of the splits that wait for a complete census, the one whose request came first collects it as soon as it
is not held, and the others trap; so does one whose census is no longer there. -/
def State.serveCensus (s : State) (slot : Nat) : State :=
  let ws := s.censusWaiters slot
  match mapFind slot s.census with
  | none => s.refuseWaiters ws
  | some c =>
    let s1 := s.refuseWaiters (ws.filter (fun w => w.gen != c.gen))
    let mine := ws.filter (fun w => w.gen == c.gen)
    if !c.complete then s1
    else
      match mine.find? (fun w => mine.all (fun v => decide (w.ask ≤ v.ask))) with
      | none => s1
      | some w =>
        let s2 := s1.refuseWaiters (mine.filter (fun v => v != w))
        if w.awake then s2.collect slot c w.key w.idx w.dest else s2

/-- CENSUS_COMPLETE (R286, R288): every cluster has met the key and every responder has finished. -/
def execCensusComplete (slot : Nat) (s : State) : Out :=
  .next (match mapFind slot s.census with
    | none => s
    | some c =>
      if c.complete || !c.clusters.all (fun k => c.arrived.contains k) || !c.resps.all (fun r => r.finished) then s
      else if c.orphan then { s with census := mapErase slot s.census }
      else { s with census := mapInsert slot c.finish s.census }.serveCensus slot)

/-- What `SWAIT` uses. -/
def swaitUse (f : RFmt) : Use :=
  { resv := solicitResv f true false, opds := [pairOpd f.d.index false true, regOpd false f.a.index true false] }

/-- SWAIT (R300). -/
def execSwait (f : RFmt) (s : State) : Out :=
  runOp s f.h (swaitUse f) 1 fun fr s1 =>
    if !fr.any then .ok s1
    else
      let w := fr.readS 1 f.a.index
      let slot := handleCensus w
      let gen := handleCensusGen w
      match mapFind slot fr.s.census with
      | none => fr.fail .solicitKeyInvalid
      | some c =>
        let own := match fr.g.resp with | some r => r.census == slot && r.gen == gen | none => false
        if gen == 0 || c.gen != gen || c.launch != fr.g.launch || own then fr.fail .solicitKeyInvalid
        else .ok ((fr.hold s1 (.swait slot gen f.d.index fr.s.now (fr.s.nextAsk slot))).serveCensus slot)

/-- The uncollected censuses of a launch that ends (R288). -/
def State.orphanCensuses (s : State) (launch : Nat) : State :=
  { s with census := (s.census.filter (fun e => !(e.2.launch == launch && e.2.complete))).map (fun (e : Nat × Census) =>
      (e.1, if e.2.launch == launch then { e.2 with orphan := true } else e.2)) }

/-! ## Migration -/

/-- Check 4 of R304. -/
def State.migrateClash (s : State) (g : Group) (src dst : DirAt) : Bool :=
  match s.dirLive? src with
  | none => true
  | some (k, _) => (s.dirAt? dst (fun _ => true)).isSome || g.pinsOwn k

/-- The tile of a buffer place: core, path and tile. -/
def locTile (l : Loc) : Nat × Nat × Nat := match l with | .buf c p i => (c, p, i / 243) | _ => (0, 0, 0)

/-- The tile that a directory address names in its core's buffer. -/
def State.dirTile (s : State) (a : DirAt) : Nat × Nat × Nat :=
  match s.crew? a.launch a.core a.crew with
  | some c => (a.core, a.buf, c.base.getD a.buf 0 + a.pos / 243)
  | none => (a.core, a.buf, a.pos / 243)

/-- The first step of a migration (R283, R304): both entries change in one event, and the copy is accepted. -/
def State.migrateStart (s : State) (core launch domain : Nat) (src dst : DirAt) (barrier : List Loc) : Except Cause State :=
  match s.dirLive? src, s.dirFree? dst.core with
  | none, _ => .error .solicitKeyInvalid
  | some _, none => .error .solicitLimit
  | some (ks, e), some kd =>
    let ed : DirEntry := { e with
      state := .incoming, pins := 0, buf := dst.buf, pos := dst.pos, launch := dst.launch, crew := dst.crew
      domain := s.domainOf dst.launch, peer := some ks }
    let dir := mapInsert kd ed (mapInsert ks { e with state := .forwarded, peer := some kd } s.dir)
    let ts := s.dirTile src
    let td := s.dirTile dst
    let foot := fun (t : Nat × Nat × Nat) (w : Bool) =>
      (⟨false, 3 * t.1 + t.2.1, 243 * (t.2.2 : Int), 243 * (t.2.2 : Int) + 242, w⟩ : Foot)
    let bcore := match barrier with | l :: _ => (locTile l).1 | [] => core
    let job : TcJob :=
      { core := core, launch := launch, domain := domain, work := .migrate ks kd ts td, barrier := barrier
        crews := [(src.core, src.crew), (dst.core, dst.crew), (bcore, src.crew)].eraseDups, done := [], fault := none
        foot := [foot ts false, foot td true], waits := [] }
    .ok ({ s with dir := dir, free := s.free + 1 }.tcAccept job)

/-- What `MIGRATE` uses. -/
def migrateUse (f : LFmt) : Use :=
  { resv := solicitResv f.r true true || (f.ext.field 0 15).val != 0
    opds := [pairOpd f.r.d.index true false, pairOpd f.r.a.index true false, pairOpd f.r.b.index true false] }

/-- MIGRATE (R304). -/
def execMigrate (f : LFmt) (s : State) : Out :=
  runOp s f.r.h (migrateUse f) 2 fun fr s1 =>
    if !fr.any then .ok s1
    else if fr.g.isSeq then fr.fail .bufferPathForbidden
    else
      let ag := fr.g.agent fr.sp.idx
      let src := fr.readS2 1 f.r.a.index
      let dst := addrAdd (fr.readS2 0 f.r.d.index) (f.ext.field 21 6).val
      let bar := addrAdd (fr.readS2 2 f.r.b.index) (f.ext.field 15 6).val
      let rs := tileReq true false
      let rd := tileReq false true
      match minCheck (minCheck (earlyOnly fr.s ag rs src) (earlyOnly fr.s ag rd dst)) (earlyOnly fr.s ag (tcopyReq true) bar) with
      | some (_, c) => fr.fail c
      | none =>
        let tile := fun (a : Addr) => bufPath (addrPath a) == some 0 || bufPath (addrPath a) == some 1
        if !tile src || !ownBuf src || !tile dst || bufPath (addrPath bar) != some 0 then fr.fail .bufferPathForbidden
        else
          match minCheck (minCheck (earlyCheck fr.s ag rs false src) (earlyCheck fr.s ag rd false dst)) (earlyCheck fr.s ag (tcopyReq true) false bar) with
          | some (_, c) => fr.fail c
          | none =>
            let sa := ag.dirAt src
            let da := ag.dirAt dst
            let blocs := [-1, 0, 1].map (bufLoc fr.s ag bar)
            if fr.s.migrateClash fr.g sa da then fr.fail .solicitKeyInvalid
            else if (fr.s.dirFree? da.core).isNone then fr.fail .solicitLimit
            else if fr.s.tcFull ag.core || !fr.drained then .error (.block fr.s)
            else if fr.s.dirPinned sa then .ok (fr.hold s1 (.pins (.migrate sa da blocs)))
            else
              match s1.migrateStart ag.core ag.launch ag.domain sa da blocs with
              | .error c => fr.fail c
              | .ok s2 => .ok s2

/-- MIGRATE_FIRST_STEP (R304): a migration delayed by pins starts, its directory checks made again. -/
def execMigrateFirstStep (core slot split : Nat) (s : State) : Out :=
  .next (match s.waiter core slot split with
    | some (g, x) =>
      let key := gkey core slot
      match x.wait with
      | .pins (.migrate src dst barrier) =>
        if s.dirPinned src || s.tcFull core then s
        else if s.migrateClash g src dst then s.trapWaiter key split 2 .solicitKeyInvalid
        else (match s.migrateStart core g.launch g.domain src dst barrier with
          | .error c => s.trapWaiter key split 2 c
          | .ok s1 => s1.goOn key split)
      | _ => s
    | none => s)

/-- MIGRATE_SECOND_STEP (R283, R304, R313): the tile and its tag are copied, each tryte once (R243), the destination is LIVE, the source
FREE, and the barrier is arrived at. -/
def execMigrateSecondStep (job : Nat) (s : State) : Out :=
  .next (match mapFind job s.tcJobs with
    | none => s
    | some j =>
      match j.work with
      | .tcopy _ _ _ _ _ _ _ => s
      | .migrate ks kd a b =>
        if j.waits.any (fun w => (mapFind w s.tcJobs).isSome) then s
        else
          let s1 := match s.readLocs (tileLocs a.1 a.2.1 a.2.2) with
            | .ok ts => s.writeLocs (restOf (mapGet [] j.early 0) 0 (tileLocs b.1 b.2.1 b.2.2)) (restOf (mapGet [] j.early 0) 0 ts)
            | .error c => (match mapFind ks s.dir with | some e => s.crewTrap e.launch a.1 e.crew c | none => s)
          let s2 := s1.setTag b.1 b.2.1 b.2.2 (mapGet 0 s1.tags (tagKey a.1 a.2.1 a.2.2))
          let dir1 := match mapFind kd s2.dir with
            | some e => if e.peer = some ks then mapInsert kd { e with state := .live, peer := none } s2.dir else s2.dir
            | none => s2.dir
          let dir2 := match mapFind ks dir1 with | some e => if e.peer = some kd then mapErase ks dir1 else dir1 | none => dir1
          ({ s2 with dir := dir2, tcJobs := mapErase job s2.tcJobs }.chargeJob j 1).arriveAt j.barrier 243)

end Sys2Proof.Machine
end

