-- ==== Sys2Proof/Machine/Daymark.lean ====
section
/-! DEFINITION. Daymark: visits to queues and the acceptance of packets, the start of launches and crews, COPY jobs, the ends of
crews and launches, and completion records (R240 to R242, R336 to R344, R351, R365, R375, R402). -/

namespace Sys2Proof.Machine

/-! ## Footprints -/

/-- The region of a footprint as R240 compares it: paths 0, +1 and +2 are one; a buffer region of a launch belongs to no crew. -/
def Region.foot (domain : Nat) (r : Region) : List Foot :=
  let p := addrPath r.start
  if p < 0 then []
  else
    let lo := (r.start.field 0 51).val
    [⟨true, 3 * domain + (if p ≤ 2 then 0 else if p = 3 then 1 else 2), lo, lo + (r.extent : Int) - 1, r.write⟩]

/-- The regions of a launch (R240). -/
def Launch.feet (l : Launch) : List Foot := l.foot.flatMap (fun r => r.foot l.domain)

/-- The range that the rows of a COPY touch on one side (R240). -/
def copyRange (a : Addr) (stride : Int) (rows length : Nat) (write : Bool) : Region :=
  let d := stride * ((rows : Int) - 1)
  ⟨addrAdd a (min 0 d), length + d.natAbs, write⟩

/-- A COPY packet as the job that it describes, for an engine's cluster and the crew whose buffers it reaches (R339). -/
def copyJobOf (b : List (BitVec 8)) (q index domain cluster : Nat) (crew : Option (Nat × Nat)) : CopyJob :=
  let addr := fun (ofs : Nat) => ((p5dec 54 ((b.drop ofs).take 11)).getD azero)
  let sgn := fun (n : Nat) => if n < 2 ^ 47 then (n : Int) else (n : Int) - 2 ^ 48
  { id := 0, queue := q, index := index, domain := domain, src := addr 4, dst := addr 15, length := pkNat b 26 6
    sstride := sgn (pkNat b 32 6), dstride := sgn (pkNat b 38 6), rows := pkNat b 44 4, counter := addr 48, increment := pkNat b 59 2
    foot := [], noAlloc := pkNat b 3 1 % 2 == 1, cluster := cluster, crew := crew, pages := ([], []), served := false, started := false
    energy := 0, energyPj := 0, moved := 0 }

/-- The regions of a COPY job (R240). -/
def CopyJob.feet (j : CopyJob) : List Foot :=
  let side := fun (a : Addr) (stride : Int) (w : Bool) =>
    let r := copyRange a stride j.rows j.length w
    if 0 ≤ addrPath a then r.foot j.domain
    else
      match j.crew with
      | none => []
      | some (l, k) =>
        let core := coreOfRank j.cluster (bufRank a - 1)
        let lo := (r.start.field 0 49).val
        [⟨false, ((l * 256 + core) * 256 + k) * 3 + (bufPath (addrPath a)).getD 0, lo, lo + (r.extent : Int) - 1, w⟩]
  side j.src j.sstride false ++ side j.dst j.dstride true

/-- The seed of the free choices of the packet at an index of a queue. -/
def packetSeed (q index : Nat) : Nat := 2 ^ 80 + 2 ^ 16 * index + 4 * q

/-- The cluster of a COPY packet's engine (R16): without a hint, the spec leaves open which cluster is the
destination's where it is no buffer (R339). -/
def copyCluster (b : List (BitVec 8)) (seed : Nat) : Nat := if pkNat b 2 1 = 0 then Config.pick seed % 64 else clusterOfUnit (pkNat b 2 1 - 1)

/-- Crews of a queue's launches on a cluster. -/
def State.queueCrews (s : State) (q cluster : Nat) : List (Nat × Nat) :=
  (s.crews.filter (fun c => clusterOf c.core == cluster && !c.reserved &&
    (match s.launch? c.launch with | some l => l.queue == q | none => false))).map (fun c => (c.launch, c.idx))

/-- The job of the COPY packet at the head of a queue. The crew whose buffers it reaches is a free choice among those of the
queue's launches on the cluster. -/
def State.headCopy (s : State) (q : Nat) (h : HeadPkt) : CopyJob :=
  let seed := packetSeed q h.index
  let cl := copyCluster h.bytes seed
  let cs := s.queueCrews q cl
  let j := copyJobOf h.bytes q h.index (s.qDomain q) cl cs[Config.pick (seed + 1) % cs.length]?
  { j with foot := j.feet }

/-- The regions of accepted, incomplete LAUNCH and COPY jobs of a domain (R241). -/
def State.openFeet (s : State) (domain : Nat) : List Foot :=
  (s.launches.filter (fun l => l.domain == domain && !l.complete)).flatMap Launch.feet ++
  (s.copyJobs.filter (fun j => j.domain == domain)).flatMap (·.foot)

/-- The regions of a head packet. -/
def State.headFeet (s : State) (q : Nat) (h : HeadPkt) : List Foot :=
  match h.launch with
  | some l => l.feet
  | none => if pkNat h.bytes 0 1 = 2 then (s.headCopy q h).foot else []

/-- Packets of a queue that have been accepted and are not complete; a GANG whose LAUNCH is at the head is left out. -/
def State.openWork (s : State) (q : Nat) (h : HeadPkt) : List Accepted :=
  s.accepted.filter (fun a => a.queue == q &&
    !(match a.work, h.launch with | .gang _, some l => l.gangBit && a.index + 1 == h.index | _, _ => false))

/-- Whether the head packet of a queue can be accepted (R337, R341, R342). -/
def State.acceptable (s : State) (q : Nat) : Bool :=
  s.qEnabled q && !s.qStopped q &&
  (match mapFind q s.day.heads with
  | none => false
  | some h =>
    let open_ := s.openWork q h
    h.index == s.qRead q && !open_.any (·.release) && (pkNat h.bytes 1 1 % 2 == 0 || open_.isEmpty) &&
    !footClash (s.openFeet (s.qDomain q)) (s.headFeet q h))

/-! ## Visits -/

/-- Whether Daymark schedules at all (R351, R419, R420): not while its active core has trapped and the standby has not yet taken over. -/
def State.scheduling (s : State) : Bool := !s.ctrl.schedstop && !s.ctrl.minimal && !s.day.down

/-- Whether a visit has still packets to accept (R342). -/
def State.visiting (s : State) (q : Nat) : Bool := s.day.visit == some q && decide (0 < s.qDeficit q) && s.acceptable q

/-- A visit that has no packet left to accept is over: the round moves on (R342). -/
def State.moveOn (s : State) : State :=
  match s.day.visit with
  | some q => if s.visiting q then s else { s with day := { s.day with visit := none } }
  | none => s

/-- The place of a queue in the round after the last one visited. -/
def State.roundPlace (s : State) (q : Nat) : Nat := (q + 4096 - s.day.last - 1) % 4096

/-- A kicked queue's WRITE read, the kick being cleared first (R336). -/
def State.lookAt (s : State) (q : Nat) : State :=
  let s1 : State := { s with kicks := s.kicks.filter (fun k => k != q) }
  (if s.kicks.contains q then { s1 with day := { s1.day with seen := mapInsert q (s1.qWrite q) s1.day.seen } } else s1).examine q

/-- QUEUE_VISIT (R336, R342): the queue's head is looked at; in its turn, where its head packet can be accepted, the queue is
credited and packets are accepted from it. -/
def execQueueVisit (q : Nat) (s : State) : Out :=
  .next (
    if !s.scheduling || decide (4096 ≤ q) || !s.qEnabled q || s.qStopped q then s
    else
      let s1 := (s.lookAt q).moveOn
      let busy := s1.day.visit.isSome
      let earlier := s1.day.heads.any (fun e => e.1 != q && decide (s1.roundPlace e.1 < s1.roundPlace q) && s1.acceptable e.1)
      if busy || !s1.acceptable q || earlier then s1
      else
        let s2 := s1.changeDeficit q (s1.qDeficit q + (s1.qQuantum q : Int))
        { s2 with day := { s2.day with visit := some q, last := q } })

/-- The head packet of a queue taken, with what its acceptance changes: its counter is checked (R242), the acceptance and the advance of
READ are journalled (R351), its slot's type byte becomes 0, then READ advances (R336), and the next one is looked at. A slot that can no
longer be reached stops the queue instead; one whose key slot, or its counter's, is not loaded waits for the key (R374). -/
def State.takeHead (s : State) (q : Nat) (h : HeadPkt) (work : Option Work) (release : Bool) (accept : State → State) : State :=
  match s.keysFor (s.qDomain q) true (s.slotAddr q h.index :: (if h.counter = azero then [] else [h.counter])),
      s.byteLoc (s.qDomain q) true (s.slotAddr q h.index) with
  | some k, _ => s.askKey k
  | none, .error c => s.stopQueue q c
  | none, .ok l =>
    if !s.counterOk (s.qDomain q) h.counter then s.stopQueue q .badRecord
    else
    let job := match work with | some (.launch id) => id | some (.copy id) => id | _ => 0
    let s0 := (s.journal (.accept q h.index (pkNat h.bytes 0 1) job)).journal (.read q (h.index + 1))
    let s1 := ((accept s0).putBytes [l] [0#8]).setQueue q 32 8 (h.index + 1)
    let s2 : State := { s1 with day := { s1.day with heads := mapErase q s1.day.heads } }
    let s3 : State := match work with
      | none => s2
      | some w => { s2 with accepted := s2.accepted ++ [⟨q, h.index, release || pkNat h.bytes 1 1 / 2 % 2 == 1, w⟩] }
    (s3.examine q).moveOn

/-- The head packet of a queue that is being visited, where it is of a type and can be accepted (R342). -/
def State.accepting (s : State) (q ty : Nat) : Option HeadPkt :=
  if s.scheduling && s.visiting q then
    match mapFind q s.day.heads with | some h => if pkNat h.bytes 0 1 = ty then some h else none | none => none
  else none

/-- A completion record made and put into the FIFO, its completion journalled (R351, R402). -/
def State.complete (s : State) (c : Completion) : State :=
  { s with fifo := s.fifo ++ [{ c with time := s.now }] }.journal (.complete c.queue c.index)

/-- A packet that has completed is no longer open (R337). -/
def State.closeWork (s : State) (q index : Nat) : State :=
  { s with accepted := s.accepted.filter (fun a => !(a.queue == q && a.index == index)) }

/-! ## Acceptance -/

/-- LAUNCH_PACKET (R338, R341, R342): the launch receives the next LAUNCHID. -/
def execLaunchPacket (q : Nat) (s : State) : Out :=
  .next (match s.accepting q 1 with
    | none => s
    | some h =>
      match h.launch with
      | none => s
      | some l =>
        let id := s.nextLaunch
        let gang := if l.gangBit then (mapFind q s.day.gangs).map (·.2) else none
        let share := fun (k : Nat) =>
          { cluster := k, state := .resident, slice := 0, savedGroups := [], savedCrews := [], savedBufs := [], savedTags := []
            savedLog := [], savedJobs := [], savedArrays := [], kept := [], asked := false, replaying := false : Share }
        let l1 := { l with id := id, shares := l.clusters.map share, gang := gang, gangState := if gang.isSome then .wanting else .no }
        s.takeHead q h (some (.launch id)) false fun st0 =>
          let st := if gang.isSome then st0.journal (.gang id .wanting) else st0
          { st with
            launches := st.launches ++ [l1], nextLaunch := id + 1
            day := if l.gangBit then { st.day with gangs := mapErase q st.day.gangs } else st.day })

/-- WAITC_PACKET (R340): it blocks every later packet of its queue. -/
def execWaitcPacket (q : Nat) (s : State) : Out :=
  .next (match s.accepting q 3 with
    | none => s
    | some h =>
      let a := ((p5dec 54 ((h.bytes.drop 2).take 11)).getD azero)
      s.takeHead q h (some (.waitc a (pkNat h.bytes 13 8) (pkNat h.bytes 21 2) s.now)) true id)

/-- GANG_PACKET (R340): it announces the LAUNCH that follows, with which it completes. -/
def execGangPacket (q : Nat) (s : State) : Out :=
  .next (match s.accepting q 4 with
    | none => s
    | some h =>
      let g := pkGang h.bytes
      s.takeHead q h (some (.gang g)) false fun st => { st with day := { st.day with gangs := mapInsert q (h.index, g) st.day.gangs } })

/-- A completion with no energy. -/
def plainDone (q ptype status index extra domain : Nat) : Completion :=
  { queue := q, ptype := ptype, status := status, index := index, energy := 0, extra := extra, launch := 0, domain := domain
    counter := azero, increment := 0, who := none, time := 0 }

/-- MARKER_PACKET (R340): it completes as it is accepted. -/
def execMarkerPacket (q : Nat) (s : State) : Out :=
  .next (match s.accepting q 5 with
    | none => s
    | some h =>
      let c := { plainDone q 5 0 h.index (pkNat h.bytes 2 8) (s.qDomain q) with
        counter := ((p5dec 54 ((h.bytes.drop 10).take 11)).getD azero), increment := pkNat h.bytes 21 2 }
      s.takeHead q h none false fun st => st.complete c)

/-- The WAITC of a queue that is accepted and not complete. -/
def State.waitcOf (s : State) (q : Nat) : Option (Nat × Addr × Nat × Nat × Nat) :=
  s.accepted.findSome? (fun a => match a.work with
    | .waitc c v t since => if a.queue = q then some (a.index, c, v, t, since) else none
    | _ => none)

/-- Whether the counter of a WAITC reads as its value or more (R340). -/
def State.waitcReady (s : State) (q : Nat) (a : Addr) (v : Nat) : Bool :=
  match s.counterLocs (s.qDomain q) a false with | .ok ls => decide (v ≤ leNat (s.bytesAt ls)) | .error _ => false

/-- WAITC_SATISFIED (R340); a counter whose key slot is not loaded waits for the key (R374). -/
def execWaitcSatisfied (q : Nat) (s : State) : Out :=
  .next (match s.waitcOf q with
    | some (i, a, v, _, _) =>
      match s.sysKey (s.qDomain q) a false with
      | some k => s.askKey k
      | none => if s.waitcReady q a v && !s.day.down then (s.closeWork q i).complete (plainDone q 3 0 i 0 (s.qDomain q)) else s
    | none => s)

/-- WAITC_TIMEOUT (R340, R217): a counter that is reached in time comes before the timeout. -/
def execWaitcTimeout (q : Nat) (s : State) : Out :=
  .next (match s.waitcOf q with
    | some (i, a, v, t, since) =>
      if s.passed (1000 * t * usCycles) since && !s.waitcReady q a v && !s.day.down then
        ((s.closeWork q i).stopQueue q .waitTimeout).complete (plainDone q 3 Cause.waitTimeout.code i 0 (s.qDomain q))
      else s
    | none => s)

/-! ## Pages served before dispatch -/

/-- The numbers that stand for Daymark's requests to the translation service: a COPY job, or a launch's footprint (R375). -/
def copyAsker (id : Nat) : Nat := 1000000000 + 2 * id
def launchAsker (id : Nat) : Nat := 1000000000 + 2 * id + 1

/-- Whether an address lies where Daymark translates pages. -/
def translated (a : Addr) : Bool := decide (0 ≤ addrPath a) && decide (addrPath a ≤ 3)

/-- What asking for a page comes to. -/
inductive Served where
  | there
  | waiting
  | never (c : Cause)
deriving DecidableEq, Repr

/-- Whether a page is served for an asker, is being served, or will not be (R374, R375). -/
def State.pageState (s : State) (asker domain : Nat) (write : Bool) (a : Addr) : Served :=
  match s.sysPlace domain a write true with
  | .ok _ => .there
  | .error .pageNotPresent =>
    if s.walkFails.any (fun e => e.1.key == asker && samePage e.1.va a) then .never .pageNotPresent else .waiting
  | .error .keyUnavailable => if (s.sysKey domain a write true).isSome then .waiting else .never .keyUnavailable
  | .error c => .never c

/-- A page asked for, once, or the key of its frame (R374). -/
def State.askPage (s : State) (asker domain : Nat) (a : Addr) : State :=
  match s.sysKey domain a false true with
  | some k => s.askKey k
  | none =>
  if s.asks.any (fun k => k.miss.key == asker && samePage k.miss.va a) then s
  else { s with asks := s.asks ++ [⟨{ core := 0, domain := domain, va := a, access := -1, path := addrPath a, key := asker, split := 0 }⟩] }

/-- An asker's answers used up. -/
def State.askerDone (s : State) (asker : Nat) : State := { s with walkFails := s.walkFails.filter (fun e => e.1.key != asker) }

/-! ## COPY jobs -/

/-- The starts of a COPY job's rows on one side. -/
def copyRows (a : Addr) (stride : Int) (rows : Nat) : List Addr := (List.range rows).map (fun (r : Nat) => addrAdd a (stride * (r : Int)))

/-- The pages that a side of a COPY job touches; none for a buffer. -/
def copySidePages (a : Addr) (stride : Int) (rows length : Nat) : List Addr :=
  if translated a then (copyRows a stride rows).flatMap (fun r => pagesOf r length) else []

/-- A page of an extent table (R375). -/
def State.pageAt (s : State) (domain : Nat) (write : Bool) (a : Addr) : Except Cause PageAt :=
  if write ∧ addrPath a = 1 then .error .writeProtect
  else
    match s.sysPlace domain a write with
    | .error c => .error c
    | .ok (loc, _) =>
      match loc 0 with
      | .packed f _ => .ok (.packed f)
      | .binary f _ => .ok (.binary f)
      | .host p b => .ok (.host p (b - pagePos a))
      | _ => .error .pathReserved

/-- The extent table of one side, as far as pages are there: those that it holds already stay as they are (R375). -/
def State.extents (s : State) (domain : Nat) (write : Bool) : FMap PageAt → List Addr → FMap PageAt
  | m, [] => m
  | m, a :: t =>
    if (mapFind (pageKey a) m).isSome then s.extents domain write m t
    else
      match s.pageAt domain write a with
      | .ok p => s.extents domain write (mapInsert (pageKey a) p m) t
      | .error _ => s.extents domain write m t

/-- The place of a tryte of a COPY job, by its extent table or in a buffer of its crew (R339, R375). -/
def State.copyLoc (s : State) (j : CopyJob) (pages : FMap PageAt) (a : Addr) : Except Cause Loc :=
  match bufPath (addrPath a) with
  | some p =>
    if bufRank a = 0 ∨ 4 < bufRank a ∨ (a.field 12 37).val ≠ 0 then .error .noncanonicalAddress
    else
      match j.crew with
      | none => .error .peerAbsent
      | some (l, k) =>
        let core := coreOfRank j.cluster (bufRank a - 1)
        match s.crew? l core k with
        | none => .error .peerAbsent
        | some c => if 243 * c.tiles.getD p 0 ≤ bufPos a then .error .bufferBounds else .ok (.buf core p (243 * c.base.getD p 0 + bufPos a))
  | none =>
    match mapFind (pageKey a) pages with
    | some (.packed f) => .ok (.packed f (pagePos a))
    | some (.binary f) => .ok (.binary f (pagePos a))
    | some (.host p b) => .ok (.host p (b + pagePos a))
    | none => .error .pageNotPresent

/-- Whether a place holds a byte (R339). -/
def Loc.isByte : Loc → Bool
  | .binary _ _ => true
  | .host _ _ => true
  | _ => false

/-- How a COPY stands: the state, clamped trytes, the trytes that each destination tile has received as bits of a number, and the tiles that
receive poison; a tile is twice its coordinate, and one more where it is binary. -/
structure CopyRun where
  s : State
  clamped : Nat
  whole : FMap Nat
  poison : List Nat

/-- One tryte copied (R339). Where the job has already written its source, the old value or the new one is read (R243). -/
def CopyRun.move (r : CopyRun) (s0 : State) (j : CopyJob) (p : FMap PageAt × FMap PageAt) (src dst : Addr) : Except Cause CopyRun := do
  let from_ ← s0.copyLoc j p.1 src
  let to_ ← s0.copyLoc j p.2 dst
  let old ← s0.readLoc from_
  let new ← r.s.readLoc from_
  let v := if old = new then old else if Config.pick r.s.free % 2 = 0 then old else new
  let byte := to_.isByte
  let v1 := if byte then Tern.ofInt 9 (max 0 (min 255 v.val)) else v
  let s1 := r.s.writeLoc to_ v1
  let s2 : State := match to_.tile with
    | some (f, t, _) => if j.noAlloc then s1.l2Through (tileCoord f t) else s1.l2Put (tileCoord f t) true
    | none => s1
  let tile := to_.tile.map (fun (x : Nat × Nat × Bool) => 2 * tileCoord x.1 x.2.1 + (if x.2.2 then 0 else 1))
  .ok
    { s := { s2 with free := s2.free + 1 }
      clamped := r.clamped + (if v1 = v then 0 else 1)
      whole := (match tile with | some t => mapInsert t (mapGet 0 r.whole t ||| 2 ^ (to_.inTile.getD 0)) r.whole | none => r.whole)
      poison := (match tile with | some t => if s0.locPoisoned from_ then t :: r.poison else r.poison | none => r.poison) }

/-- A run of trytes copied, up to the first that cannot be. -/
def CopyRun.moves (s0 : State) (j : CopyJob) (p : FMap PageAt × FMap PageAt) : List (Addr × Addr) → CopyRun → CopyRun × Option Cause
  | [], r => (r, none)
  | (a, b) :: t, r => match r.move s0 j p a b with | .ok r1 => CopyRun.moves s0 j p t r1 | .error c => (r, some c)

/-- The source and the destination of tryte `i` of row `r` of a COPY job (R339). -/
def CopyJob.pair (j : CopyJob) (r i : Nat) : Addr × Addr :=
  (addrAdd j.src (j.sstride * (r : Int) + (i : Int)), addrAdd j.dst (j.dstride * (r : Int) + (i : Int)))

/-- The pairs of addresses that a COPY job still moves, in order: each tryte once (R243, R339). -/
def CopyJob.pairs (j : CopyJob) : List (Addr × Addr) :=
  (List.range j.rows).flatMap (fun (r : Nat) => (List.range j.length).filterMap (fun (i : Nat) =>
    if j.early.contains (j.length * r + i) then none else some (j.pair r i)))

/-- What a COPY job has done before it is complete. -/
def CopyJob.sofar (j : CopyJob) (s : State) : CopyRun := ⟨s, j.clamped, j.whole, j.poison⟩

/-- Tiles that a COPY job moves (R399). -/
def CopyJob.tilesMoved (j : CopyJob) : Nat := (j.rows * j.length + 242) / 243

/-- A job's poison: a tile that received a poisoned tryte is poisoned; one written whole without is not (R168, R339). -/
def CopyRun.marks (r : CopyRun) : State :=
  let mark := fun (st : State) (k : Nat) (on : Bool) =>
    if k % 2 = 0 then st.setPoison (k / 2 / 243) (k / 2 % 243) on else st.setBinPoison (k / 2 / 243) (k / 2 % 243) on
  r.whole.foldl (fun st e => if r.poison.contains e.1 then mark st e.1 true else if e.2 = 2 ^ 243 - 1 then mark st e.1 false else st) r.s

/-- The end of a COPY job: its record, with its counter addition where it did its work (R242, R339, R402). -/
def State.copyEnd (s : State) (j : CopyJob) (status clamped : Nat) : State :=
  let (s1, uj) := ({ s with copyJobs := s.copyJobs.filter (fun k => k.id != j.id) }).closeCopy j
  let done := if status = 0 then { plainDone j.queue 2 0 j.index clamped j.domain with energy := uj, counter := j.counter, increment := j.increment }
    else { plainDone j.queue 2 status j.index clamped j.domain with energy := uj }
  (s1.closeWork j.queue j.index).complete done

/-- The extent table of a COPY job, made at acceptance with the pages that are there, and completed as the others are served (R375). A page
that cannot be served ends the job and stops its queue (R339). -/
def State.copyExtents (s : State) (j : CopyJob) : State :=
  let asker := copyAsker j.id
  let sides := (copySidePages j.src j.sstride j.rows j.length).map (fun a => (a, false)) ++ (copySidePages j.dst j.dstride j.rows j.length).map (fun a => (a, true))
  let known := fun (e : Addr × Bool) => (mapFind (pageKey e.1) (if e.2 then j.pages.2 else j.pages.1)).isSome
  let todo := (sides.filter (fun e => !known e)).map (fun e =>
    (e.1, if e.2 && addrPath e.1 == 1 then Served.never .writeProtect else s.pageState asker j.domain e.2 e.1))
  match todo.findSome? (fun e => match e.2 with | .never c => some c | _ => none) with
  | some c => ((s.askerDone asker).copyEnd j c.code 0).stopQueue j.queue c
  | none =>
    let wait := todo.filter (fun e => e.2 == .waiting)
    let get := fun (w : Bool) (m : FMap PageAt) => s.extents j.domain w m ((sides.filter (fun e => e.2 == w)).map (·.1))
    let j1 := { j with pages := (get false j.pages.1, get true j.pages.2), served := wait.isEmpty }
    let s1 : State := { s with copyJobs := updFirst (fun k => k.id == j.id) (fun _ => j1) s.copyJobs }
    if wait.isEmpty then s1.askerDone asker else wait.foldl (fun st e => st.askPage asker j.domain e.1) s1

/-- The extent table of a COPY job as far as its pages are there. -/
def State.copyServe (s : State) (id : Nat) : State :=
  match s.copyJobs.find? (fun j => j.id == id) with
  | none => s
  | some j => s.copyExtents j

/-- COPY_PACKET (R339, R375): the engine's job is made, with the extents of every page that is there; the others are asked for. -/
def execCopyPacket (q : Nat) (s : State) : Out :=
  .next (match s.accepting q 2 with
    | none => s
    | some h =>
      let id := s.nextJob
      (s.takeHead q h (some (.copy id)) false fun st =>
        { st with copyJobs := st.copyJobs ++ [{ s.headCopy q h with id := id }], nextJob := id + 1 }).copyServe id)

/-- COPY_JOB_COMPLETE (R339, R242, R351, R375): the job's pages are resolved; once they all are, Daymark issues it to its engine; its trytes
are moved and it signals. -/
def execCopyJobComplete (job : Nat) (s : State) : Out :=
  .next (match s.copyJobs.find? (fun j => j.id == job) with
    | none => s
    | some j =>
      if j.started then
        let (r, fail) := CopyRun.moves s j j.pages j.pairs (j.sofar s)
        let j1 := { j with moved := j.moved + j.tilesMoved }
        match fail with
        | some c => (r.marks.copyEnd j1 c.code r.clamped).stopQueue j.queue c
        | none => r.marks.copyEnd j1 0 r.clamped
      else if s.day.down then s
      else if j.served then
        { s.journal (.start true job) with copyJobs := updFirst (fun k => k.id == job) (fun k => { k with started := true }) s.copyJobs }
      else s.copyExtents j)

/-- One tryte that a COPY job has already moved while it is not complete, once (R243, R339): `idx` counts the trytes of its rows. -/
def execCopyTryteWritten (job idx : Nat) (s : State) : Out :=
  .next (match s.copyJobs.find? (fun j => j.id == job) with
    | none => s
    | some j =>
      if !j.started || decide (j.rows ≤ idx / j.length) || j.early.contains idx then s
      else
        let e := j.pair (idx / j.length) (idx % j.length)
        match (j.sofar s).move s j j.pages e.1 e.2 with
        | .ok r =>
          let note := fun (k : CopyJob) => { k with early := idx :: k.early, clamped := r.clamped, whole := r.whole, poison := r.poison }
          { r.s with copyJobs := updFirst (fun k => k.id == job) note r.s.copyJobs }
        | .error _ => s)

/-! ## The start of launches and crews -/

/-- The pages of a launch's footprint (R375). -/
def Launch.footPages (l : Launch) : List (Addr × Bool) :=
  l.foot.flatMap (fun r => if translated r.start then (pagesOf r.start r.extent).map (fun a => (a, r.write)) else [])

/-- The leaf of a page of a footprint as a TLB entry of a cluster (R375). -/
def State.leafOf (s : State) (domain cluster : Nat) (a : Addr) : Option TlbEntry :=
  let entry := fun (large : Bool) (pte : Word) => (⟨256 + cluster, domain, if large then pageNum a / 19683 * 19683 else pageNum a, large, pte⟩ : TlbEntry)
  match s.walk domain a with
  | .leaf large pte => some (entry large pte)
  | .hostBacked large pte => if addrPath a = 3 then some (entry large pte) else none
  | _ => none

/-- Leaves of a footprint put into the TLB of a cluster in region order, 729 of them at most (R375). -/
def State.installLeaves (s : State) (domain cluster : Nat) (as : List Addr) : State :=
  ((as.filterMap (s.leafOf domain cluster)).eraseDups.take 729).foldl State.tlbPut s

/-- A context occupied by a launch for as long as it runs (R305). -/
def State.holdContext (s : State) (launch key : Nat) : State :=
  s.modLaunch launch (fun l => { l with ctxs := if l.ctxs.contains key then l.ctxs else l.ctxs ++ [key] })

/-- The context of a cluster put into its start state (R305, R343); its core keeps no L1 copy older than the jobs that its launch was held for
(R241; DESIGN CHOICE for a launch that was not held, log 91). -/
def State.putContext (s : State) (l : Launch) (cluster : Nat) : State :=
  match s.contextFor l cluster with
  | some slot => ((s.putGroup (contextState l cluster slot s.now)).holdContext l.id (gkey (seqCore cluster) slot)).l1Clear (seqCore cluster) true
  | none => s

/-- Whether a launch finds its contexts (R343). -/
def State.contextsFree (s : State) (l : Launch) : Bool := l.seqEntry == azero || l.clusters.all (fun k => (s.contextFor l k).isSome)

/-- LAUNCH_START (R343, R375): the footprint's pages are served; then all contexts are taken in one step and the launch's crews
wait to be placed. A gang member starts by `GANG_GO` instead, and a halted launch not before it is released (R389). -/
def execLaunchStart (launch : Nat) (s : State) : Out :=
  .next (match s.launch? launch with
    | none => s
    | some l =>
      if l.started || l.complete || l.gang.isSome || l.abort.isSome || l.halted.isSome || !s.scheduling then s
      else
        let asker := launchAsker launch
        let wait := l.footPages.filter (fun e => s.pageState asker l.domain e.2 e.1 == .waiting)
        if !wait.isEmpty then wait.foldl (fun st e => st.askPage asker l.domain e.1) s
        else if !s.contextsFree l then s
        else
          let s1 := l.clusters.foldl (fun st k => st.installLeaves l.domain k (l.footPages.map (·.1))) (s.askerDone asker)
          let s2 := if l.seqEntry = azero then s1 else l.clusters.foldl (fun st k => st.putContext l k) s1
          (s2.journal (.start false launch)).modLaunch launch (fun l => { l with started := true }))

/-- Whether crews of a launch wait for a core (R343, R347, R349). -/
def Launch.waitsFor (l : Launch) (core crew : Nat) : Bool :=
  l.started && !l.complete && l.abort.isNone && l.cores.contains core && decide (crew < l.crewsPer) && !l.placed.contains (core, crew) &&
  (match l.shareAt core with | some sh => sh.state == .resident | none => false)

/-- Whether a crew waits ahead of another on a core (R343). -/
def State.crewAhead (s : State) (launch core crew : Nat) : Bool :=
  s.launches.any (fun l =>
    (decide (l.id < launch) && (List.range l.crewsPer).any (fun k => l.waitsFor core k))
    || (l.id == launch && (List.range crew).any (fun k => l.waitsFor core k)))

/-- A crew's allocations cleared, type tags with them (R173). -/
def State.clearAlloc (s : State) (core : Nat) (base tiles : List Nat) : State :=
  let inside := fun (unit path k : Nat) =>
    let first := (3 * core + path) * unit + base.getD path 0 * (unit / 729)
    decide (first ≤ k) && decide (k < first + tiles.getD path 0 * (unit / 729))
  let keep := fun (unit k : Nat) => !([0, 1, 2].any (fun p => inside unit p k))
  { s with bufs := s.bufs.filter (fun e => keep 59049 e.1), tags := s.tags.filter (fun e => keep 729 e.1)
           badBufs := s.badBufs.filter (fun e => keep 59049 e.1) }

/-- The layout slots of a crew's A allocation filled (R262, R341). -/
def State.fillLayouts (s : State) (core base laypos : Nat) (ls : List (List Word)) : State :=
  let ws := ls.flatten
  (List.range ws.length).foldl (fun st i => st.setBufWord core 0 (81 * base + laypos / 3 + i) (ws.getD i wzero)) s

/-- The groups of a crew started in their slots (R343, R86). -/
def State.startGroups (s : State) (l : Launch) (core crew : Nat) : Nat → Nat → State
  | 0, _ => s
  | n + 1, g =>
    match s.pickSlot core with
    | none => s
    | some slot => (s.putGroup (startState l core slot crew g l.entry)).startGroups l core crew n (g + 1)

/-- The accounts that a crew brings from work that a restart has discarded (R401). -/
def Launch.keptOf (l : Launch) (core crew : Nat) : Option Crew :=
  (l.shareAt core).bind (fun sh => sh.kept.find? (fun c => c.core == core && c.idx == crew))

/-- A crew on its core with its allocations, before its groups start. -/
def newCrew (l : Launch) (core crew now : Nat) (base : List Nat) : Crew :=
  { launch := l.id, core := core, idx := crew, base := base, tiles := [l.aTiles, l.wTiles, l.cTiles], records := l.records, placedAt := now
    energy := (match l.keptOf core crew with | some c => c.energy | none => 0)
    energyPj := (match l.keptOf core crew with | some c => c.energyPj | none => 0)
    lastEnd := none, reported := false, reserved := false, instr := 0, residentCycles := 0
    slotCycles := (match l.keptOf core crew with | some c => c.slotCycles | none => 0)
    moved := (match l.keptOf core crew with | some c => c.moved | none => 0)
    energyCr := (match l.keptOf core crew with | some c => c.energyCr | none => 0) }

/-- The bases that a crew's three allocations take, if they fit (R173). -/
def State.crewBases (s : State) (l : Launch) (core : Nat) : Option (List Nat) :=
  match s.bufBase core 0 l.aTiles, s.bufBase core 1 l.wTiles, s.bufBase core 2 l.cTiles with
  | some a, some w, some c => some [a, w, c]
  | _, _, _ => none

/-- A crew placed on its core (R343, R178, R262), which keeps no L1 copy older than the jobs that the launch was held for (R241; DESIGN CHOICE
for a launch that was not held, log 91). -/
def State.placeCrew (s : State) (l : Launch) (core crew : Nat) (base : List Nat) : State :=
  let c := newCrew l core crew s.now base
  let s1 : State := { s with crews := s.crews ++ [c] }
  let s2 := (s1.clearAlloc core c.base c.tiles).fillLayouts core (base.getD 0 0) l.laypos.toNat l.layouts
  let s3 := s2.modLaunch l.id (fun l =>
    { l with
      placed := l.placed ++ [(core, crew)]
      shares := l.shares.map (fun sh => { sh with kept := sh.kept.filter (fun c => !(c.core == core && c.idx == crew)) }) })
  (s3.l1Clear core true).startGroups l core crew l.groupsPer 0

/-- CREW_PLACE (R343, R350, R390). -/
def execCrewPlace (launch core crew : Nat) (s : State) : Out :=
  .next (match s.launch? launch with
    | none => s
    | some l =>
      if !l.waitsFor core crew || l.halted.isSome || !s.scheduling then s
      else
        match s.crew? launch core crew with
        | some c =>
          if c.reserved then
            { s with crews := s.crews.filter (fun x => !(x.launch == launch && x.core == core && x.idx == crew)) }.placeCrew l core crew c.base
          else s
        | none =>
          if s.crewAhead launch core crew || !s.groupsFit core l.groupsPer l.nv then s
          else match s.crewBases l core with | some base => s.placeCrew l core crew base | none => s)

/-! ## The end of crews and launches -/

/-- A crew charged to its launch's queue (R342). -/
def State.chargeCrewTime (s : State) (l : Launch) (c : Crew) : State := s.chargeQueue l.queue ((s.now - c.placedAt) * l.groupsPer)

/-- Whether a migration that still waits for pins moves a tile out of or into a crew's buffers (R304). -/
def DirOp.into (op : DirOp) (launch core crew : Nat) : Bool :=
  match op with
  | .migrate src dst barrier =>
    (src.launch == launch && src.core == core && src.crew == crew) || (dst.launch == launch && dst.core == core && dst.crew == crew)
      || (dst.launch == launch && dst.crew == crew && barrier.any (fun l => match l with | .buf c _ _ => c == core | _ => false))
  | _ => false

/-- Whether work that touches a crew's buffers is incomplete (R344). -/
def State.crewBusy (s : State) (launch core crew : Nat) : Bool :=
  s.groups.any (fun e => e.2.launch == launch && e.2.core == core && e.2.crew == crew && !e.2.isSeq && !e.2.isWalker)
  || s.census.any (fun e => e.2.resps.any (fun r => r.launch == launch && r.core == core && r.crew == crew && !r.finished))
  || s.tcJobs.any (fun e => e.2.launch == launch && e.2.crews.contains (core, crew))
  || s.mxJobs.any (fun e => e.2.launch == launch && !e.2.complete && e.2.crews.contains (core, crew))
  || s.groups.any (fun e => e.2.splits.any (fun x => match x.wait with | .pins op => op.into launch core crew | _ => false))
  || (match s.crew? launch core crew with | some c => s.deliveringInto c | none => false)

/-- The directory entries of a crew become FREE (R344). -/
def State.freeDir (s : State) (launch core crew : Nat) : State :=
  { s with dir := s.dir.filter (fun e => !(e.2.launch == launch && e.2.crew == crew && e.1 / 243 == core)) }

/-- A crew taken off its core: charged, its account closed, its resources free (R342, R344, R401). -/
def State.removeCrew (s : State) (l : Launch) (c : Crew) (close : Bool) : State × Crew :=
  let s1 := s.chargeCrewTime l c
  let s2 : State := { s1 with crews := s1.crews.filter (fun x => !(x.launch == c.launch && x.core == c.core && x.idx == c.idx)) }
  (if close then s2.closeCrew c else s2, c)

/-- CREW_END (R344). -/
def execCrewEnd (launch core crew : Nat) (s : State) : Out :=
  .next (match s.launch? launch, s.crew? launch core crew with
    | some l, some c =>
      if c.reserved || c.lastEnd.isNone || s.crewBusy launch core crew || l.abort.isSome || !l.live core then s
      else
        let (s1, _) := (s.freeDir launch core crew).removeCrew l c true
        s1.modLaunch launch (fun l => { l with crewsEnded := l.crewsEnded ++ [(core, crew)] })
    | _, _ => s)

/-- Whether a record of Daymark's is held: it waits to make another (R381). -/
def State.daymarkHeld (s : State) : Bool := s.records.any (fun r => r.src == daymarkSrc)

/-- CREW_EXIT_OUTSTANDING (R365): reported once, after WAITTO. -/
def execCrewExitOutstanding (launch core crew : Nat) (s : State) : Out :=
  .next (match s.launch? launch, s.crew? launch core crew with
    | some l, some c =>
      match c.lastEnd with
      | none => s
      | some since =>
        if c.reported || s.daymarkHeld || l.waitTo == 0 || !s.passed (l.waitTo * usCycles) since || l.halted.isSome then s
        else
          (s.modCrew launch core crew (fun c => { c with reported := true })).emitEventAny Cause.crewExitOutstanding.code launch 0 daymarkSrc
    | _, _ => s)

/-- A launch that is over: its tickets and censuses go, its record enters the FIFO (R242, R250, R288, R344). The launch's exit, at which its
tickets are reclaimed, is taken to be its completion, when every crew and every context has ended (DESIGN CHOICE, log 113). -/
def State.finishLaunch (s : State) (l : Launch) (status : Nat) (who : Option Who) (signal : Bool) : State :=
  let held := (s.moor.filter (fun e => e.2.launch == l.id && (e.2.state == .moored || e.2.state == .pending))).length
  let s0 := ((s.reclaimLaunch l.id).orphanCensuses l.id).modLaunch l.id (fun l => { l with complete := true })
  let s1 := { s0 with exited := s0.exited.filter (fun e => e.2.1 != l.id) }
  let (s2, uj) := s1.closeLaunch l
  let done := { plainDone l.queue 1 status l.index held l.domain with
    energy := uj, launch := l.id, who := who, counter := if signal then l.counter else azero, increment := l.increment }
  let s3 := (s2.closeWork l.queue l.index).complete done
  match l.gang with
  | some _ => (s3.closeWork l.queue (l.index - 1)).complete (plainDone l.queue 4 status (l.index - 1) 0 l.domain)
  | none => s3

/-- Whether every crew and every context of a launch has ended, and its side-log entries are replayed (R242, R344). -/
def State.launchOver (s : State) (l : Launch) : Bool :=
  l.started && l.cores.all (fun c => (List.range l.crewsPer).all (fun k => l.crewsEnded.contains (c, k))) &&
  l.shares.all (fun sh => sh.state == .resident || sh.live) && (s.launchKeys l.id).isEmpty

/-- LAUNCH_COMPLETE (R344); the count of reclaimed tickets waits for its key (R374). -/
def execLaunchComplete (launch : Nat) (s : State) : Out :=
  .next (match s.launch? launch with
    | none => s
    | some l =>
      if l.complete || l.abort.isSome || !s.launchOver l then s
      else match s.reclaimWait launch with | some s1 => s1 | none => s.finishLaunch l 0 none true)

/-! ## Completion records -/

/-- The bytes of a COMPLETION record (R378, R402); its TIME is that of its making. -/
def State.completionBytes (s : State) (c : Completion) (status : Nat) : List (BitVec 8) :=
  let hd := match c.who with
    | some w => recHeader { s with now := c.time } 5 80 c.launch false (some (w.key / 256, w.key % 256, w.split, w.mask)) (some w.epc)
    | none => recHeader { s with now := c.time } 5 80 c.launch false none none
  hd ++ leBytes 2 c.queue ++ leBytes 1 c.ptype ++ leBytes 1 status ++ leBytes 8 c.index ++ leBytes 8 c.energy ++ leBytes 8 c.extra ++ zeroBytes 4

/-- COMPLETION_RECORD_RELEASE (R351, R242, R402): the oldest record is released once its completion is journalled; its counter addition is
made, once the key of its frame is there (R374), and it goes to the sessions that accept it. -/
def execCompletionRecordRelease (s : State) : Out :=
  .next (match s.fifo with
    | [] => s
    | c :: t =>
      if s.ctrl.schedstop || s.day.down || s.daymarkHeld || !s.day.journal.contains (.complete c.queue c.index) then s
      else match (if c.counter = azero then none else s.sysKey c.domain c.counter true) with
      | some k => s.askKey k
      | none =>
        let (s1, fail) := { s with fifo := t }.counterAdd c.domain c.counter c.increment
        let status := if c.status ≠ 0 then c.status else fail
        s1.emit 5 c.launch 0 daymarkSrc (s1.completionBytes c status))

end Sys2Proof.Machine
end

