-- ==== Sys2Proof/WellFormed.lean ====
section
/-! DEFINITION. Which instructions are well-formed. Of the Torade set the decoder gives exactly these: a form carries every trit of
its word, so only the trits that choose between rows of one opcode are held here (R67, R69, R108, R112, R193, R208, R209, R219 to
R223, R226, R254, R327). A Lens instruction holds the loader's checks of one word (R386), which the loader makes apart from
decoding. An event names objects that exist; the inbound ports are the two
host links and the 384 devices of a scale-up domain (R409, R413). -/

namespace Sys2Proof

/-- The index of a word's opcode: 81·c + s + 364 (R67). -/
def opIndex (w : Word) : Nat := (w.field 21 6).index

/-- How many opcodes each block lists, from index 0 upward (R68); block 0 lists `ZTRAP` at index 40 as well. -/
def blockSize : Nat → Nat
  | 0 => 16
  | 1 => 32
  | 2 => 24
  | 3 => 25
  | 4 => 20
  | 5 => 25
  | 6 => 11
  | 7 => 9
  | 8 => 7
  | _ => 0

/-- Whether an opcode index is listed (R67, R68). -/
def listedOp (n : Nat) : Bool := n == 364 || decide (n % 81 < blockSize (n / 81))

/-- Whether an instruction is well-formed. -/
def Instr.wellFormed : Instr → Bool
  | .nop _ => true
  | .jmp _ => true
  | .br _ => true
  | .brall _ => true
  | .brany _ => true
  | .jmpr _ => true
  | .call _ => true
  | .callr _ => true
  | .ret _ => true
  | .join f => f.d.index != 41
  | .joinArm f => f.d.index == 41
  | .loop _ => true
  | .exit _ => true
  | .yield _ => true
  | .role _ => true
  | .regionOpen f => f.imm.val != -1
  | .regionClose f => f.imm.val == -1
  | .bkpt _ => true
  | .add _ => true
  | .sub _ => true
  | .neg _ => true
  | .abs _ => true
  | .sgn _ => true
  | .mul _ => true
  | .mulh _ => true
  | .mad _ => true
  | .div _ => true
  | .rem _ => true
  | .min _ => true
  | .max _ => true
  | .cmp _ => true
  | .sel _ => true
  | .tadd _ => true
  | .tmul _ => true
  | .tmin _ => true
  | .tmax _ => true
  | .shl _ => true
  | .shr _ => true
  | .rot _ => true
  | .tcnt _ => true
  | .tbal _ => true
  | .lead _ => true
  | .mov _ => true
  | .shuf _ => true
  | .bcast _ => true
  | .vote _ => true
  | .rsum _ => true
  | .rmin _ => true
  | .rmax _ => true
  | .scan _ => true
  | .addi _ => true
  | .muli _ => true
  | .mini _ => true
  | .maxi _ => true
  | .cmpi _ => true
  | .shli _ => true
  | .shri _ => true
  | .roti _ => true
  | .movi _ => true
  | .limm _ => true
  | .extr _ => true
  | .insr _ => true
  | .widen _ => true
  | .narrow _ => true
  | .lane _ => true
  | .ids _ => true
  | .mvs _ => true
  | .msv _ => true
  | .cfrom _ => true
  | .cto _ => true
  | .cmin _ => true
  | .cmax _ => true
  | .cneg _ => true
  | .cseti _ => true
  | .fadd _ => true
  | .fsub _ => true
  | .fneg _ => true
  | .fabs _ => true
  | .fmul _ => true
  | .fma _ => true
  | .fmin _ => true
  | .fmax _ => true
  | .fcmp _ => true
  | .fdiv _ => true
  | .fsqrt _ => true
  | .frcp _ => true
  | .frsq _ => true
  | .fexp3 _ => true
  | .flog3 _ => true
  | .fscl _ => true
  | .fexpo _ => true
  | .fcls _ => true
  | .fcvt _ => true
  | .ftoi _ => true
  | .itof _ => true
  | .frnd _ => true
  | .cmul _ => true
  | .cfma _ => true
  | .frsum _ => true
  | .trap _ => true
  | .eret f => f.d.index != 41
  | .eretRegion f => f.d.index == 41
  | .rdst _ => true
  | .wrst _ => true
  | .fenceFull f => (f.imm.field 2 2).index != 1 && (f.imm.field 2 2).index != 2
  | .fenceAcq f => (f.imm.field 2 2).index == 1
  | .fenceRel f => (f.imm.field 2 2).index == 2
  | .waitp _ => true
  | .waitge _ => true
  | .bwait _ => true
  | .bar _ => true
  | .rbar _ => true
  | .xbar _ => true
  | .tlbfill _ => true
  | .tlbinv f => f.d.index != 41 && f.d.index != 39
  | .tlbinvDom f => f.d.index == 41
  | .tlbinvAll f => f.d.index == 39
  | .cflushL1 f => f.d.index != 41 && f.d.index != 42
  | .cflushWb f => f.d.index == 41
  | .cflushInv f => f.d.index == 42
  | .icinv f => f.d.index != 41
  | .icinvRect f => f.d.index == 41
  | .sleep _ => true
  | .clock f => f.a.index != 41
  | .clockNs f => f.a.index == 41
  | .perf _ => true
  | .mark _ => true
  | .stop f => f.imm.trit 0 != 1
  | .stopLaunch f => f.imm.trit 0 == 1
  | .ztrap w => opIndex w == 364
  | .illegalOpcode w => !listedOp (opIndex w)
  | .ld9 _ => true
  | .ld27 _ => true
  | .ld54 _ => true
  | .st9 _ => true
  | .st27 _ => true
  | .st54 _ => true
  | .lds9 _ => true
  | .lds27 _ => true
  | .lds54 _ => true
  | .sts9 _ => true
  | .sts27 _ => true
  | .sts54 _ => true
  | .lda27 _ => true
  | .lda54 _ => true
  | .stl27 _ => true
  | .stl54 _ => true
  | .pref f => f.d.index != 41
  | .prefL2 f => f.d.index == 41
  | .aadd _ => true
  | .amin _ => true
  | .amax _ => true
  | .axchg _ => true
  | .acas _ => true
  | .atadd _ => true
  | .afadd _ => true
  | .aadd54 _ => true
  | .tkld f => f.ext.trit 14 != 1
  | .tkldLin f => f.ext.trit 14 == 1
  | .redeem _ => true
  | .redeemb _ => true
  | .tkdrop _ => true
  | .tkq _ => true
  | .tcopy _ => true
  | .binit _ => true
  | .barrv _ => true
  | .bqry _ => true
  | .enq _ => true
  | .recld _ => true
  | .mldw _ => true
  | .mma _ => true
  | .mmac _ => true
  | .mzero _ => true
  | .macc _ => true
  | .mout _ => true
  | .mwait _ => true
  | .mstat _ => true
  | .mcfgClaim f => (f.imm.field 6 2).index != 1 && (f.imm.field 6 2).index != 2 && (f.imm.field 6 2).index != 3
  | .mcfgRelease f => (f.imm.field 6 2).index == 1
  | .mcfgKsplit f => (f.imm.field 6 2).index == 2
  | .mcfgBind f => (f.imm.field 6 2).index == 3
  | .solicit _ => true
  | .sreply _ => true
  | .swait _ => true
  | .publish _ => true
  | .withdraw _ => true
  | .migrate _ => true
  | .sqry _ => true
  | .lensLdr _ _ signed size => decide (size.val < 4) && !(signed && size.val == 3)
  | .lensLdi _ _ => true
  | .lensLdih _ _ => true
  | .lensLdc _ imm => decide (imm.toNat < 64)
  | .lensAdd _ _ _ => true
  | .lensSub _ _ _ => true
  | .lensAnd _ _ _ => true
  | .lensOr _ _ _ => true
  | .lensXor _ _ _ => true
  | .lensShl _ _ _ => true
  | .lensShr _ _ _ => true
  | .lensAddi _ _ _ => true
  | .lensAndi _ _ _ => true
  | .lensBeq _ _ _ => true
  | .lensBne _ _ _ => true
  | .lensBltu _ _ _ => true
  | .lensBlt _ _ _ => true
  | .lensKeep => true
  | .lensDrop => true
  | .lensCount _ imm => decide (imm.toNat < 64)
  | .lensTrig imm => decide (imm.toNat < 256)
  | .splitImplicitMerge core slot i j => decide (core < 256) && decide (slot < 200) && decide (i < 4) && decide (j < 4)
  | .joinMerge core slot _ => decide (core < 256) && decide (slot < 200)
  | .groupEnd core slot => decide (core < 256) && decide (slot < 200)
  | .loadReturn core slot _ _ => decide (core < 256) && decide (slot < 200)
  | .storeReturn core slot _ => decide (core < 256) && decide (slot < 200)
  | .sideLogReplay core => decide (core < 256)
  | .sideLogDiscard core => decide (core < 256)
  | .walkerStart core => decide (core < 256)
  | .walkTimeout core => decide (core < 256)
  | .mmpPageService _ _ => true
  | .mmpEntryChange _ _ _ _ => true
  | .badPageAdd frame => decide (frame < 10099856)
  | .waitpComplete core slot split => decide (core < 256) && decide (slot < 200) && decide (split < 4)
  | .waitgeComplete core slot split => decide (core < 256) && decide (slot < 200) && decide (split < 4)
  | .bwaitComplete core slot split => decide (core < 256) && decide (slot < 200) && decide (split < 4)
  | .waitTimeout core slot split => decide (core < 256) && decide (slot < 200) && decide (split < 4)
  | .barrierTimeout core slot split => decide (core < 256) && decide (slot < 200) && decide (split < 4)
  | .barComplete _ core _ n => decide (core < 256) && decide (n < 9)
  | .rbarComplete _ _ _ _ => true
  | .xbarComplete _ _ => true
  | .xbarTimeout core slot split => decide (core < 256) && decide (slot < 200) && decide (split < 4)
  | .xbarMemberLost _ => true
  | .sleepEnd core slot split => decide (core < 256) && decide (slot < 200) && decide (split < 4)
  | .tkldWaitAllocate slice => decide (slice < 128)
  | .ticketSnapshotComplete slice entry => decide (slice < 128) && decide (entry < 243)
  | .ticketDeliveryComplete slice entry => decide (slice < 128) && decide (entry < 243)
  | .ticketAgeExpiry slice entry => decide (slice < 128) && decide (entry < 243)
  | .tcopyTileComplete _ _ _ => true
  | .tcopyJobComplete _ => true
  | .directoryUnpinnedUpdate core slot split => decide (core < 256) && decide (slot < 200) && decide (split < 4)
  | .migrateFirstStep core slot split => decide (core < 256) && decide (slot < 200) && decide (split < 4)
  | .migrateSecondStep _ => true
  | .censusKeyArrival census cluster => decide (census < 729) && decide (cluster < 64)
  | .responderStart census core _ _ => decide (census < 729) && decide (core < 256)
  | .censusComplete census => decide (census < 729)
  | .matrixUnitComplete _ => true
  | .matrixInstrComplete _ => true
  | .contextEnd core slot => decide (core < 256) && decide (slot < 200)
  | .doorbellWrite port queue _ _ => decide (port < 2) && decide (queue < 4096)
  | .queueVisit queue => decide (queue < 4096)
  | .launchPacket queue => decide (queue < 4096)
  | .copyPacket queue => decide (queue < 4096)
  | .copyJobComplete _ => true
  | .waitcPacket queue => decide (queue < 4096)
  | .waitcSatisfied queue => decide (queue < 4096)
  | .waitcTimeout queue => decide (queue < 4096)
  | .gangPacket queue => decide (queue < 4096)
  | .markerPacket queue => decide (queue < 4096)
  | .launchStart _ => true
  | .crewPlace _ core _ => decide (core < 256)
  | .crewEnd _ core _ => decide (core < 256)
  | .launchComplete _ => true
  | .completionRecordRelease => true
  | .gangArm _ => true
  | .gangArmedReceive _ _ => true
  | .gangGo _ => true
  | .gangDisarm _ => true
  | .gangArmTimeout _ => true
  | .sliceExpiry _ cluster => decide (cluster < 64)
  | .preemptRequest _ cluster => decide (cluster < 64)
  | .shareSave _ cluster _ => decide (cluster < 64)
  | .drainTimeout _ cluster => decide (cluster < 64)
  | .shareRestore _ cluster => decide (cluster < 64)
  | .swapIn _ cluster => decide (cluster < 64)
  | .daymarkFailover => true
  | .crewExitOutstanding _ core _ => decide (core < 256)
  | .traceRecordAccept _ => true
  | .pcSample core => decide (core < 256)
  | .laneIntervalEnd core => decide (core < 256)
  | .energyIntervalEnd => true
  | .pcBreakStop core slot split => decide (core < 256) && decide (slot < 200) && decide (split < 4)
  | .watchpointStop core slot split => decide (core < 256) && decide (slot < 200) && decide (split < 4)
  | .singleStepStop core slot => decide (core < 256) && decide (slot < 200)
  | .dbgHalt _ => true
  | .dbgRelease _ => true
  | .dbgEnd _ => true
  | .dbgStep _ core slot split => decide (core < 256) && decide (slot < 200) && decide (split < 4)
  | .dbgDump _ _ _ => true
  | .dbgDebugset _ _ => true
  | .dbgSession _ session _ _ => decide (session < 9)
  | .dbgReadst _ core slot _ => decide (core < 256) && decide (slot < 200)
  | .memoryRead port _ _ => decide (port < 2)
  | .memoryWrite port _ _ _ => decide (port < 2)
  | .inboundWriteAck port _ => decide (port < 386)
  | .semRead port _ => decide (port < 2)
  | .semWrite port _ _ _ => decide (port < 2)
  | .ctrlWrite port _ _ _ _ => decide (port < 2)
  | .peerRequest _ _ _ => true
  | .pcieLinkDown port => decide (port < 2)
  | .scaleupLinkDown port => decide (port < 16)
  | .ptmAlign _ => true
  | .loadkey _ _ _ _ _ => true
  | .unloadkey _ => true
  | .attest _ => true
  | .startinfo => true
  | .clearstart => true
  | .powercap _ => true
  | .start _ _ => true
  | .thermalSample die _ => decide (die < 5)
  | .longLatencyUnitResult core slot _ => decide (core < 256) && decide (slot < 200)
  | .softError _ => true
  | .powerFailure => true
  | .scaleupLinkUp port => decide (port < 16)
  | .rdptrWrite session _ => decide (session < 9)
  | .hostReserveClaim queue _ => decide (queue < 4096)
  | .keySlotLoadComplete _ _ => true
  | .ctrlRead port _ _ => decide (port < 2)
  | .outboundWrite _ _ port _ => decide (port < 2)
  | .hostReadFail core slot _ _ => decide (core < 256) && decide (slot < 200)
  | .peerAbsence _ _ _ => true
  | .energyRead _ => true
  | .tcopyTryte _ _ _ => true
  | .copyTryte _ _ => true

end Sys2Proof
end

