-- ==== Sys2Proof/Decode.lean ====
section
/-! DEFINITION. From words to instructions and back: the Torade formats (R56, R58), the opcode map (R67, R68), the Lens words
(R384, R385), and the bytes that hold them (R3, R53). Every Torade word decodes: an unlisted opcode is an instruction of its
own, which traps. -/

namespace Sys2Proof

/-- Why bytes or a Lens word are no instruction. -/
inductive Reject where
  /-- fewer bytes than an instruction has -/
  | shortBytes
  /-- a byte that is no P5 code (R54) -/
  | badByteCode
  /-- a Lens OP from 21 to 31 (R386) -/
  | lensOpcode
  /-- a Lens field that must be zero is not (R386) -/
  | lensReserved
deriving DecidableEq, Repr

/-! ## Formats -/

/-- The head without OP (R56). -/
def headOf (w : Word) : Head := ⟨w.field 19 2, w.field 17 2, w.field 16 1⟩
/-- Format R (R58). -/
def rOf (w : Word) : RFmt := ⟨headOf w, w.field 12 4, w.field 8 4, w.field 4 4, w.field 1 3, w.field 0 1⟩
/-- Format I (R58). -/
def iOf (w : Word) : IFmt := ⟨headOf w, w.field 12 4, w.field 8 4, w.field 0 8⟩
/-- Format M (R58). -/
def mOf (w : Word) : MFmt := ⟨headOf w, w.field 12 4, w.field 8 4, w.field 6 2, w.field 0 6⟩
/-- Format B (R58). -/
def bOf (w : Word) : BFmt := ⟨headOf w, w.field 0 16⟩
/-- Format L (R58). -/
def lOf (w e : Word) : LFmt := ⟨rOf w, e⟩

/-! ## The opcode map -/

/-- Block -4 of R68. -/
def decodeControl (w : Word) : Nat → Instr
  | 0 => .nop (rOf w)
  | 1 => .jmp (bOf w)
  | 2 => .br (bOf w)
  | 3 => .brall (bOf w)
  | 4 => .brany (bOf w)
  | 5 => .jmpr (rOf w)
  | 6 => .call (bOf w)
  | 7 => .callr (rOf w)
  | 8 => .ret (rOf w)
  | 9 => if (iOf w).d.index = 41 then .joinArm (iOf w) else .join (iOf w)
  | 10 => .loop (iOf w)
  | 11 => .exit (rOf w)
  | 12 => .yield (rOf w)
  | 13 => .role (iOf w)
  | 14 => if (iOf w).imm.val = -1 then .regionClose (iOf w) else .regionOpen (iOf w)
  | 15 => .bkpt (iOf w)
  | _ => .illegalOpcode w

/-- Block -3 of R68. -/
def decodeInteger (w : Word) : Nat → Instr
  | 0 => .add (rOf w)
  | 1 => .sub (rOf w)
  | 2 => .neg (rOf w)
  | 3 => .abs (rOf w)
  | 4 => .sgn (rOf w)
  | 5 => .mul (rOf w)
  | 6 => .mulh (rOf w)
  | 7 => .mad (rOf w)
  | 8 => .div (rOf w)
  | 9 => .rem (rOf w)
  | 10 => .min (rOf w)
  | 11 => .max (rOf w)
  | 12 => .cmp (rOf w)
  | 13 => .sel (rOf w)
  | 14 => .tadd (rOf w)
  | 15 => .tmul (rOf w)
  | 16 => .tmin (rOf w)
  | 17 => .tmax (rOf w)
  | 18 => .shl (rOf w)
  | 19 => .shr (rOf w)
  | 20 => .rot (rOf w)
  | 21 => .tcnt (rOf w)
  | 22 => .tbal (rOf w)
  | 23 => .lead (rOf w)
  | 24 => .mov (rOf w)
  | 25 => .shuf (rOf w)
  | 26 => .bcast (rOf w)
  | 27 => .vote (rOf w)
  | 28 => .rsum (rOf w)
  | 29 => .rmin (rOf w)
  | 30 => .rmax (rOf w)
  | 31 => .scan (rOf w)
  | _ => .illegalOpcode w

/-- Block -2 of R68. -/
def decodeImmediate (w e : Word) : Nat → Instr
  | 0 => .addi (iOf w)
  | 1 => .muli (iOf w)
  | 2 => .mini (iOf w)
  | 3 => .maxi (iOf w)
  | 4 => .cmpi (iOf w)
  | 5 => .shli (iOf w)
  | 6 => .shri (iOf w)
  | 7 => .roti (iOf w)
  | 8 => .movi (iOf w)
  | 9 => .limm (lOf w e)
  | 10 => .extr (iOf w)
  | 11 => .insr (iOf w)
  | 12 => .widen (iOf w)
  | 13 => .narrow (iOf w)
  | 14 => .lane (rOf w)
  | 15 => .ids (rOf w)
  | 16 => .mvs (rOf w)
  | 17 => .msv (rOf w)
  | 18 => .cfrom (rOf w)
  | 19 => .cto (rOf w)
  | 20 => .cmin (rOf w)
  | 21 => .cmax (rOf w)
  | 22 => .cneg (rOf w)
  | 23 => .cseti (iOf w)
  | _ => .illegalOpcode w

/-- Block -1 of R68. -/
def decodeFloat (w : Word) : Nat → Instr
  | 0 => .fadd (rOf w)
  | 1 => .fsub (rOf w)
  | 2 => .fneg (rOf w)
  | 3 => .fabs (rOf w)
  | 4 => .fmul (rOf w)
  | 5 => .fma (rOf w)
  | 6 => .fmin (rOf w)
  | 7 => .fmax (rOf w)
  | 8 => .fcmp (rOf w)
  | 9 => .fdiv (rOf w)
  | 10 => .fsqrt (rOf w)
  | 11 => .frcp (rOf w)
  | 12 => .frsq (rOf w)
  | 13 => .fexp3 (rOf w)
  | 14 => .flog3 (rOf w)
  | 15 => .fscl (rOf w)
  | 16 => .fexpo (rOf w)
  | 17 => .fcls (rOf w)
  | 18 => .fcvt (rOf w)
  | 19 => .ftoi (rOf w)
  | 20 => .itof (rOf w)
  | 21 => .frnd (rOf w)
  | 22 => .cmul (rOf w)
  | 23 => .cfma (rOf w)
  | 24 => .frsum (rOf w)
  | _ => .illegalOpcode w

/-- Block +0 of R68. -/
def decodeSystem (w e : Word) : Nat → Instr
  | 0 => .trap (iOf w)
  | 1 => if (rOf w).d.index = 41 then .eretRegion (rOf w) else .eret (rOf w)
  | 2 => .rdst (iOf w)
  | 3 => .wrst (iOf w)
  | 4 => if ((iOf w).imm.field 2 2).index = 1 then .fenceAcq (iOf w) else if ((iOf w).imm.field 2 2).index = 2 then .fenceRel (iOf w) else .fenceFull (iOf w)
  | 5 => .waitp (iOf w)
  | 6 => .waitge (rOf w)
  | 7 => .bwait (mOf w)
  | 8 => .bar (iOf w)
  | 9 => .rbar (iOf w)
  | 10 => .xbar (lOf w e)
  | 11 => .tlbfill (rOf w)
  | 12 => if (rOf w).d.index = 41 then .tlbinvDom (rOf w) else if (rOf w).d.index = 39 then .tlbinvAll (rOf w) else .tlbinv (rOf w)
  | 13 => if (mOf w).d.index = 41 then .cflushWb (mOf w) else if (mOf w).d.index = 42 then .cflushInv (mOf w) else .cflushL1 (mOf w)
  | 14 => if (rOf w).d.index = 41 then .icinvRect (rOf w) else .icinv (rOf w)
  | 15 => .sleep (iOf w)
  | 16 => if (rOf w).a.index = 41 then .clockNs (rOf w) else .clock (rOf w)
  | 17 => .perf (iOf w)
  | 18 => .mark (iOf w)
  | 19 => if (iOf w).imm.trit 0 = 1 then .stopLaunch (iOf w) else .stop (iOf w)
  | _ => .illegalOpcode w

/-- Block +1 of R68. -/
def decodeMemory (w e : Word) : Nat → Instr
  | 0 => .ld9 (mOf w)
  | 1 => .ld27 (mOf w)
  | 2 => .ld54 (mOf w)
  | 3 => .st9 (mOf w)
  | 4 => .st27 (mOf w)
  | 5 => .st54 (mOf w)
  | 6 => .lds9 (mOf w)
  | 7 => .lds27 (mOf w)
  | 8 => .lds54 (mOf w)
  | 9 => .sts9 (mOf w)
  | 10 => .sts27 (mOf w)
  | 11 => .sts54 (mOf w)
  | 12 => .lda27 (lOf w e)
  | 13 => .lda54 (lOf w e)
  | 14 => .stl27 (lOf w e)
  | 15 => .stl54 (lOf w e)
  | 16 => if (mOf w).d.index = 41 then .prefL2 (mOf w) else .pref (mOf w)
  | 17 => .aadd (lOf w e)
  | 18 => .amin (lOf w e)
  | 19 => .amax (lOf w e)
  | 20 => .axchg (lOf w e)
  | 21 => .acas (lOf w e)
  | 22 => .atadd (lOf w e)
  | 23 => .afadd (lOf w e)
  | 24 => .aadd54 (lOf w e)
  | _ => .illegalOpcode w

/-- Block +2 of R68. -/
def decodeFetch (w e : Word) : Nat → Instr
  | 0 => if e.trit 14 = 1 then .tkldLin (lOf w e) else .tkld (lOf w e)
  | 1 => .redeem (rOf w)
  | 2 => .redeemb (lOf w e)
  | 3 => .tkdrop (rOf w)
  | 4 => .tkq (rOf w)
  | 5 => .tcopy (lOf w e)
  | 6 => .binit (mOf w)
  | 7 => .barrv (mOf w)
  | 8 => .bqry (mOf w)
  | 9 => .enq (lOf w e)
  | 10 => .recld (mOf w)
  | _ => .illegalOpcode w

/-- Block +3 of R68. -/
def decodeMatrix (w e : Word) : Nat → Instr
  | 0 => .mldw (lOf w e)
  | 1 => .mma (lOf w e)
  | 2 => .mmac (lOf w e)
  | 3 => .mzero (lOf w e)
  | 4 => .mout (lOf w e)
  | 5 => .mwait (iOf w)
  | 6 => .mstat (rOf w)
  | 7 => if ((iOf w).imm.field 6 2).index = 1 then .mcfgRelease (iOf w) else if ((iOf w).imm.field 6 2).index = 2 then .mcfgKsplit (iOf w) else if ((iOf w).imm.field 6 2).index = 3 then .mcfgBind (iOf w) else .mcfgClaim (iOf w)
  | 8 => .macc (lOf w e)
  | _ => .illegalOpcode w

/-- Block +4 of R68. -/
def decodeSolicit (w e : Word) : Nat → Instr
  | 0 => .solicit (lOf w e)
  | 1 => .sreply (rOf w)
  | 2 => .swait (rOf w)
  | 3 => .publish (lOf w e)
  | 4 => .withdraw (rOf w)
  | 5 => .migrate (lOf w e)
  | 6 => .sqry (rOf w)
  | _ => .illegalOpcode w

/-- The instruction of a word; `e` is the word after it, which only format L uses (R58, R67, R69). -/
def decodeWords (w e : Word) : Instr :=
  let n := opIndex w
  if n = 364 then .ztrap w
  else match n / 81 with
    | 0 => decodeControl w (n % 81)
    | 1 => decodeInteger w (n % 81)
    | 2 => decodeImmediate w e (n % 81)
    | 3 => decodeFloat w (n % 81)
    | 4 => decodeSystem w e (n % 81)
    | 5 => decodeMemory w e (n % 81)
    | 6 => decodeFetch w e (n % 81)
    | 7 => decodeMatrix w e (n % 81)
    | 8 => decodeSolicit w e (n % 81)
    | _ => .illegalOpcode w

/-- Whether a word begins an instruction of two words: the opcode indices of format L (R55, R58, R68). -/
def isLong (w : Word) : Bool :=
  let n := opIndex w
  n == 171 || n == 334 || (decide (417 ≤ n) && decide (n ≤ 420)) || (decide (422 ≤ n) && decide (n ≤ 429)) || n == 486 || n == 488 || n == 491 || n == 495 || (decide (567 ≤ n) && decide (n ≤ 571)) || n == 575 || n == 648 || n == 651 || n == 653

/-- The words of an instruction: 2 for format L, otherwise 1 (R55). -/
def wordCount (w : Word) : Nat := if isLong w then 2 else 1

/-- An instruction from the P5 bytes of its words, the first word's lowest trits first (R3, R53): six bytes a word. -/
def decodeBytes (bs : List (BitVec 8)) : Except Reject Instr :=
  if bs.length < 6 then .error .shortBytes
  else match Machine.p5dec 27 (bs.take 6) with
    | none => .error .badByteCode
    | some w =>
      if !isLong w then .ok (decodeWords w (Tern.zero 27))
      else if bs.length < 12 then .error .shortBytes
      else match Machine.p5dec 27 ((bs.drop 6).take 6) with
        | none => .error .badByteCode
        | some e => .ok (decodeWords w e)

/-! ## Lens words -/

/-- The fields of a Lens word (R384). -/
def lensOp (w : BitVec 32) : Nat := (w.extractLsb' 27 5).toNat
def lensD (w : BitVec 32) : Fin 8 := ⟨(w.extractLsb' 24 3).toNat, BitVec.isLt _⟩
def lensA (w : BitVec 32) : Fin 8 := ⟨(w.extractLsb' 21 3).toNat, BitVec.isLt _⟩
def lensB (w : BitVec 32) : Fin 8 := ⟨(w.extractLsb' 18 3).toNat, BitVec.isLt _⟩
def lensImm (w : BitVec 32) : BitVec 18 := w.extractLsb' 0 18

/-- The instruction of a Lens word (R385, R386). -/
def decodeLens (w : BitVec 32) : Except Reject Instr :=
  match lensOp w with
  | 0 => if lensA w == 0 && lensB w == 0 && (lensImm w).extractLsb' 4 4 == 0#4 then
      .ok (.lensLdr (lensD w) ⟨((lensImm w).extractLsb' 8 10).toNat, BitVec.isLt _⟩ ((lensImm w).getLsbD 3) ⟨((lensImm w).extractLsb' 0 3).toNat, BitVec.isLt _⟩)
    else .error .lensReserved
  | 1 => if lensA w == 0 && lensB w == 0 then .ok (.lensLdi (lensD w) (lensImm w)) else .error .lensReserved
  | 2 => if lensA w == 0 && lensB w == 0 then .ok (.lensLdih (lensD w) (lensImm w)) else .error .lensReserved
  | 3 => if lensA w == 0 && lensB w == 0 then .ok (.lensLdc (lensD w) (lensImm w)) else .error .lensReserved
  | 4 => if lensImm w == 0 then .ok (.lensAdd (lensD w) (lensA w) (lensB w)) else .error .lensReserved
  | 5 => if lensImm w == 0 then .ok (.lensSub (lensD w) (lensA w) (lensB w)) else .error .lensReserved
  | 6 => if lensImm w == 0 then .ok (.lensAnd (lensD w) (lensA w) (lensB w)) else .error .lensReserved
  | 7 => if lensImm w == 0 then .ok (.lensOr (lensD w) (lensA w) (lensB w)) else .error .lensReserved
  | 8 => if lensImm w == 0 then .ok (.lensXor (lensD w) (lensA w) (lensB w)) else .error .lensReserved
  | 9 => if lensImm w == 0 then .ok (.lensShl (lensD w) (lensA w) (lensB w)) else .error .lensReserved
  | 10 => if lensImm w == 0 then .ok (.lensShr (lensD w) (lensA w) (lensB w)) else .error .lensReserved
  | 11 => if lensB w == 0 then .ok (.lensAddi (lensD w) (lensA w) (lensImm w)) else .error .lensReserved
  | 12 => if lensB w == 0 then .ok (.lensAndi (lensD w) (lensA w) (lensImm w)) else .error .lensReserved
  | 13 => if lensD w == 0 then .ok (.lensBeq (lensA w) (lensB w) (lensImm w)) else .error .lensReserved
  | 14 => if lensD w == 0 then .ok (.lensBne (lensA w) (lensB w) (lensImm w)) else .error .lensReserved
  | 15 => if lensD w == 0 then .ok (.lensBltu (lensA w) (lensB w) (lensImm w)) else .error .lensReserved
  | 16 => if lensD w == 0 then .ok (.lensBlt (lensA w) (lensB w) (lensImm w)) else .error .lensReserved
  | 17 => if lensD w == 0 && lensA w == 0 && lensB w == 0 && lensImm w == 0 then .ok (.lensKeep) else .error .lensReserved
  | 18 => if lensD w == 0 && lensA w == 0 && lensB w == 0 && lensImm w == 0 then .ok (.lensDrop) else .error .lensReserved
  | 19 => if lensD w == 0 && lensB w == 0 then .ok (.lensCount (lensA w) (lensImm w)) else .error .lensReserved
  | 20 => if lensD w == 0 && lensA w == 0 && lensB w == 0 then .ok (.lensTrig (lensImm w)) else .error .lensReserved
  | _ => .error .lensOpcode

/-! ## Encoding -/

/-- The head of a word above its 16-trit tail, as an index (R56). -/
def encHead (op : Nat) (h : Head) : Nat := h.psense.index + 3 * (h.pred.index + 9 * (h.stall.index + 9 * op))
/-- Format R (R58). -/
def encR (op : Nat) (f : RFmt) : Word :=
  Tern.ofIndex 27 (f.reuse.index + 3 * (f.fn.index + 27 * (f.b.index + 81 * (f.a.index + 81 * (f.d.index + 81 * encHead op f.h)))))
/-- Format I (R58). -/
def encI (op : Nat) (f : IFmt) : Word :=
  Tern.ofIndex 27 (f.imm.index + 6561 * (f.a.index + 81 * (f.d.index + 81 * encHead op f.h)))
/-- Format M (R58). -/
def encM (op : Nat) (f : MFmt) : Word :=
  Tern.ofIndex 27 (f.ofs.index + 729 * (f.recd.index + 9 * (f.a.index + 81 * (f.d.index + 81 * encHead op f.h))))
/-- Format B (R58). -/
def encB (op : Nat) (f : BFmt) : Word := Tern.ofIndex 27 (f.disp.index + 43046721 * encHead op f.h)

/-- The words of a Torade instruction, written from R67 and R68; an event and a Lens instruction have none. -/
def encode : Instr → List Word
  | .nop f => [encR 0 f]
  | .jmp f => [encB 1 f]
  | .br f => [encB 2 f]
  | .brall f => [encB 3 f]
  | .brany f => [encB 4 f]
  | .jmpr f => [encR 5 f]
  | .call f => [encB 6 f]
  | .callr f => [encR 7 f]
  | .ret f => [encR 8 f]
  | .join f => [encI 9 f]
  | .joinArm f => [encI 9 f]
  | .loop f => [encI 10 f]
  | .exit f => [encR 11 f]
  | .yield f => [encR 12 f]
  | .role f => [encI 13 f]
  | .regionOpen f => [encI 14 f]
  | .regionClose f => [encI 14 f]
  | .bkpt f => [encI 15 f]
  | .add f => [encR 81 f]
  | .sub f => [encR 82 f]
  | .neg f => [encR 83 f]
  | .abs f => [encR 84 f]
  | .sgn f => [encR 85 f]
  | .mul f => [encR 86 f]
  | .mulh f => [encR 87 f]
  | .mad f => [encR 88 f]
  | .div f => [encR 89 f]
  | .rem f => [encR 90 f]
  | .min f => [encR 91 f]
  | .max f => [encR 92 f]
  | .cmp f => [encR 93 f]
  | .sel f => [encR 94 f]
  | .tadd f => [encR 95 f]
  | .tmul f => [encR 96 f]
  | .tmin f => [encR 97 f]
  | .tmax f => [encR 98 f]
  | .shl f => [encR 99 f]
  | .shr f => [encR 100 f]
  | .rot f => [encR 101 f]
  | .tcnt f => [encR 102 f]
  | .tbal f => [encR 103 f]
  | .lead f => [encR 104 f]
  | .mov f => [encR 105 f]
  | .shuf f => [encR 106 f]
  | .bcast f => [encR 107 f]
  | .vote f => [encR 108 f]
  | .rsum f => [encR 109 f]
  | .rmin f => [encR 110 f]
  | .rmax f => [encR 111 f]
  | .scan f => [encR 112 f]
  | .addi f => [encI 162 f]
  | .muli f => [encI 163 f]
  | .mini f => [encI 164 f]
  | .maxi f => [encI 165 f]
  | .cmpi f => [encI 166 f]
  | .shli f => [encI 167 f]
  | .shri f => [encI 168 f]
  | .roti f => [encI 169 f]
  | .movi f => [encI 170 f]
  | .limm f => [encR 171 f.r, f.ext]
  | .extr f => [encI 172 f]
  | .insr f => [encI 173 f]
  | .widen f => [encI 174 f]
  | .narrow f => [encI 175 f]
  | .lane f => [encR 176 f]
  | .ids f => [encR 177 f]
  | .mvs f => [encR 178 f]
  | .msv f => [encR 179 f]
  | .cfrom f => [encR 180 f]
  | .cto f => [encR 181 f]
  | .cmin f => [encR 182 f]
  | .cmax f => [encR 183 f]
  | .cneg f => [encR 184 f]
  | .cseti f => [encI 185 f]
  | .fadd f => [encR 243 f]
  | .fsub f => [encR 244 f]
  | .fneg f => [encR 245 f]
  | .fabs f => [encR 246 f]
  | .fmul f => [encR 247 f]
  | .fma f => [encR 248 f]
  | .fmin f => [encR 249 f]
  | .fmax f => [encR 250 f]
  | .fcmp f => [encR 251 f]
  | .fdiv f => [encR 252 f]
  | .fsqrt f => [encR 253 f]
  | .frcp f => [encR 254 f]
  | .frsq f => [encR 255 f]
  | .fexp3 f => [encR 256 f]
  | .flog3 f => [encR 257 f]
  | .fscl f => [encR 258 f]
  | .fexpo f => [encR 259 f]
  | .fcls f => [encR 260 f]
  | .fcvt f => [encR 261 f]
  | .ftoi f => [encR 262 f]
  | .itof f => [encR 263 f]
  | .frnd f => [encR 264 f]
  | .cmul f => [encR 265 f]
  | .cfma f => [encR 266 f]
  | .frsum f => [encR 267 f]
  | .trap f => [encI 324 f]
  | .eret f => [encR 325 f]
  | .eretRegion f => [encR 325 f]
  | .rdst f => [encI 326 f]
  | .wrst f => [encI 327 f]
  | .fenceFull f => [encI 328 f]
  | .fenceAcq f => [encI 328 f]
  | .fenceRel f => [encI 328 f]
  | .waitp f => [encI 329 f]
  | .waitge f => [encR 330 f]
  | .bwait f => [encM 331 f]
  | .bar f => [encI 332 f]
  | .rbar f => [encI 333 f]
  | .xbar f => [encR 334 f.r, f.ext]
  | .tlbfill f => [encR 335 f]
  | .tlbinv f => [encR 336 f]
  | .tlbinvDom f => [encR 336 f]
  | .tlbinvAll f => [encR 336 f]
  | .cflushL1 f => [encM 337 f]
  | .cflushWb f => [encM 337 f]
  | .cflushInv f => [encM 337 f]
  | .icinv f => [encR 338 f]
  | .icinvRect f => [encR 338 f]
  | .sleep f => [encI 339 f]
  | .clock f => [encR 340 f]
  | .clockNs f => [encR 340 f]
  | .perf f => [encI 341 f]
  | .mark f => [encI 342 f]
  | .stop f => [encI 343 f]
  | .stopLaunch f => [encI 343 f]
  | .ztrap w => [w]
  | .illegalOpcode w => [w]
  | .ld9 f => [encM 405 f]
  | .ld27 f => [encM 406 f]
  | .ld54 f => [encM 407 f]
  | .st9 f => [encM 408 f]
  | .st27 f => [encM 409 f]
  | .st54 f => [encM 410 f]
  | .lds9 f => [encM 411 f]
  | .lds27 f => [encM 412 f]
  | .lds54 f => [encM 413 f]
  | .sts9 f => [encM 414 f]
  | .sts27 f => [encM 415 f]
  | .sts54 f => [encM 416 f]
  | .lda27 f => [encR 417 f.r, f.ext]
  | .lda54 f => [encR 418 f.r, f.ext]
  | .stl27 f => [encR 419 f.r, f.ext]
  | .stl54 f => [encR 420 f.r, f.ext]
  | .pref f => [encM 421 f]
  | .prefL2 f => [encM 421 f]
  | .aadd f => [encR 422 f.r, f.ext]
  | .amin f => [encR 423 f.r, f.ext]
  | .amax f => [encR 424 f.r, f.ext]
  | .axchg f => [encR 425 f.r, f.ext]
  | .acas f => [encR 426 f.r, f.ext]
  | .atadd f => [encR 427 f.r, f.ext]
  | .afadd f => [encR 428 f.r, f.ext]
  | .aadd54 f => [encR 429 f.r, f.ext]
  | .tkld f => [encR 486 f.r, f.ext]
  | .tkldLin f => [encR 486 f.r, f.ext]
  | .redeem f => [encR 487 f]
  | .redeemb f => [encR 488 f.r, f.ext]
  | .tkdrop f => [encR 489 f]
  | .tkq f => [encR 490 f]
  | .tcopy f => [encR 491 f.r, f.ext]
  | .binit f => [encM 492 f]
  | .barrv f => [encM 493 f]
  | .bqry f => [encM 494 f]
  | .enq f => [encR 495 f.r, f.ext]
  | .recld f => [encM 496 f]
  | .mldw f => [encR 567 f.r, f.ext]
  | .mma f => [encR 568 f.r, f.ext]
  | .mmac f => [encR 569 f.r, f.ext]
  | .mzero f => [encR 570 f.r, f.ext]
  | .macc f => [encR 575 f.r, f.ext]
  | .mout f => [encR 571 f.r, f.ext]
  | .mwait f => [encI 572 f]
  | .mstat f => [encR 573 f]
  | .mcfgClaim f => [encI 574 f]
  | .mcfgRelease f => [encI 574 f]
  | .mcfgKsplit f => [encI 574 f]
  | .mcfgBind f => [encI 574 f]
  | .solicit f => [encR 648 f.r, f.ext]
  | .sreply f => [encR 649 f]
  | .swait f => [encR 650 f]
  | .publish f => [encR 651 f.r, f.ext]
  | .withdraw f => [encR 652 f]
  | .migrate f => [encR 653 f.r, f.ext]
  | .sqry f => [encR 654 f]
  | .lensLdr _ _ _ _ => []
  | .lensLdi _ _ => []
  | .lensLdih _ _ => []
  | .lensLdc _ _ => []
  | .lensAdd _ _ _ => []
  | .lensSub _ _ _ => []
  | .lensAnd _ _ _ => []
  | .lensOr _ _ _ => []
  | .lensXor _ _ _ => []
  | .lensShl _ _ _ => []
  | .lensShr _ _ _ => []
  | .lensAddi _ _ _ => []
  | .lensAndi _ _ _ => []
  | .lensBeq _ _ _ => []
  | .lensBne _ _ _ => []
  | .lensBltu _ _ _ => []
  | .lensBlt _ _ _ => []
  | .lensKeep => []
  | .lensDrop => []
  | .lensCount _ _ => []
  | .lensTrig _ => []
  | .splitImplicitMerge _ _ _ _ => []
  | .joinMerge _ _ _ => []
  | .groupEnd _ _ => []
  | .loadReturn _ _ _ _ => []
  | .storeReturn _ _ _ => []
  | .sideLogReplay _ => []
  | .sideLogDiscard _ => []
  | .walkerStart _ => []
  | .walkTimeout _ => []
  | .mmpPageService _ _ => []
  | .mmpEntryChange _ _ _ _ => []
  | .badPageAdd _ => []
  | .waitpComplete _ _ _ => []
  | .waitgeComplete _ _ _ => []
  | .bwaitComplete _ _ _ => []
  | .waitTimeout _ _ _ => []
  | .barrierTimeout _ _ _ => []
  | .barComplete _ _ _ _ => []
  | .rbarComplete _ _ _ _ => []
  | .xbarComplete _ _ => []
  | .xbarTimeout _ _ _ => []
  | .xbarMemberLost _ => []
  | .sleepEnd _ _ _ => []
  | .tkldWaitAllocate _ => []
  | .ticketSnapshotComplete _ _ => []
  | .ticketDeliveryComplete _ _ => []
  | .ticketAgeExpiry _ _ => []
  | .tcopyTileComplete _ _ _ => []
  | .tcopyJobComplete _ => []
  | .directoryUnpinnedUpdate _ _ _ => []
  | .migrateFirstStep _ _ _ => []
  | .migrateSecondStep _ => []
  | .censusKeyArrival _ _ => []
  | .responderStart _ _ _ _ => []
  | .censusComplete _ => []
  | .matrixUnitComplete _ => []
  | .matrixInstrComplete _ => []
  | .contextEnd _ _ => []
  | .doorbellWrite _ _ _ _ => []
  | .queueVisit _ => []
  | .launchPacket _ => []
  | .copyPacket _ => []
  | .copyJobComplete _ => []
  | .waitcPacket _ => []
  | .waitcSatisfied _ => []
  | .waitcTimeout _ => []
  | .gangPacket _ => []
  | .markerPacket _ => []
  | .launchStart _ => []
  | .crewPlace _ _ _ => []
  | .crewEnd _ _ _ => []
  | .launchComplete _ => []
  | .completionRecordRelease => []
  | .gangArm _ => []
  | .gangArmedReceive _ _ => []
  | .gangGo _ => []
  | .gangDisarm _ => []
  | .gangArmTimeout _ => []
  | .sliceExpiry _ _ => []
  | .preemptRequest _ _ => []
  | .shareSave _ _ _ => []
  | .drainTimeout _ _ => []
  | .shareRestore _ _ => []
  | .swapIn _ _ => []
  | .daymarkFailover => []
  | .crewExitOutstanding _ _ _ => []
  | .traceRecordAccept _ => []
  | .pcSample _ => []
  | .laneIntervalEnd _ => []
  | .energyIntervalEnd => []
  | .pcBreakStop _ _ _ => []
  | .watchpointStop _ _ _ => []
  | .singleStepStop _ _ => []
  | .dbgHalt _ => []
  | .dbgRelease _ => []
  | .dbgEnd _ => []
  | .dbgStep _ _ _ _ => []
  | .dbgDump _ _ _ => []
  | .dbgDebugset _ _ => []
  | .dbgSession _ _ _ _ => []
  | .dbgReadst _ _ _ _ => []
  | .memoryRead _ _ _ => []
  | .memoryWrite _ _ _ _ => []
  | .inboundWriteAck _ _ => []
  | .semRead _ _ => []
  | .semWrite _ _ _ _ => []
  | .ctrlWrite _ _ _ _ _ => []
  | .peerRequest _ _ _ => []
  | .pcieLinkDown _ => []
  | .scaleupLinkDown _ => []
  | .ptmAlign _ => []
  | .loadkey _ _ _ _ _ => []
  | .unloadkey _ => []
  | .attest _ => []
  | .startinfo => []
  | .clearstart => []
  | .powercap _ => []
  | .start _ _ => []
  | .thermalSample _ _ => []
  | .longLatencyUnitResult _ _ _ => []
  | .softError _ => []
  | .powerFailure => []
  | .scaleupLinkUp _ => []
  | .rdptrWrite _ _ => []
  | .hostReserveClaim _ _ => []
  | .keySlotLoadComplete _ _ => []
  | .ctrlRead _ _ _ => []
  | .outboundWrite _ _ _ _ => []
  | .hostReadFail _ _ _ _ => []
  | .peerAbsence _ _ _ => []
  | .energyRead _ => []
  | .tcopyTryte _ _ _ => []
  | .copyTryte _ _ => []

/-- A Lens word (R384). -/
def lensWord (op : Nat) (d a b : Fin 8) (imm : BitVec 18) : BitVec 32 :=
  BitVec.ofNat 32 (op * 2 ^ 27 + d.val * 2 ^ 24 + a.val * 2 ^ 21 + b.val * 2 ^ 18 + imm.toNat)
/-- The immediate of `LDR` (R385). -/
def lensLdrImm (ofs : Fin 1024) (signed : Bool) (size : Fin 8) : BitVec 18 :=
  BitVec.ofNat 18 (ofs.val * 256 + (if signed then 8 else 0) + size.val)

/-- The word of a Lens instruction (R385). -/
def encodeLens : Instr → Option (BitVec 32)
  | .nop _ => none
  | .jmp _ => none
  | .br _ => none
  | .brall _ => none
  | .brany _ => none
  | .jmpr _ => none
  | .call _ => none
  | .callr _ => none
  | .ret _ => none
  | .join _ => none
  | .joinArm _ => none
  | .loop _ => none
  | .exit _ => none
  | .yield _ => none
  | .role _ => none
  | .regionOpen _ => none
  | .regionClose _ => none
  | .bkpt _ => none
  | .add _ => none
  | .sub _ => none
  | .neg _ => none
  | .abs _ => none
  | .sgn _ => none
  | .mul _ => none
  | .mulh _ => none
  | .mad _ => none
  | .div _ => none
  | .rem _ => none
  | .min _ => none
  | .max _ => none
  | .cmp _ => none
  | .sel _ => none
  | .tadd _ => none
  | .tmul _ => none
  | .tmin _ => none
  | .tmax _ => none
  | .shl _ => none
  | .shr _ => none
  | .rot _ => none
  | .tcnt _ => none
  | .tbal _ => none
  | .lead _ => none
  | .mov _ => none
  | .shuf _ => none
  | .bcast _ => none
  | .vote _ => none
  | .rsum _ => none
  | .rmin _ => none
  | .rmax _ => none
  | .scan _ => none
  | .addi _ => none
  | .muli _ => none
  | .mini _ => none
  | .maxi _ => none
  | .cmpi _ => none
  | .shli _ => none
  | .shri _ => none
  | .roti _ => none
  | .movi _ => none
  | .limm _ => none
  | .extr _ => none
  | .insr _ => none
  | .widen _ => none
  | .narrow _ => none
  | .lane _ => none
  | .ids _ => none
  | .mvs _ => none
  | .msv _ => none
  | .cfrom _ => none
  | .cto _ => none
  | .cmin _ => none
  | .cmax _ => none
  | .cneg _ => none
  | .cseti _ => none
  | .fadd _ => none
  | .fsub _ => none
  | .fneg _ => none
  | .fabs _ => none
  | .fmul _ => none
  | .fma _ => none
  | .fmin _ => none
  | .fmax _ => none
  | .fcmp _ => none
  | .fdiv _ => none
  | .fsqrt _ => none
  | .frcp _ => none
  | .frsq _ => none
  | .fexp3 _ => none
  | .flog3 _ => none
  | .fscl _ => none
  | .fexpo _ => none
  | .fcls _ => none
  | .fcvt _ => none
  | .ftoi _ => none
  | .itof _ => none
  | .frnd _ => none
  | .cmul _ => none
  | .cfma _ => none
  | .frsum _ => none
  | .trap _ => none
  | .eret _ => none
  | .eretRegion _ => none
  | .rdst _ => none
  | .wrst _ => none
  | .fenceFull _ => none
  | .fenceAcq _ => none
  | .fenceRel _ => none
  | .waitp _ => none
  | .waitge _ => none
  | .bwait _ => none
  | .bar _ => none
  | .rbar _ => none
  | .xbar _ => none
  | .tlbfill _ => none
  | .tlbinv _ => none
  | .tlbinvDom _ => none
  | .tlbinvAll _ => none
  | .cflushL1 _ => none
  | .cflushWb _ => none
  | .cflushInv _ => none
  | .icinv _ => none
  | .icinvRect _ => none
  | .sleep _ => none
  | .clock _ => none
  | .clockNs _ => none
  | .perf _ => none
  | .mark _ => none
  | .stop _ => none
  | .stopLaunch _ => none
  | .ztrap _ => none
  | .illegalOpcode _ => none
  | .ld9 _ => none
  | .ld27 _ => none
  | .ld54 _ => none
  | .st9 _ => none
  | .st27 _ => none
  | .st54 _ => none
  | .lds9 _ => none
  | .lds27 _ => none
  | .lds54 _ => none
  | .sts9 _ => none
  | .sts27 _ => none
  | .sts54 _ => none
  | .lda27 _ => none
  | .lda54 _ => none
  | .stl27 _ => none
  | .stl54 _ => none
  | .pref _ => none
  | .prefL2 _ => none
  | .aadd _ => none
  | .amin _ => none
  | .amax _ => none
  | .axchg _ => none
  | .acas _ => none
  | .atadd _ => none
  | .afadd _ => none
  | .aadd54 _ => none
  | .tkld _ => none
  | .tkldLin _ => none
  | .redeem _ => none
  | .redeemb _ => none
  | .tkdrop _ => none
  | .tkq _ => none
  | .tcopy _ => none
  | .binit _ => none
  | .barrv _ => none
  | .bqry _ => none
  | .enq _ => none
  | .recld _ => none
  | .mldw _ => none
  | .mma _ => none
  | .mmac _ => none
  | .mzero _ => none
  | .macc _ => none
  | .mout _ => none
  | .mwait _ => none
  | .mstat _ => none
  | .mcfgClaim _ => none
  | .mcfgRelease _ => none
  | .mcfgKsplit _ => none
  | .mcfgBind _ => none
  | .solicit _ => none
  | .sreply _ => none
  | .swait _ => none
  | .publish _ => none
  | .withdraw _ => none
  | .migrate _ => none
  | .sqry _ => none
  | .lensLdr d ofs signed size => some (lensWord 0 d 0 0 (lensLdrImm ofs signed size))
  | .lensLdi d imm => some (lensWord 1 d 0 0 imm)
  | .lensLdih d imm => some (lensWord 2 d 0 0 imm)
  | .lensLdc d imm => some (lensWord 3 d 0 0 imm)
  | .lensAdd d a b => some (lensWord 4 d a b 0)
  | .lensSub d a b => some (lensWord 5 d a b 0)
  | .lensAnd d a b => some (lensWord 6 d a b 0)
  | .lensOr d a b => some (lensWord 7 d a b 0)
  | .lensXor d a b => some (lensWord 8 d a b 0)
  | .lensShl d a b => some (lensWord 9 d a b 0)
  | .lensShr d a b => some (lensWord 10 d a b 0)
  | .lensAddi d a imm => some (lensWord 11 d a 0 imm)
  | .lensAndi d a imm => some (lensWord 12 d a 0 imm)
  | .lensBeq a b imm => some (lensWord 13 0 a b imm)
  | .lensBne a b imm => some (lensWord 14 0 a b imm)
  | .lensBltu a b imm => some (lensWord 15 0 a b imm)
  | .lensBlt a b imm => some (lensWord 16 0 a b imm)
  | .lensKeep => some (lensWord 17 0 0 0 0)
  | .lensDrop => some (lensWord 18 0 0 0 0)
  | .lensCount a imm => some (lensWord 19 0 a 0 imm)
  | .lensTrig imm => some (lensWord 20 0 0 0 imm)
  | .splitImplicitMerge _ _ _ _ => none
  | .joinMerge _ _ _ => none
  | .groupEnd _ _ => none
  | .loadReturn _ _ _ _ => none
  | .storeReturn _ _ _ => none
  | .sideLogReplay _ => none
  | .sideLogDiscard _ => none
  | .walkerStart _ => none
  | .walkTimeout _ => none
  | .mmpPageService _ _ => none
  | .mmpEntryChange _ _ _ _ => none
  | .badPageAdd _ => none
  | .waitpComplete _ _ _ => none
  | .waitgeComplete _ _ _ => none
  | .bwaitComplete _ _ _ => none
  | .waitTimeout _ _ _ => none
  | .barrierTimeout _ _ _ => none
  | .barComplete _ _ _ _ => none
  | .rbarComplete _ _ _ _ => none
  | .xbarComplete _ _ => none
  | .xbarTimeout _ _ _ => none
  | .xbarMemberLost _ => none
  | .sleepEnd _ _ _ => none
  | .tkldWaitAllocate _ => none
  | .ticketSnapshotComplete _ _ => none
  | .ticketDeliveryComplete _ _ => none
  | .ticketAgeExpiry _ _ => none
  | .tcopyTileComplete _ _ _ => none
  | .tcopyJobComplete _ => none
  | .directoryUnpinnedUpdate _ _ _ => none
  | .migrateFirstStep _ _ _ => none
  | .migrateSecondStep _ => none
  | .censusKeyArrival _ _ => none
  | .responderStart _ _ _ _ => none
  | .censusComplete _ => none
  | .matrixUnitComplete _ => none
  | .matrixInstrComplete _ => none
  | .contextEnd _ _ => none
  | .doorbellWrite _ _ _ _ => none
  | .queueVisit _ => none
  | .launchPacket _ => none
  | .copyPacket _ => none
  | .copyJobComplete _ => none
  | .waitcPacket _ => none
  | .waitcSatisfied _ => none
  | .waitcTimeout _ => none
  | .gangPacket _ => none
  | .markerPacket _ => none
  | .launchStart _ => none
  | .crewPlace _ _ _ => none
  | .crewEnd _ _ _ => none
  | .launchComplete _ => none
  | .completionRecordRelease => none
  | .gangArm _ => none
  | .gangArmedReceive _ _ => none
  | .gangGo _ => none
  | .gangDisarm _ => none
  | .gangArmTimeout _ => none
  | .sliceExpiry _ _ => none
  | .preemptRequest _ _ => none
  | .shareSave _ _ _ => none
  | .drainTimeout _ _ => none
  | .shareRestore _ _ => none
  | .swapIn _ _ => none
  | .daymarkFailover => none
  | .crewExitOutstanding _ _ _ => none
  | .traceRecordAccept _ => none
  | .pcSample _ => none
  | .laneIntervalEnd _ => none
  | .energyIntervalEnd => none
  | .pcBreakStop _ _ _ => none
  | .watchpointStop _ _ _ => none
  | .singleStepStop _ _ => none
  | .dbgHalt _ => none
  | .dbgRelease _ => none
  | .dbgEnd _ => none
  | .dbgStep _ _ _ _ => none
  | .dbgDump _ _ _ => none
  | .dbgDebugset _ _ => none
  | .dbgSession _ _ _ _ => none
  | .dbgReadst _ _ _ _ => none
  | .memoryRead _ _ _ => none
  | .memoryWrite _ _ _ _ => none
  | .inboundWriteAck _ _ => none
  | .semRead _ _ => none
  | .semWrite _ _ _ _ => none
  | .ctrlWrite _ _ _ _ _ => none
  | .peerRequest _ _ _ => none
  | .pcieLinkDown _ => none
  | .scaleupLinkDown _ => none
  | .ptmAlign _ => none
  | .loadkey _ _ _ _ _ => none
  | .unloadkey _ => none
  | .attest _ => none
  | .startinfo => none
  | .clearstart => none
  | .powercap _ => none
  | .start _ _ => none
  | .thermalSample _ _ => none
  | .longLatencyUnitResult _ _ _ => none
  | .softError _ => none
  | .powerFailure => none
  | .scaleupLinkUp _ => none
  | .rdptrWrite _ _ => none
  | .hostReserveClaim _ _ => none
  | .keySlotLoadComplete _ _ => none
  | .ctrlRead _ _ _ => none
  | .outboundWrite _ _ _ _ => none
  | .hostReadFail _ _ _ _ => none
  | .peerAbsence _ _ _ => none
  | .energyRead _ => none
  | .tcopyTryte _ _ _ => none
  | .copyTryte _ _ => none

/-! ## The host's words -/

/-- The bytes of a number, the least significant first. -/
def bytesOf : Nat → Nat → List (BitVec 8)
  | 0, _ => []
  | n + 1, x => BitVec.ofNat 8 (x % 256) :: bytesOf n (x / 256)

/-- The instruction that the decoder reads from an instruction whose bits are `w`: a Lens word of 32 bits, or the P5 bytes of
a Torade instruction; the bits above `nbits` are 0. -/
def decodeTableWord (nbits w : Nat) : Option Instr :=
  if nbits = 32 then (match decodeLens (BitVec.ofNat 32 w) with | .ok i => some i | .error _ => none)
  else (match decodeBytes (bytesOf 12 (w % 2 ^ nbits)) with | .ok i => some i | .error _ => none)

end Sys2Proof
end

