-- ==== Sys2Proof/Machine/MatrixNum.lean ====
section
/-! DEFINITION. The arithmetic of the arrays: type codes (R311), legal pairings (R314), the windowed float accumulation and its
special cases (R316 to R318), smoothing (R319), and the conversion of `MOUT` (R331). -/

namespace Sys2Proof.Machine

/-- Matrix type codes (R311). -/
def mxT1 : Int := 1
def mxT3 : Int := 2
def mxT9 : Int := 3
def mxT27 : Int := 4
def mxTF9 : Int := -1
def mxTF27 : Int := -2
def mxTF54 : Int := -3
def mxCF54 : Int := -4

/-- The shape of an element tile (R311): rows, columns, trits of an element in a plane, planes. -/
def mxShape (ty : Int) : Nat × Nat × Nat × Nat :=
  if ty = 1 then (27, 81, 1, 1)
  else if ty = 2 then (9, 81, 3, 1)
  else if ty = 3 ∨ ty = -1 then (9, 27, 9, 1)
  else if ty = -3 then (9, 9, 27, 2)
  else if ty = -4 then (9, 9, 27, 4)
  else (9, 9, 27, 1)

/-- The float format of a type's parts (R311). -/
def mxFmt (ty : Int) : Fmt := if ty = -1 then tf9 else if ty = -2 then tf27 else tf54
/-- Whether a type's elements are floats. -/
def mxFloat (ty : Int) : Bool := decide (ty < 0)

/-- The rows of the pairing table (R314). -/
def mmaLegal (ta tb tacc tres : Int) : Bool :=
  if ta == 3 then (tb == 1 || tb == 2 || tb == 3) && tacc == 4 && tres == 4
  else if ta == -1 || ta == -2 then tb == ta && ((tacc == -2 && tres == -2) || (tacc == -3 && (tres == -2 || tres == -3)))
  else ta == -3 && tb == -3 && tacc == -3 && tres == -3
/-- The row of `MMAC` (R314). -/
def mmacLegal (ta tb tacc tres : Int) : Bool := ta == -4 && tb == -4 && tacc == -4 && tres == -4

/-- Passes per row of a legal pairing (R314). -/
def mxPasses (ta tb : Int) : Nat :=
  if tb = 1 then 1 else if tb = 2 then 3 else if tb = 3 then 9 else if ta = -1 then 6 else if ta = -2 then 63 else if ta = -3 then 276 else 1104

/-- Window precision of an accumulator type (R314). -/
def mxPrec (tacc : Int) : Nat := if tacc = -2 then 21 else 46

/-- Events that a matrix instruction counts (R305, R316, R331). -/
structure Tally where
  sat : Nat
  ovf : Nat
  flush : Nat
  nan : Nat
deriving DecidableEq, Repr

def Tally.zero : Tally := ⟨0, 0, 0, 0⟩
def Tally.add (a b : Tally) : Tally := ⟨a.sat + b.sat, a.ovf + b.ovf, a.flush + b.flush, a.nan + b.nan⟩
def Tally.sats (n : Nat) : Tally := ⟨n, 0, 0, 0⟩
def Tally.ovfs (n : Nat) : Tally := ⟨0, n, 0, 0⟩
def Tally.flushes (n : Nat) : Tally := ⟨0, 0, n, 0⟩
def Tally.nans (n : Nat) : Tally := ⟨0, 0, 0, n⟩

/-- `trunc(m * 3^k, s)` (R32). -/
def truncAt (m k s : Int) : Int := if s ≤ k then m * (pow3n (k - s) : Int) else truncInt m (s - k).toNat

/-- `ex(x)` for a nonzero m * 3^k (R316). -/
def exMK (m k : Int) : Int := (exactOf m k).expo

/-- `wround(x)` (R316). -/
def wround (p : Nat) (x : Int × Int) : Int × Int :=
  if x.1 = 0 then (0, 0)
  else
    let s := exMK x.1 x.2 - (p : Int) - 5
    (truncAt x.1 x.2 s, s)

/-- The exact sum of two values m * 3^k. -/
def addP (x y : Int × Int) : Int × Int := addMK x.1 x.2 y.1 y.2

/-- A chunk's aligned sum; none for an all-zero chunk (R316). -/
def chunkSum (p : Nat) (c : List (Int × Int)) : Option (Int × Int) :=
  match (c.filter (fun x => x.1 != 0)).map (fun x => exMK x.1 x.2) with
  | [] => none
  | e0 :: es =>
    let s := es.foldl max e0 - (p : Int) - 5
    some (c.foldl (fun a x => a + truncAt x.1 x.2 s) 0, s)

/-- The chunks of 27 of a product list, in list order (R316, R317). -/
def chunks27 (l : List (Int × Int)) : List (List (Int × Int)) :=
  (List.range ((l.length + 26) / 27)).map (fun j => (l.drop (27 * j)).take 27)

/-- R of a product list (R316). -/
def windowSum (p : Nat) (l : List (Int × Int)) : Int × Int :=
  (chunks27 l).foldl (fun r c => match chunkSum p c with | none => r | some s => wround p (addP r s)) (0, 0)

/-- R of several arrays' lists, combined in rank order (R318). -/
def windowAll (p : Nat) : List (List (Int × Int)) → Int × Int
  | [] => (0, 0)
  | l :: t => t.foldl (fun r x => wround p (addP r (windowSum p x))) (windowSum p l)

/-- The special cases over some values (R316): `none` stands for 0 · ∞. -/
inductive Special where
  | nan
  | inf (neg : Bool)
  | none
deriving DecidableEq, Repr

def specialOf (l : List (Option FVal)) : Special :=
  let neg := l.any (fun v => v == some (.inf true))
  let pos := l.any (fun v => v == some (.inf false))
  if l.any (fun v => v == Option.none || v == some .nan) || (neg && pos) then .nan
  else if neg then .inf true
  else if pos then .inf false
  else .none

/-- The finite part of a value. -/
def finPart (v : Option FVal) : Int × Int := match v with | some (.fin m k) => (m, k) | _ => (0, 0)

/-- `fpack` of m * 3^k with FOVF -1 to infinity or saturating, and its events (R316). -/
def packTally (F : Fmt) (toInf : Bool) (x : Int × Int) : Int × Tally :=
  match fpack F (if toInf then .toInf else .saturate) (exactOf x.1 x.2) with
  | .ok (c, fl) =>
    (c, if fl.overflow then (if toInf then Tally.ovfs 1 else Tally.sats 1) else if fl.flush then Tally.flushes 1 else Tally.zero)
  | .error _ => (nanCode, Tally.zero)

/-- One float element from the product lists of its arrays and the incoming element, if it is read (R316, R318). -/
def floatAcc (F : Fmt) (p : Nat) (toInf : Bool) (lists : List (List (Option FVal))) (c : Option FVal) : Int × Tally :=
  match specialOf (lists.flatten ++ (match c with | some v => [some v] | none => [])) with
  | .nan => (nanCode, Tally.nans 1)
  | .inf n => (infCode F n, Tally.zero)
  | .none =>
    let r := windowAll p (lists.map (fun l => l.map finPart))
    packTally F toInf (match c with | some v => addP (finPart (some v)) r | none => r)

/-- d + s in a float type (R330). -/
def floatSum (F : Fmt) (toInf : Bool) (a b : FVal) : Int × Tally :=
  match specialOf [some a, some b] with
  | .nan => (nanCode, Tally.nans 1)
  | .inf n => (infCode F n, Tally.zero)
  | .none => packTally F toInf (addP (finPart (some a)) (finPart (some b)))

/-- The negative of a product. -/
def negOpt (v : Option FVal) : Option FVal := v.map FVal.neg

/-- A complex product's list entries: real and imaginary (R317). -/
def complexEntries (a b : FVal × FVal) : List (Option FVal) × List (Option FVal) :=
  ([fmulV a.1 b.1, negOpt (fmulV a.2 b.2)], [fmulV a.1 b.2, fmulV a.2 b.1])

/-- The value of an integer type's saturated sum and its event. -/
def satTally (x : Int) : Int × Tally := let y := sat x 27; (y, if y = x then Tally.zero else Tally.sats 1)

/-- One integer element: the arrays' partial sums, saturated first where there are several (R315, R318). An element that is
saturated anywhere counts once. -/
def intAcc (partials : List Int) (c : Int) : Int × Tally :=
  match partials with
  | [x] => satTally (c + x)
  | l =>
    let ps := l.map (fun x => sat x 27)
    let y := satTally (ps.foldl (· + ·) c)
    if ps = l then y else (y.1, Tally.sats 1)

/-- `fpack(b * s, TB, saturate)` on the code of a part, with its events (R319). -/
def smoothPart (F : Fmt) (factor : Word) (code : Int) : Int × Tally :=
  match fmulV (fval F code) (fval tf27 factor.val) with
  | none => (nanCode, Tally.zero)
  | some .nan => (nanCode, Tally.zero)
  | some (.inf n) => (infCode F n, Tally.zero)
  | some (.fin m k) => packTally F false (m, k)

/-- One part of an element of `MOUT` (R331): source type, output type, SHIFT, NEG and OVF. -/
def moutPart (tc tout : Int) (shift : Int) (neg : Bool) (ovf : Int) (code : Int) : Int × Tally :=
  let v0 : FVal := if mxFloat tc then fval (mxFmt tc) code else .fin code 0
  let v1 : FVal := match v0 with | .fin m k => .fin m (k - shift) | v => v
  let v := if neg then v1.neg else v1
  if mxFloat tout then
    let F := mxFmt tout
    match v with
    | .nan => (nanCode, Tally.zero)
    | .inf n => (infCode F n, Tally.zero)
    | .fin m k => packTally F (ovf == -1) (m, k)
  else
    let n := if tout = 3 then 9 else 27
    match v with
    | .nan => (0, Tally.nans 1)
    | .inf neg => (if neg then -(half n : Int) else (half n : Int), Tally.ovfs 1)
    | .fin m k =>
      let x := truncAt m k 0
      if fits x n then (x, Tally.zero)
      else if ovf = -1 then (wrap x n, Tally.ovfs 1)
      else (sat x n, Tally.sats 1)

end Sys2Proof.Machine
end

