-- ==== Sys2Proof/Machine/Matrix.lean ====
section
/-! DEFINITION. The matrix class: what the instructions of a sequencer check and queue at issue (R305 to R314, R320 to R333). -/

namespace Sys2Proof.Machine

/-! ## Regions and tags -/

/-- Tile columns, tiles of a plane, and tiles of a region (R312). -/
def MxRegion.tcb (r : MxRegion) : Nat := (r.cols + (mxShape r.ty).2.1 - 1) / (mxShape r.ty).2.1
def MxRegion.nt (r : MxRegion) : Nat := (r.rows + (mxShape r.ty).1 - 1) / (mxShape r.ty).1 * r.tcb
def MxRegion.tiles (r : MxRegion) : Nat := (mxShape r.ty).2.2.2 * r.nt

/-- The keys of the tags of a region's tiles (R313). -/
def MxRegion.tagKeys (r : MxRegion) : List Nat := (List.range r.tiles).map (fun i => tagKey r.core r.path (r.tile + i))
/-- Whether every tile of a region carries a tag (R313). -/
def State.tagsAre (s : State) (r : MxRegion) (t : Int) : Bool := r.tagKeys.all (fun k => mapGet 0 s.tags k == t)

/-- The trytes of a region (R320). -/
def MxRegion.foot (r : MxRegion) (write : Bool) : Foot :=
  ⟨false, 3 * r.core + r.path, 243 * (r.tile : Int), 243 * ((r.tile + r.tiles : Nat) : Int) - 1, write⟩

/-- Where an element's part stands (R311, R312): tile in the region, word in the tile, and first trit. -/
def MxRegion.place (r : MxRegion) (row col plane : Nat) : Nat × Nat × Nat :=
  let (h, w, n, _) := mxShape r.ty
  let tile := plane * r.nt + row / h * r.tcb + col / w
  let i := row % h
  let t := if r.ty = 1 then 81 * (i % 3) + col % w else n * (col % w)
  (tile, 9 * (if r.ty = 1 then i / 3 else i) + t / 27, t % 27)

/-- One plane's code of an element, from the words of the region's tiles. -/
def MxRegion.plane (r : MxRegion) (get : Nat → Nat → Word) (row col q : Nat) : Int :=
  let (tile, word, lo) := r.place row col q
  ((get tile word).field lo (mxShape r.ty).2.2.1).val

/-- The parts of an element: one code, or the real and the imaginary code of CF54 (R311). -/
def MxRegion.parts (r : MxRegion) (get : Nat → Nat → Word) (row col : Nat) : List Int :=
  let at_ := r.plane get row col
  let two := fun (q : Nat) => at_ q + at_ (q + 1) * ((3 ^ 27 : Nat) : Int)
  if r.ty = -4 then [two 0, two 2] else if r.ty = -3 then [two 0] else [at_ 0]

/-- A word of a region's tile in its buffer. -/
def State.mxWord (s : State) (r : MxRegion) (tile word : Nat) : Word := s.bufWord r.core r.path (81 * (r.tile + tile) + word)

/-- One plane's code of an element written. -/
def State.setPlane (s : State) (r : MxRegion) (row col q : Nat) (v : Int) : State :=
  let (tile, word, lo) := r.place row col q
  let n := (mxShape r.ty).2.2.1
  s.setBufWord r.core r.path (81 * (r.tile + tile) + word) ((s.mxWord r tile word).setField lo (Tern.ofInt n v))

/-- The parts of an element written. -/
def State.setParts (s : State) (r : MxRegion) (row col : Nat) (parts : List Int) : State :=
  let two := fun (st : State) (q : Nat) (c : Int) =>
    let a : Addr := Tern.ofInt 54 c
    (st.setPlane r row col q (pairLo a).val).setPlane r row col (q + 1) (pairHi a).val
  if r.ty = -4 then two (two s 0 (parts.getD 0 0)) 2 (parts.getD 1 0)
  else if r.ty = -3 then two s 0 (parts.getD 0 0)
  else s.setPlane r row col 0 (parts.getD 0 0)

/-! ## Arrays -/

/-- An array that has loaded nothing (R309). -/
def MxArray.empty : MxArray := ⟨none, none, false⟩
/-- The array of a core. -/
def State.array (s : State) (core : Nat) : MxArray := mapGet MxArray.empty s.arrays core
/-- The array of a core changed. -/
def State.setArray (s : State) (core : Nat) (a : MxArray) : State := { s with arrays := mapSet MxArray.empty s.arrays core a }

/-- The core of a rank of a context's cluster (R15). -/
def Group.rankCore (g : Group) (r : Nat) : Nat := coreOfRank (clusterOf g.core) r

/-- The incomplete matrix instructions of a context, oldest first (R320). -/
def State.mxOpen (s : State) (g : Group) : List (Nat × MxJob) :=
  s.mxJobs.filter (fun e => e.2.launch == g.launch && e.2.cluster == clusterOf g.core && !e.2.complete)

/-- How many of a context's instructions are incomplete, the oldest counted as completing first (R332). -/
def State.mxIncomplete (s : State) (g : Group) : Nat :=
  match g.ctx, s.mxOpen g with
  | some c, e :: _ => c.issuedMx - e.2.nth
  | _, _ => 0

/-- The oldest complete instruction of a context with a recorded fault (R322). -/
def State.mxFaulted (s : State) (g : Group) : Option (Nat × MxJob) :=
  s.mxJobs.find? (fun e => e.2.launch == g.launch && e.2.cluster == clusterOf g.core && e.2.complete)

/-- A recorded matrix fault raised at a trigger, and the younger recorded faults of its split discarded (R322, R187, R362). -/
def State.raiseMx (s : State) (key : Nat) (id : Nat) (j : MxJob) (trigger : Addr) : State :=
  let rank := match j.arrays with | c :: _ => rankOf c | [] => 0
  { s.modGroup key (fun g => { g with faults := g.faults.filter (fun d => decide (d.seq < j.seq)) }) with
    mxJobs := (mapErase id s.mxJobs).filter (fun e =>
      !(e.2.launch == j.launch && e.2.cluster == j.cluster && e.2.complete && decide (j.seq < e.2.seq))) }.takeTrap key 0
    { cause := j.fault.getD .accSaturated, info := (rank : Int), epc := j.pc, deferred := some (trigger, j.region, j.ecount) }

/-! ## What an instruction asks for -/

/-- A matrix instruction that has passed its checks. -/
structure MxPlan where
  op : MxOp
  arrays : List Nat
  /-- cores whose buffers of the bound crew it uses, and the crews of the blocks that it reads again (R307, R309) -/
  cores : List Nat
  crews : List (Nat × Nat) := []
  foot : List Foot
  units : Nat
  /-- regions whose tiles it tags, with the tags -/
  tags : List MxRegion := []
  barrier : List Loc := []
  arrive : Nat := 0
  /-- the descriptor that it leaves on its array, its job apart -/
  desc : Option MxDesc := none
  /-- micro-tiles of an `MMA` or `MMAC` -/
  micro : Option Nat := none
deriving DecidableEq, Repr

/-- A check: the cause where it fails. -/
def failIf (b : Bool) (c : Cause) : Except Cause Unit := if b then .error c else .ok ()

/-- Whether a rank is claimed by the context and holds a crew of the bound index (R321). -/
def Fr.rankOk (fr : Fr) (r : Nat) : Bool :=
  match fr.g.ctx with
  | some c => c.claims.contains r && (fr.s.crew? fr.g.launch (fr.g.rankCore r) c.binding).isSome
  | none => false

/-- The rank of the executing array (R321 check 3, R326): of a buffer address with a rank; an address that has none is left to
the address checks. -/
def Fr.mxRank (fr : Fr) (a : Addr) : Except Cause Nat :=
  if (bufPath (addrPath a)).isNone || bufRank a == 0 || decide (4 < bufRank a) then .ok 0
  else if fr.rankOk (bufRank a - 1) then .ok (bufRank a - 1)
  else .error .matrixRankAbsent

/-- What a region's address must meet (R174, R312). -/
def mxReq (path : Nat) (write : Bool) (aligned : Addr → Bool := tileAligned) : Req :=
  { write := write, atomic := false, aligned := aligned, users := fun b _ => b == path, bufOnly := true }

/-- The address checks of an instruction (R321 check 4). -/
def Fr.mxAddrs (fr : Fr) (l : List (Req × Addr)) : Except Cause Unit :=
  match l.foldl (fun m e => minCheck m (earlyCheck fr.s (fr.g.agent fr.sp.idx) e.1 false e.2)) none with
  | some (_, c) => .error c
  | none => .ok ()

/-- The region at an address that has passed its checks. -/
def Fr.mxRegion (fr : Fr) (a : Addr) (ty : Int) (rows cols : Nat) : MxRegion :=
  let ag := fr.g.agent fr.sp.idx
  let path := (bufPath (addrPath a)).getD 0
  let tile := match bufLoc fr.s ag a 0 with | .buf _ _ i => i / 243 | _ => 0
  { core := ag.bufCore a, path := path, tile := tile, ty := ty, rows := rows, cols := cols }

/-- The tile past the allocation that an address reaches (R173). -/
def Fr.mxEnd (fr : Fr) (a : Addr) : Nat :=
  let path := (bufPath (addrPath a)).getD 0
  match fr.s.crew? fr.g.launch ((fr.g.agent fr.sp.idx).bufCore a) (fr.g.agent fr.sp.idx).crew with
  | some c => c.base.getD path 0 + c.tiles.getD path 0
  | none => 0

/-- Whether a region runs past its allocation (R312). -/
def Fr.mxOver (fr : Fr) (a : Addr) (r : MxRegion) : Bool := decide (fr.mxEnd a < r.tile + r.tiles)

/-- The type of a region whose field holds TAG: the tag of its first tile (R313). -/
def Fr.firstTag (fr : Fr) (a : Addr) : Except Cause Int :=
  let r := fr.mxRegion a 0 1 1
  let t := mapGet 0 fr.s.tags (tagKey r.core r.path r.tile)
  if t = 0 then .error .tagMissing else .ok t

/-- A region whose type is read from its tags: all tiles must agree (R313). -/
def Fr.tagRegion (fr : Fr) (a : Addr) (rows cols : Nat) : Except Cause MxRegion := do
  let t ← fr.firstTag a
  let r := fr.mxRegion a t rows cols
  failIf (fr.mxOver a r) .bufferBounds
  failIf (!fr.s.tagsAre r t) .tagMissing
  .ok r

/-- A region of an explicit type, inside its allocation. -/
def Fr.typedRegion (fr : Fr) (a : Addr) (ty : Int) (rows cols : Nat) : Except Cause MxRegion := do
  let r := fr.mxRegion a ty rows cols
  failIf (fr.mxOver a r) .bufferBounds
  .ok r

/-- The bounds of a region whose type field is explicit: an address check (R312, R321 check 4). -/
def Fr.mxFits (fr : Fr) (a : Addr) (ty : Int) (rows cols : Nat) : Except Cause Unit :=
  failIf (ty != 0 && fr.mxOver a (fr.mxRegion a ty rows cols)) .bufferBounds

/-- The region of a type field: explicit, or read from the tags. -/
def Fr.fieldRegion (fr : Fr) (a : Addr) (ty : Int) (rows cols : Nat) : Except Cause MxRegion :=
  if ty = 0 then fr.tagRegion a rows cols else fr.typedRegion a ty rows cols

/-- Whether a context's earlier accesses must return before a matrix instruction issues: acquires, and accesses that reach a
buffer (R232, R325). -/
def Fr.mxWaits (fr : Fr) : Bool :=
  fr.g.infl.any (fun a => !a.done && (a.acq || a.lanes.any (fun x => x.locs.any (fun l => match l with | .buf _ _ _ => true | _ => false))))

/-- Whether an array's queue is full (R320). -/
def State.mxFull (s : State) (core : Nat) : Bool :=
  decide (9 ≤ (s.mxJobs.filter (fun e => !e.2.complete && e.2.arrays.contains core)).length)

/-- A planned instruction joins its arrays' queues (R320): its tags are set (R313), and `MLDW` leaves its descriptor. -/
def Fr.mxAccept (fr : Fr) (s : State) (p : MxPlan) (words : List Word) (ops : List (Option Addr)) : State :=
  let id := s.nextJob
  let nth := match fr.g.ctx with | some c => c.issuedMx | none => 0
  let news := p.tags.flatMap (fun r => r.tagKeys.map (fun k => (k, r.ty)))
  let job : MxJob :=
    { launch := fr.g.launch, cluster := clusterOf fr.g.core, nth := nth, seq := fr.g.nextSeq, op := p.op, arrays := p.arrays, words := words, pc := fr.sp.pc
      region := fr.sp.region, ecount := fr.sp.ecount, ops := ops
      crews := (p.cores.map (fun c => (c, (fr.g.agent fr.sp.idx).crew)) ++ p.crews).eraseDups, foot := p.foot, barrier := p.barrier, arrive := p.arrive
      units := p.units, done := [], tags := news.map (fun (e : Nat × Int) => (e.1, mapGet 0 s.tags e.1, e.2)), fault := none, complete := false }
  let s1 := { s with mxJobs := mapInsert id job s.mxJobs, nextJob := id + 1, tags := news.foldl (fun (m : FMap Int) (e : Nat × Int) => mapSet 0 m e.1 e.2) s.tags }
  let s2 : State := match p.desc, p.arrays with
    | some d, core :: _ => s1.setArray core { s1.array core with desc := some { d with job := id, seq := fr.g.nextSeq } }
    | _, _ => s1
  s2.modGroup fr.key (fun g => { g with
    nextSeq := g.nextSeq + 1
    ctx := g.ctx.map (fun c => { c with issuedMx := c.issuedMx + 1
                                        lastMma := match p.micro with | some n => some (id, n) | none => c.lastMma }) })

/-- The running of a matrix instruction at issue: its checks, then a place in its queues; while one of them is full the context is not
ready (R320, R321). -/
def Fr.mxIssue (fr : Fr) (s1 : State) (plan : Except Cause MxPlan) (words : List Word) (ops : List (Option Addr)) : Except Halt State :=
  if !fr.any then .ok s1
  else if fr.mxWaits then .error .full
  else
    match plan with
    | .error c => fr.fail c
    | .ok p => if p.arrays.any fr.s.mxFull then .error .full else .ok (fr.mxAccept s1 p words ops)

/-- The words of an instruction of format L (R58, R326). -/
def lWords (op : Nat) (f : LFmt) : List Word := [encR op f.r, f.ext]

/-! ## MLDW -/

/-- A compressed stream's tiles (R328): each a list of 81 words, and the word past the stream; no tiles where it is bad. -/
def inflate (get : Nat → Word) (limit : Nat) : Nat → Nat → Option (List (List Word)) × Nat
  | 0, p => (some [], p)
  | n + 1, p =>
    if limit ≤ p then (none, p)
    else
      let h := get p
      let present := (List.range 9).filter (fun i => h.trit i == 1)
      let last := p + 1 + 9 * present.length
      if (List.range 9).any (fun i => h.trit i == -1) || (h.field 9 18).val != 0 then (none, p + 1)
      else if limit < last then (none, limit)
      else
        let row := fun (i : Nat) =>
          match present.findIdx? (· == i) with
          | some k => (List.range 9).map (fun j => get (p + 1 + 9 * k + j))
          | none => List.replicate 9 wzero
        match inflate get limit n last with
        | (some ts, e) => (some ((List.range 9).flatMap row :: ts), e)
        | (none, e) => (none, e)

/-- The stream of a region in a buffer. -/
def State.inflateAt (s : State) (r : MxRegion) (limit : Nat) : Option (List (List Word)) × Nat :=
  inflate (fun p => s.bufWord r.core r.path p) limit r.tiles (81 * r.tile)

/-- The smoothing factors of `MLDW`, read at issue (R319, R328). -/
def Fr.mxFactors (fr : Fr) (a : Addr) (k : Nat) : List Word :=
  let ag := fr.g.agent fr.sp.idx
  match bufLoc fr.s ag a 0 with
  | .buf core path i => (List.range k).map (fun j => fr.s.bufWord core path (i / 3 + j))
  | _ => []

/-- The trytes of the smoothing factors. -/
def Fr.mxFactorFoot (fr : Fr) (a : Addr) (k : Nat) : Foot :=
  match bufLoc fr.s (fr.g.agent fr.sp.idx) a 0 with
  | .buf core path i => ⟨false, 3 * core + path, (i : Int) - 1, ((i + 3 * k : Nat) : Int) - 2, false⟩
  | _ => ⟨true, 0, 0, -1, false⟩

/-- The first fault of the factors in order (R328). -/
def factorFault : List Word → Option Cause
  | [] => none
  | w :: t =>
    match fval tf27 w.val with
    | .fin m _ => if m = 0 then some .smoothingZero else factorFault t
    | _ => some .formatCode

/-- The checks of `MLDW` (R321, R328): a code that its field refuses at check 2; a type read from the tags once they agree. -/
def Fr.mldwPlan (fr : Fr) (f : LFmt) : Except Cause MxPlan := do
  let tb0 := (f.ext.field 25 2).val
  let k := (f.ext.field 20 5).index + 1
  let n := (f.ext.field 16 4).index + 1
  let comp := f.ext.trit 15 == 1
  let smooth := f.ext.trit 14 == 1
  let wa := fr.readS2 1 f.r.a.index
  let sa := fr.readS2 0 f.r.d.index
  failIf (tb0 == 4 || (smooth && tb0 != 0 && !mxFloat tb0)) .typePairIllegal
  let r ← fr.mxRank wa
  fr.mxAddrs ((mxReq 1 false, wa) :: (if smooth then [(mxReq 0 false wordAligned, sa)] else []))
  failIf (smooth && decide (243 * fr.mxEnd sa < (match bufLoc fr.s (fr.g.agent fr.sp.idx) sa 0 with | .buf _ _ i => i - 1 + 3 * k | _ => 0))) .bufferBounds
  fr.mxFits wa (if comp then 0 else tb0) k n
  let tb ← if tb0 = 0 then fr.firstTag wa else .ok tb0
  let reg := fr.mxRegion wa tb k n
  failIf (!comp && fr.mxOver wa reg) .bufferBounds
  let limit := 81 * fr.mxEnd wa
  let stream := fr.s.inflateAt reg limit
  let span : MxRegion := { reg with ty := 4, rows := 9, cols := 9 * ((stream.2 - 1) / 81 + 1 - reg.tile) }
  failIf (tb0 == 0 && !(if comp then fr.s.tagsAre span tb else fr.s.tagsAre reg tb)) .tagMissing
  failIf (tb == 4 || (smooth && !mxFloat tb)) .typePairIllegal
  let factors := if smooth then fr.mxFactors sa k else []
  failIf (smooth && fr.s.footBad [fr.mxFactorFoot sa k]) .bufferUncorrectable
  match factorFault factors with
  | some c => .error c
  | none =>
    let op : MxOp := .load reg comp limit factors
    let foot := if comp then { reg.foot false with hi := 3 * (stream.2 : Int) - 1 } else reg.foot false
    .ok { op := op, arrays := [fr.g.rankCore r], cores := [reg.core], foot := [foot], units := 1
          desc := some { job := 0, seq := 0, ty := tb, k := k, n := n, words := lWords 203 f, waddr := wa
                         saddr := if smooth then some sa else none, op := op, void := false
                         crews := [(reg.core, (fr.g.agent fr.sp.idx).crew)], pc := fr.sp.pc, region := fr.sp.region, ecount := fr.sp.ecount } }

/-- What `MLDW` uses. -/
def mldwUse (f : LFmt) : Use :=
  let smooth := f.ext.trit 14 == 1
  { matrix := true
    resv := resvPred f.r.h || (!smooth && resvReg f.r.d) || resvReg f.r.b || f.r.fn.val != 0 || reuseBad f.r true false || (f.ext.field 0 14).val != 0
      || f.ext.trit 15 == -1 || f.ext.trit 14 == -1
    opds := pairOpd f.r.a.index true false :: (if smooth then [pairOpd f.r.d.index true false] else []) }

/-- MLDW (R309, R319, R328). -/
def execMldw (f : LFmt) (s : State) : Out :=
  let smooth := f.ext.trit 14 == 1
  runOp s f.r.h (mldwUse f) 2 fun fr s1 =>
    fr.mxIssue s1 (fr.mldwPlan f) (lWords 203 f)
      [if smooth then some (fr.readS2 0 f.r.d.index) else none, some (fr.readS2 1 f.r.a.index), none]

/-! ## MMA and MMAC -/

/-- The arrays of an `MMA` at a rank: ranks r to r + s - 1 (R318). -/
def mxRanks (r ks : Nat) : List Nat := if r % ks = 0 then (List.range ks).map (fun i => r + i) else [r]

/-- K-split of a context. -/
def Fr.ksplit (fr : Fr) : Nat := match fr.g.ctx with | some c => c.ksplit | none => 1

/-- The resolved types of an `MMA`'s C side (R313, steps 3 and 4): TRES, TACC, and whether TRES was read from the tags. -/
def Fr.mmaResult (fr : Fr) (c : Addr) (tacc tres : Int) (beta : Bool) : Except Cause (Int × Int × Bool) :=
  if tres ≠ 0 then .ok (tres, (if tacc = 0 then tres else tacc), false)
  else if tacc ≠ 0 then .ok (tacc, tacc, false)
  else if beta then .error .tagMissing
  else match fr.firstTag c with
    | .error e => .error e
    | .ok t => .ok (t, t, true)

/-- The bounds of an `MMA`'s regions whose types are explicit, once the loaded block gives K and N (R312, R321 check 4). -/
def Fr.mmaFits (fr : Fr) (c a : Addr) (tacc tres ta : Int) (m : Nat) : List MxDesc → Except Cause Unit
  | [] => .ok ()
  | d :: _ => do
    fr.mxFits c (if d.void then 0 else if tres = 0 then tacc else tres) m d.n
    fr.mxFits a (if d.void then 0 else ta) m (d.k * fr.ksplit)

/-- The checks of `MMA` and `MMAC` (R321, R329). -/
def Fr.mmaPlan (fr : Fr) (cplx : Bool) (f : LFmt) : Except Cause MxPlan := do
  let x := f.ext
  let ta0 := (x.field 25 2).val
  let tb0 := (x.field 23 2).val
  let tacc0 := (x.field 21 2).val
  let tres0 := (x.field 19 2).val
  let m := (x.field 13 6).index + 1
  let beta := x.trit 12 == 1
  let ca := fr.readS2 0 f.r.d.index
  let aa := fr.readS2 1 f.r.a.index
  failIf (cplx && [ta0, tb0, tacc0, tres0].any (fun t => t != 0 && t != -4)) .typePairIllegal
  let r ← fr.mxRank ca
  let ks := fr.ksplit
  let ranks := mxRanks r ks
  failIf ((bufPath (addrPath ca)).isSome && decide (1 ≤ bufRank ca) && decide (bufRank ca ≤ 4) && !ranks.all fr.rankOk) .matrixRankAbsent
  fr.mxAddrs [(mxReq 2 true, ca), (mxReq 0 false, aa)]
  let cores := ranks.map fr.g.rankCore
  let descs := cores.map (fun c => (fr.s.array c).desc)
  fr.mmaFits ca aa tacc0 tres0 ta0 m (descs.filterMap id)
  failIf (decide (r % ks ≠ 0)) .shapeIllegal
  match descs.filterMap id with
  | [] => .error .arrayNotLoaded
  | d :: ds =>
    failIf (decide (1 + ds.length ≠ cores.length)) .arrayNotLoaded
    if (d :: ds).any (·.void) then
      .ok { op := .void, arrays := cores, cores := [fr.g.rankCore r], foot := [], units := (m + 8) / 9, micro := some ((m + 8) / 9) }
    else do
      failIf ((decide (1 < ks) && decide (d.k % 27 ≠ 0)) || ds.any (fun e => e.k != d.k || e.n != d.n)) .shapeIllegal
      let kt := d.k * ks
      let areg ← fr.fieldRegion aa ta0 m kt
      failIf ((tb0 != 0 && tb0 != d.ty) || ds.any (fun e => e.ty != d.ty)) .typePairIllegal
      let (tres, tacc, tagged) ← fr.mmaResult ca tacc0 tres0 beta
      let creg ← if tagged then fr.tagRegion ca m d.n else fr.typedRegion ca tres m d.n
      failIf (!(if cplx then mmacLegal areg.ty d.ty tacc tres else mmaLegal areg.ty d.ty tacc tres)) .typePairIllegal
      failIf (!beta && !fr.s.tagsAre creg tres) .accFormatMismatch
      let est := mxPasses areg.ty d.ty * (9 * ((m + 8) / 9))
      let whole := decide (ks = 1) && areg.core == creg.core && decide (est ≤ 16384)
      .ok { op := .mma areg creg d.k beta (x.trit 11) (x.trit 10 == 1) (mxPrec tacc), arrays := cores, cores := [areg.core, creg.core]
            crews := (d :: ds).flatMap (·.crews), foot := [areg.foot false, creg.foot true], units := if whole then 1 else (m + 8) / 9, tags := [creg], micro := some ((m + 8) / 9) }

/-- The use of `MMA` and `MMAC` (R326, R329). -/
def mmaUse (f : LFmt) : Use :=
  { matrix := true
    resv := resvPred f.r.h || resvReg f.r.b || f.r.fn.val != 0 || reuseBad f.r true false || (f.ext.field 0 10).val != 0
      || f.ext.trit 12 == -1 || f.ext.trit 11 == 1 || f.ext.trit 10 == -1
    opds := [pairOpd f.r.d.index true false, pairOpd f.r.a.index true false] }

/-- MMA (R315, R316, R329). -/
def execMma (f : LFmt) (s : State) : Out :=
  runOp s f.r.h (mmaUse f) 2 fun fr s1 =>
    fr.mxIssue s1 (fr.mmaPlan false f) (lWords 204 f) [some (fr.readS2 0 f.r.d.index), some (fr.readS2 1 f.r.a.index), none]

/-- MMAC (R317, R329). -/
def execMmac (f : LFmt) (s : State) : Out :=
  runOp s f.r.h (mmaUse f) 2 fun fr s1 =>
    fr.mxIssue s1 (fr.mmaPlan true f) (lWords 205 f) [some (fr.readS2 0 f.r.d.index), some (fr.readS2 1 f.r.a.index), none]

/-! ## MZERO and MACC -/

/-- Result types that `MZERO` and `MACC` admit (R330). -/
def accType (t : Int) : Bool := t == 4 || t == -2 || t == -3 || t == -4

/-- The checks of `MZERO` (R321, R330). -/
def Fr.mzeroPlan (fr : Fr) (f : LFmt) : Except Cause MxPlan := do
  let t := (f.ext.field 25 2).val
  let m := (f.ext.field 19 6).index + 1
  let n := (f.ext.field 15 4).index + 1
  let ca := fr.readS2 0 f.r.d.index
  failIf (t == 0) .tagMissing
  failIf (!accType t) .typePairIllegal
  let r ← fr.mxRank ca
  fr.mxAddrs [(mxReq 2 true, ca)]
  let d ← fr.typedRegion ca t m n
  .ok { op := .zero d, arrays := [fr.g.rankCore r], cores := [d.core], foot := [d.foot true], units := 1, tags := [d] }

/-- What `MZERO` uses. -/
def mzeroUse (f : LFmt) : Use :=
  { matrix := true
    resv := resvPred f.r.h || resvReg f.r.a || resvReg f.r.b || f.r.fn.val != 0 || reuseBad f.r false false || (f.ext.field 0 15).val != 0
    opds := [pairOpd f.r.d.index true false] }

/-- MZERO (R330). -/
def execMzero (f : LFmt) (s : State) : Out :=
  runOp s f.r.h (mzeroUse f) 2 fun fr s1 =>
    fr.mxIssue s1 (fr.mzeroPlan f) (lWords 206 f) [some (fr.readS2 0 f.r.d.index), none, none]

/-- The checks of `MACC` (R321, R330). -/
def Fr.maccPlan (fr : Fr) (f : LFmt) : Except Cause MxPlan := do
  let t0 := (f.ext.field 25 2).val
  let m := (f.ext.field 19 6).index + 1
  let n := (f.ext.field 15 4).index + 1
  let da := fr.readS2 0 f.r.d.index
  let sa := fr.readS2 1 f.r.a.index
  failIf (t0 != 0 && !accType t0) .typePairIllegal
  let r ← fr.mxRank da
  fr.mxAddrs [(mxReq 2 true, da), (mxReq 2 false, sa)]
  fr.mxFits da t0 m n
  fr.mxFits sa t0 m n
  let d ← fr.fieldRegion da t0 m n
  let t := d.ty
  failIf (!accType t) .typePairIllegal
  let src ← fr.typedRegion sa t m n
  failIf (!fr.s.tagsAre src t) .accFormatMismatch
  let same := src.core == d.core && src.tile == d.tile
  failIf (!same && src.core == d.core && decide (src.tile < d.tile + d.tiles) && decide (d.tile < src.tile + src.tiles)) .cRegionOverlap
  .ok { op := .acc d src (f.ext.trit 14) (f.ext.trit 13 == 1), arrays := [fr.g.rankCore r], cores := [d.core, src.core]
        foot := [d.foot true, src.foot false], units := 1, tags := [d] }

/-- What `MACC` uses. -/
def maccUse (f : LFmt) : Use :=
  { matrix := true
    resv := resvPred f.r.h || resvReg f.r.b || f.r.fn.val != 0 || reuseBad f.r true false || (f.ext.field 0 13).val != 0
      || f.ext.trit 14 == 1 || f.ext.trit 13 == -1
    opds := [pairOpd f.r.d.index true false, pairOpd f.r.a.index true false] }

/-- MACC (R330). -/
def execMacc (f : LFmt) (s : State) : Out :=
  runOp s f.r.h (maccUse f) 2 fun fr s1 =>
    fr.mxIssue s1 (fr.maccPlan f) (lWords 211 f) [some (fr.readS2 0 f.r.d.index), some (fr.readS2 1 f.r.a.index), none]

/-! ## MOUT -/

/-- The checks of `MOUT` (R321, R331). -/
def Fr.moutPlan (fr : Fr) (f : LFmt) : Except Cause MxPlan := do
  let x := f.ext
  let tout := (x.field 25 2).val
  let tc0 := (x.field 23 2).val
  let m := (x.field 17 6).index + 1
  let n := (x.field 13 4).index + 1
  let barr := x.trit 6 == 1
  let oa := fr.readS2 0 f.r.d.index
  let ca := fr.readS2 1 f.r.a.index
  let ba := fr.readS2 2 f.r.b.index
  failIf (tout == 0) .tagMissing
  failIf (tout == 1 || tout == 2 || (tc0 != 0 && !accType tc0)) .typePairIllegal
  let r ← fr.mxRank ca
  fr.mxAddrs ((mxReq 0 true, oa) :: (mxReq 2 false, ca) :: (if barr then [(mxReq 0 true wordAligned, ba)] else []))
  fr.mxFits oa tout m n
  fr.mxFits ca tc0 m n
  let c ← fr.fieldRegion ca tc0 m n
  failIf (!accType c.ty || ((tout == -4) != (c.ty == -4))) .typePairIllegal
  let o ← fr.typedRegion oa tout m n
  failIf (!fr.s.tagsAre c c.ty) .accFormatMismatch
  let ag := fr.g.agent fr.sp.idx
  .ok { op := .out c o (x.trit 12 == 1) (x.field 8 4).val (x.trit 7), arrays := [fr.g.rankCore r]
        cores := [c.core, o.core] ++ (if barr then [ag.bufCore ba] else []), foot := [c.foot false, o.foot true], units := 1, tags := [o]
        barrier := if barr then [-1, 0, 1].map (bufLoc fr.s ag ba) else [], arrive := if barr then 243 * o.tiles else 0 }

/-- What `MOUT` uses. -/
def moutUse (f : LFmt) : Use :=
  let barr := f.ext.trit 6 == 1
  { matrix := true
    resv := resvPred f.r.h || (!barr && resvReg f.r.b) || f.r.fn.val != 0 || reuseBad f.r true barr || (f.ext.field 0 6).val != 0
      || f.ext.trit 12 == -1 || f.ext.trit 6 == -1
    opds := [pairOpd f.r.d.index true false, pairOpd f.r.a.index true false] ++ (if barr then [pairOpd f.r.b.index true false] else []) }

/-- MOUT (R331). -/
def execMout (f : LFmt) (s : State) : Out :=
  let barr := f.ext.trit 6 == 1
  runOp s f.r.h (moutUse f) 2 fun fr s1 =>
    fr.mxIssue s1 (fr.moutPlan f) (lWords 207 f)
      [some (fr.readS2 0 f.r.d.index), some (fr.readS2 1 f.r.a.index), if barr then some (fr.readS2 2 f.r.b.index) else none]

/-! ## MWAIT and MSTAT -/

/-- What `MWAIT` uses. -/
def mwaitUse (f : IFmt) : Use :=
  { matrix := true, resv := resvPred f.h || resvReg f.d || resvReg f.a || decide (f.imm.val < 0) }

/-- MWAIT (R332): it issues once few enough instructions are incomplete, and raises a recorded fault then. -/
def execMwait (f : IFmt) (s : State) : Out :=
  runOp s f.h (mwaitUse f) 1 fun fr s1 =>
    if !fr.any then .ok s1
    else if f.imm.val < (fr.s.mxIncomplete fr.g : Int) then .error .full
    else
      match fr.s.mxFaulted fr.g with
      | some (id, j) => .ok (fr.s.raiseMx fr.key id j fr.sp.pc)
      | none => .ok s1

/-- The micro-tiles finished of an `MMA` or `MMAC` of `n`: all of them once it is complete, and before that those of one that runs micro-tile
by micro-tile (R323, R333). -/
def MxJob.finished (j : MxJob) (n t : Nat) : Bool := if j.complete then decide (t < n) else j.units == n && j.done.contains t

/-- The micro-tiles finished of the context's latest `MMA` or `MMAC` (R333). -/
def State.mxDone (s : State) (c : CtxState) : Nat → Bool :=
  match c.lastMma with
  | none => fun _ => false
  | some (id, n) =>
    match mapFind id s.mxJobs with
    | none => fun t => decide (t < n)
    | some j => j.finished n

/-- A mask word of 27 micro-tiles (R333). -/
def maskWord (p : Nat → Bool) (first : Nat) : Word := ofEls 1 ((List.range 27).map (fun t => if p (first + t) then 1 else 0))

/-- The value of an `MSTAT` selector (R333). -/
def State.mstat (s : State) (g : Group) (c : CtxState) (sel : Nat) : Word :=
  if sel = 0 then
    let ks : Int := if c.ksplit = 1 then 0 else if c.ksplit = 2 then 1 else 2
    let claims := (c.claims.map (fun r => (3 : Int) ^ (6 + r))).foldl (· + ·) 0
    Tern.ofInt 27 (((s.mxOpen g).length : Int) + claims + (ks - 4) * 3 ^ 10 + ((c.binding : Int) - 364) * 3 ^ 12)
  else if sel ≤ 3 then maskWord (s.mxDone c) (27 * (sel - 1))
  else if sel = 4 then c.sat
  else if sel = 5 then c.ovf
  else if sel = 6 then c.flush
  else c.nan

/-- What `MSTAT` uses. -/
def mstatUse (f : RFmt) : Use :=
  { matrix := true, resv := resvPred f.h || resvReg f.b || f.fn.val != 0 || reuseBad f false false || decide (7 < f.a.index), opds := [regOpd false f.d.index false true] }

/-- MSTAT (R333). -/
def execMstat (f : RFmt) (s : State) : Out :=
  runOp s f.h (mstatUse f) 1 fun fr s1 =>
    if !fr.any then .ok s1
    else
      match fr.g.ctx with
      | some c => .ok (fr.writes s1 0 [.s f.d.index (fr.s.mstat fr.g c f.a.index)])
      | none => fr.fail .wrongUnit

/-! ## MCFG -/

/-- The use of `MCFG` (R326, R327); `bad` says whether its argument is one that its operation reserves. -/
def mcfgUse (f : IFmt) (bad : Bool) : Use := { matrix := true, resv := resvPred f.h || resvReg f.d || resvReg f.a || bad }

/-- What every `MCFG` does first (R327): it waits for the context's instructions and raises a recorded fault. -/
def Fr.mcfg (fr : Fr) (s1 : State) (act : CtxState → Except Halt State) : Except Halt State :=
  if !fr.any then .ok s1
  else if !(fr.s.mxOpen fr.g).isEmpty then .error .full
  else
    match fr.s.mxFaulted fr.g, fr.g.ctx with
    | some (id, j), _ => .ok (fr.s.raiseMx fr.key id j fr.sp.pc)
    | none, some c => act c
    | none, none => fr.fail .wrongUnit

/-- The context changed. -/
def State.setCtx (s : State) (key : Nat) (c : CtxState) : State := s.modGroup key (fun g => { g with ctx := some c })

/-- A mask argument (R327): bad where a trit is -1 or trits 5..4 are not zero. -/
def maskBad (f : IFmt) : Bool := (f.imm.field 4 2).val != 0 || [0, 1, 2, 3].any (fun i => f.imm.trit i == -1)
/-- The ranks of a mask, in order. -/
def maskRanks (f : IFmt) : List Nat := [0, 1, 2, 3].filter (fun i => f.imm.trit i == 1)

/-- Whether a context of a cluster holds a rank (R308). -/
def State.rankTaken (s : State) (cluster r : Nat) : Bool :=
  s.groups.any (fun e => e.2.isSeq && clusterOf e.2.core == cluster && (match e.2.ctx with | some c => c.claims.contains r | none => false))

/-- Whether another context of the cluster holds a rank (R308). -/
def State.rankHeld (s : State) (g : Group) (r : Nat) : Bool :=
  s.groups.any (fun e => e.2.isSeq && e.2.key != g.key && clusterOf e.2.core == clusterOf g.core &&
    (match e.2.ctx with | some c => c.claims.contains r | none => false))

/-- Ranks claimed in order up to the first that fails (R327): the ranks held then, and the cause. -/
def State.claimAll (s : State) (g : Group) (binding : Nat) : List Nat → List Nat → List Nat × Option Cause
  | held, [] => (held, none)
  | held, r :: t =>
    if held.contains r then s.claimAll g binding held t
    else if s.rankHeld g r then (held, some .sequencerContextLimit)
    else if (s.crew? g.launch (g.rankCore r) binding).isNone then (held, some .matrixRankAbsent)
    else s.claimAll g binding (held ++ [r]) t

/-- MCFG.claim (R327); an operation index above 3 is no operation. -/
def execMcfgClaim (f : IFmt) (s : State) : Out :=
  runOp s f.h (mcfgUse f (decide (3 < (f.imm.field 6 2).index) || maskBad f)) 1 fun fr s1 =>
    fr.mcfg s1 fun c =>
      match fr.s.claimAll fr.g c.binding c.claims (maskRanks f) with
      | (held, none) => .ok (s1.setCtx fr.key { c with claims := held })
      | (held, some e) => .ok ((fr.s.setCtx fr.key { c with claims := held }).takeTrap fr.key fr.sp.idx (fr.trap e))

/-- MCFG.release (R327). -/
def execMcfgRelease (f : IFmt) (s : State) : Out :=
  runOp s f.h (mcfgUse f (maskBad f)) 1 fun fr s1 =>
    fr.mcfg s1 fun c =>
      let gone := (maskRanks f).filter (fun r => c.claims.contains r)
      let s2 := gone.foldl (fun st r => st.setArray (fr.g.rankCore r) MxArray.empty) s1
      .ok (s2.setCtx fr.key { c with claims := c.claims.filter (fun r => !gone.contains r) })

/-- A K-split argument (R327): bad where its index is above 2 or trits 5..2 are not zero. -/
def splitBad (f : IFmt) : Bool := decide (2 < (f.imm.field 0 2).index) || (f.imm.field 2 4).val != 0

/-- A binding (R327): bad where the executing launch has no crew of that index on a core. -/
def State.bindBad (s : State) (f : IFmt) : Bool :=
  match (s.frame? f.h).bind (fun fr => s.launch? fr.g.launch) with
  | some l => decide (l.crewsPer ≤ (f.imm.field 0 6).index)
  | none => true

/-- MCFG.ksplit (R327). -/
def execMcfgKsplit (f : IFmt) (s : State) : Out :=
  let i := (f.imm.field 0 2).index
  runOp s f.h (mcfgUse f (splitBad f)) 1 fun fr s1 =>
    fr.mcfg s1 fun c =>
      let s2 := c.claims.foldl (fun st r => st.setArray (fr.g.rankCore r) MxArray.empty) s1
      .ok (s2.setCtx fr.key { c with ksplit := 2 ^ i })

/-- MCFG.bind (R327). -/
def execMcfgBind (f : IFmt) (s : State) : Out :=
  let k := (f.imm.field 0 6).index
  runOp s f.h (mcfgUse f (s.bindBad f)) 1 fun fr s1 =>
    fr.mcfg s1 fun c => .ok (s1.setCtx fr.key { c with binding := k })

end Sys2Proof.Machine
end

