-- ==== Sys2Proof/Machine/MatrixRun.lean ====
section
/-! DEFINITION. What the arrays do with their queued instructions, unit by unit (R315 to R324, R328 to R331), and the end of a
context (R308). -/

namespace Sys2Proof.Machine

/-! ## Loaded blocks -/

/-- The tiles of an `MLDW`'s region as lists of words; none where a compressed stream is bad (R328). -/
def State.mxTiles (s : State) (r : MxRegion) (comp : Bool) (limit : Nat) : Option (List (List Word)) :=
  if comp then (s.inflateAt r limit).1
  else some ((List.range r.tiles).map (fun t => (List.range 81).map (fun w => s.mxWord r t w)))

/-- The elements of a block from its tiles, each with its events (R309, R319). -/
def blockEls (r : MxRegion) (tiles : List (List Word)) (factors : List Word) : List (List (List (Int × Tally))) :=
  let get := fun (t w : Nat) => (tiles.getD t []).getD w wzero
  (List.range r.rows).map (fun k => (List.range r.cols).map (fun n =>
    (r.parts get k n).map (fun c => match factors[k]? with | some f => smoothPart (mxFmt r.ty) f c | none => (c, Tally.zero))))

/-- The check value of expanded words (R324). -/
def checkWord (tiles : List (List Word)) : Word := tiles.flatten.foldl (fun a w => tritwise tadd1 a w) wzero

/-- What an `MLDW` loads now: the block and its events. -/
def State.expand (s : State) (d : MxDesc) : Option (MxBlock × Tally) :=
  match d.op with
  | .load r comp limit factors =>
    (s.mxTiles r comp limit).map (fun tiles =>
      let els := blockEls r tiles factors
      ({ els := els.map (fun row => row.map (fun e => e.map (·.1))), check := checkWord tiles, desc := d },
        (els.flatten.flatten).foldl (fun (a : Tally) x => a.add x.2) Tally.zero))
  | _ => none

/-- Elements that two expansions of a block disagree on are taken freely from either (R309): the block that was loaded, and what
its W region holds now. -/
def mixEls (seed : Nat) (a b : List (List (List Int))) : List (List (List Int)) :=
  if a = b then a
  else
    (List.range a.length).map (fun k =>
      let ra := a.getD k []
      let rb := b.getD k []
      (List.range ra.length).map (fun n =>
        let x := ra.getD n []
        let y := rb.getD n x
        if x = y then x else if Config.pick (seed + 128 * k + n) % 2 = 0 then x else y))

/-- The elements that a core's array multiplies by now. -/
def State.blockNow (s : State) (core : Nat) : List (List (List Int)) :=
  match (s.array core).block with
  | some b => match s.expand b.desc with | some (e, _) => mixEls s.free b.els e.els | none => b.els
  | none => []

/-! ## Elements -/

/-- The parts of a code as float values (R317). -/
def mxVals (ty : Int) (parts : List Int) : List FVal := parts.map (fval (mxFmt ty))
def mxPair (ty : Int) (parts : List Int) : FVal × FVal :=
  let v := mxVals ty parts
  (v.getD 0 .nan, v.getD 1 .nan)

/-- One element of an `MMA` or `MMAC`: the A row as one list of parts for each array, that array's column of B, and the incoming
element, if it is read (R315 to R318). -/
def mmaElem (ta : Int) (tres : Int) (prec : Nat) (fovf : Int) (rows cols : List (List (List Int))) (c : Option (List Int)) :
    List Int × Tally :=
  let pairs := rows.zip cols
  if ta = -4 then
    let ab := pairs.map (fun p => (p.1.map (mxPair ta), p.2.map (mxPair ta)))
    let cv := c.map (mxPair tres)
    let isNan := fun (v : FVal × FVal) => v.1 == .nan || v.2 == .nan
    if ab.any (fun p => p.1.any isNan || p.2.any isNan) || (match cv with | some v => isNan v | none => false) then
      ([nanCode, nanCode], Tally.nans 1)
    else
      let es := ab.map (fun p => (p.1.zip p.2).map (fun q => complexEntries q.1 q.2))
      let re := floatAcc tf54 prec (fovf == -1) (es.map (fun l => l.flatMap (·.1))) (cv.map (·.1))
      let im := floatAcc tf54 prec (fovf == -1) (es.map (fun l => l.flatMap (·.2))) (cv.map (·.2))
      ([re.1, im.1], re.2.add im.2)
  else if ta < 0 then
    let lists := pairs.map (fun p => (p.1.zip p.2).map (fun q => fmulV (fval (mxFmt ta) (q.1.getD 0 0)) (fval (mxFmt ta) (q.2.getD 0 0))))
    let r := floatAcc (mxFmt tres) prec (fovf == -1) lists (c.map (fun p => fval (mxFmt tres) (p.getD 0 0)))
    ([r.1], r.2)
  else
    let sums := pairs.map (fun p => (p.1.zip p.2).foldl (fun a q => a + q.1.getD 0 0 * q.2.getD 0 0) 0)
    let r := intAcc sums (match c with | some p => p.getD 0 0 | none => 0)
    ([r.1], r.2)

/-- The columns of the loaded blocks: for each array, column `n` (R318). -/
def blockCols (blocks : List (List (List (List Int)))) (n : Nat) : List (List (List Int)) := blocks.map (fun b => b.map (fun row => row.getD n []))

/-- One element of an `MMA` written. -/
def State.mmaWrite (s : State) (a c : MxRegion) (beta : Bool) (fovf : Int) (prec : Nat) (row : List (List (List Int)))
    (blocks : List (List (List (List Int)))) (i n : Nat) : State × Tally :=
  let old := if beta then none else some (c.parts (s.mxWord c) i n)
  let r := mmaElem a.ty c.ty prec fovf row (blockCols blocks n) old
  (s.setParts c i n r.1, r.2)

/-- A row of an `MMA` (R316). -/
def State.mmaRow (s : State) (a c : MxRegion) (k : Nat) (beta : Bool) (fovf : Int) (prec : Nat) (blocks : List (List (List (List Int)))) (i : Nat) :
    State × Tally :=
  let rows := (List.range blocks.length).map (fun q => (List.range k).map (fun j => a.parts (s.mxWord a) i (q * k + j)))
  (List.range c.cols).foldl (fun (x : State × Tally) n =>
    let (s1, t) := x.1.mmaWrite a c beta fovf prec rows blocks i n
    (s1, x.2.add t)) (s, Tally.zero)

/-- One element of `MACC` (R330). -/
def accElem (t : Int) (fovf : Int) (d s : List Int) : List Int × Tally :=
  if mxFloat t then
    let rs := ((mxVals t d).zip (mxVals t s)).map (fun p => floatSum (mxFmt t) (fovf == -1) p.1 p.2)
    (rs.map (·.1), rs.foldl (fun (a : Tally) r => a.add r.2) Tally.zero)
  else
    let r := satTally (d.getD 0 0 + s.getD 0 0)
    ([r.1], r.2)

/-- The elements of a region. -/
def MxRegion.cells (r : MxRegion) : List (Nat × Nat) := (List.range r.rows).flatMap (fun i => (List.range r.cols).map (fun n => (i, n)))

/-! ## Units -/

/-- The rows of a unit (R323): nine of an `MMA` that runs as micro-tiles, or all. -/
def unitRows (units m u : Nat) : List Nat := if units ≤ 1 then List.range m else ((List.range 9).map (fun i => 9 * u + i)).filter (· < m)

/-- The descriptor of an `MLDW` from its job and the job's number (R324). -/
def MxJob.desc (j : MxJob) (id : Nat) (r : MxRegion) : MxDesc :=
  { job := id, seq := j.seq, crews := j.crews, ty := r.ty, k := r.rows, n := r.cols, words := j.words, waddr := ((j.ops.getD 1 none).getD azero)
    saddr := j.ops.getD 0 none, op := j.op, void := false, pc := j.pc, region := j.region, ecount := j.ecount }

/-- What an instruction reads: its source regions, a destination that it adds to, and the W regions of the blocks that it multiplies by
(R309, R357). -/
def State.mxReads (s : State) (j : MxJob) : List Foot :=
  let blocks := j.arrays.filterMap (fun c => (s.array c).block)
  j.foot ++ (match j.op with
    | .mma _ c _ beta _ _ _ => (if beta then [] else [c.foot false]) ++ blocks.filterMap (fun b => match b.desc.op with | .load r _ _ _ => some (r.foot false) | _ => none)
    | .acc d _ _ _ => [d.foot false]
    | _ => [])

/-- The passes of an array that a unit of an `MMA` or `MMAC` makes, on all its arrays (R309, R314, R399). -/
def State.mxWork (s : State) (j : MxJob) (u : Nat) : Nat :=
  match j.op with
  | .mma a c _ _ _ _ _ =>
    j.arrays.foldl (fun n core => n + (match (s.array core).block with | some b => mxPasses a.ty b.desc.ty * (unitRows j.units c.rows u).length | none => 0)) 0
  | _ => 0

/-- What a unit of an instruction does: the state, its events, and the deferred fault that it meets. -/
def State.mxRun (s : State) (j : MxJob) (id u : Nat) : State × Tally × Option Cause :=
  let core := j.arrays.headD 0
  match j.op with
  | .void => (s, Tally.zero, none)
  | .load r _ _ _ =>
    let arr := s.array core
    let d := j.desc id r
    match s.expand d with
    | some (b, t) => (s.setArray core { arr with block := some b, void := false }, t, none)
    | none =>
      let desc := arr.desc.map (fun d => if d.job = id then { d with void := true } else d)
      (s.setArray core { desc := desc, block := none, void := true }, Tally.zero, some .decompressError)
  | .mma a c k beta fovf sattrap prec =>
    let blocks := j.arrays.map s.blockNow
    let (s1, t) := (unitRows j.units c.rows u).foldl (fun (x : State × Tally) i =>
      let (s1, t) := x.1.mmaRow a c k beta fovf prec blocks i
      (s1, x.2.add t)) (s, Tally.zero)
    ({ s1 with free := s1.free + 16384 }, t, if sattrap && decide (0 < t.sat + t.ovf) then some .accSaturated else none)
  | .zero d => (d.cells.foldl (fun st e => st.setParts d e.1 e.2 [0, 0]) s, Tally.zero, none)
  | .acc d src fovf sattrap =>
    let (s1, t) := d.cells.foldl (fun (x : State × Tally) e =>
      let r := accElem d.ty fovf (d.parts (x.1.mxWord d) e.1 e.2) (src.parts (x.1.mxWord src) e.1 e.2)
      (x.1.setParts d e.1 e.2 r.1, x.2.add r.2)) (s, Tally.zero)
    (s1, t, if sattrap && decide (0 < t.sat + t.ovf) then some .accSaturated else none)
  | .out c o neg shift ovf =>
    let (s1, t) := c.cells.foldl (fun (x : State × Tally) e =>
      let rs := (c.parts (x.1.mxWord c) e.1 e.2).map (moutPart c.ty o.ty shift neg ovf)
      (x.1.setParts o e.1 e.2 (rs.map (·.1)), rs.foldl (fun (a : Tally) r => a.add r.2) x.2)) (s, Tally.zero)
    (s1, t, if decide (ovf = 1) && decide (0 < t.sat + t.ovf + t.flush + t.nan) then some .moutRange else none)

/-- A counter raised; it stops at the T27 maximum (R333). -/
def bumpWord (w : Word) (n : Nat) : Word := Tern.ofInt 27 (min (w.val + (n : Int)) (half 27))

/-- Events added to the counters of a launch's context in a cluster, and passes of its arrays (R305, R399). -/
def State.addTally (s : State) (launch cluster : Nat) (t : Tally) (passes : Nat) : State :=
  match s.groups.find? (fun e => e.2.isSeq && e.2.launch == launch && clusterOf e.2.core == cluster) with
  | none => s
  | some (key, _) =>
    s.modGroup key (fun g => { g with ctx := g.ctx.map (fun c =>
      { c with passes := c.passes + passes, sat := bumpWord c.sat t.sat, ovf := bumpWord c.ovf t.ovf, flush := bumpWord c.flush t.flush, nan := bumpWord c.nan t.nan }) })

/-- Whether an instruction is first on all its arrays, and no earlier instruction of its context holds its regions (R320). -/
def State.mxReady (s : State) (id : Nat) (j : MxJob) : Bool :=
  !s.mxJobs.any (fun e => decide (e.1 < id) && !e.2.complete &&
    (e.2.arrays.any (fun a => j.arrays.contains a)
      || (e.2.launch == j.launch && e.2.cluster == j.cluster && footClash e.2.foot j.foot)))

/-- The tags that an instruction without effect set at issue, taken back (R328). -/
def State.untag (s : State) (j : MxJob) : State :=
  { s with tags := j.tags.foldl (fun (m : FMap Int) (e : Nat × Int × Int) =>
      if mapGet 0 m e.1 = e.2.2 then mapSet 0 m e.1 e.2.1 else m) s.tags }

/-- Whether an instruction's array holds no block because its `MLDW` failed (R328). -/
def State.mxVoid (s : State) (j : MxJob) : Bool :=
  match j.op with
  | .load _ _ _ _ => false
  | _ => j.arrays.any (fun c => (s.array c).void)

/-- MATRIX_UNIT_COMPLETE (R315 to R319, R323, R328): the next unit of an instruction reads its operands and writes its elements.
A halted launch's arrays stand at a unit boundary, and so do those of a context that is stopped for a pre-emption or an abort (R323, R324,
R390). -/
def execMatrixUnitComplete (instr : Nat) (s : State) : Out :=
  .next (match mapFind instr s.mxJobs with
    | none => s
    | some j =>
      let stopped := s.groups.any (fun e => e.2.isSeq && e.2.launch == j.launch && clusterOf e.2.core == j.cluster && e.2.parked)
      let halted := (match s.launch? j.launch with | some l => l.halted.isSome | none => false) || stopped
      let u := j.done.length
      if j.complete || halted || decide (j.units ≤ u) || !s.mxReady instr j then s
      else if s.mxVoid j then
        { s.untag j with mxJobs := mapInsert instr { j with op := .void, done := j.done ++ [u] } s.mxJobs }
      else if s.footBad (s.mxReads j) then
        let s1 : State := { s with mxJobs := mapInsert instr { j with op := .void, done := List.range j.units } s.mxJobs }
        match s1.groups.find? (fun e => e.2.isSeq && e.2.launch == j.launch && clusterOf e.2.core == j.cluster) with
        | some e => s1.takeTrap e.1 e.2.stopSplit { cause := .bufferUncorrectable, epc := j.pc }
        | none => { s1 with stops := s1.stops ++ [⟨j.launch, .bufferUncorrectable, none⟩] }
      else
        let (s1, t, f) := s.mxRun j instr u
        let j1 := { j with done := j.done ++ [u], fault := match j.fault with | some c => some c | none => f }
        { s1 with mxJobs := mapInsert instr j1 s1.mxJobs }.addTally j.launch j.cluster t (s.mxWork j u))

/-- MATRIX_INSTR_COMPLETE (R320, R322, R331): an instruction whose units are done leaves its queues; it arrives at its barrier, and
keeps the fault that it recorded. -/
def execMatrixInstrComplete (instr : Nat) (s : State) : Out :=
  .next (match mapFind instr s.mxJobs with
    | none => s
    | some j =>
      if j.complete || decide (j.done.length < j.units) then s
      else
        let s1 := if j.op = .void ∨ j.barrier = [] then s else s.arriveAt j.barrier j.arrive
        match j.fault with
        | some _ => { s1 with mxJobs := mapInsert instr { j with complete := true } s1.mxJobs }
        | none => { s1 with mxJobs := mapErase instr s1.mxJobs })

/-- The claims of a context released and their blocks unloaded (R308, R309). -/
def State.releaseClaims (s : State) (g : Group) : State :=
  match g.ctx with
  | none => s
  | some c => c.claims.foldl (fun st r => st.setArray (g.rankCore r) MxArray.empty) s

/-- CONTEXT_END (R308, R109, R114): the waiting `EXIT` of a context takes effect once its accesses and matrix instructions are
complete, or becomes the trigger of a recorded fault. -/
def execContextEnd (core slot : Nat) (s : State) : Out :=
  .next (match s.group? (gkey core slot) with
    | none => s
    | some g =>
      match g.splits.find? (fun x => x.wait == .ending) with
      | none => s
      | some sp =>
        if g.status != .running || g.parked || !g.isSeq || !s.quiet g || !(s.mxOpen g).isEmpty then s
        else
          match s.mxFaulted g with
          | some (id, j) => (s.modSplit g.key sp.idx (fun x => { x with wait := .none })).raiseMx g.key id j sp.pc
          | none => if g.faults.isEmpty then ((s.chargeContext g).releaseClaims g).releaseGroup g sp.pc none else s.finishGroup g sp)

end Sys2Proof.Machine
end

