-- ==== Sys2Proof/Machine/Preempt.lean ====
section
/-! DEFINITION. Shares taken off their cores and put back: drain, restart, save and restore (R345 to R349), aborts (R356), gang
members (R350), and Daymark's failover (R351). -/

namespace Sys2Proof.Machine

/-! ## Shares -/

/-- Whether a group or context belongs to the share of a launch on a cluster (R345). -/
def Group.inShare (g : Group) (launch cluster : Nat) : Bool := g.launch == launch && clusterOf g.core == cluster && !g.isWalker

/-- The share of a launch on a cluster. -/
def State.share? (s : State) (launch cluster : Nat) : Option (Launch × Share) :=
  match s.launch? launch with
  | none => none
  | some l => (l.shares.find? (fun sh => sh.cluster == cluster)).map (fun sh => (l, sh))

/-- A share changed. -/
def State.modShare (s : State) (launch cluster : Nat) (f : Share → Share) : State :=
  s.modLaunch launch (fun l => { l with shares := updFirst (fun sh => sh.cluster == cluster) f l.shares })

/-- Groups stopped at their instruction boundaries, or released from there (R348, R349). -/
def State.park (s : State) (p : Group → Bool) (on : Bool) : State :=
  { s with groups := s.groups.map (fun (e : Nat × Group) => (e.1, if p e.2 then { e.2.drain with parked := on } else e.2)) }

/-- The crews of a share on their cores. -/
def State.shareCrews (s : State) (launch cluster : Nat) : List Crew :=
  s.crews.filter (fun c => c.launch == launch && clusterOf c.core == cluster && !c.reserved)

/-- The group keys of a share. -/
def State.shareKeys (s : State) (launch cluster : Nat) : List Nat := (s.groups.filter (fun e => e.2.inShare launch cluster)).map (·.1)

/-- What is chosen for a crew (R346). -/
inductive Choice where
  | drain | restart | save
deriving DecidableEq, Repr

/-- Instructions that a crew has issued, its responders' among them (R346, R290). -/
def State.crewIssued (s : State) (c : Crew) : Nat :=
  s.groups.foldl (fun a e =>
    if e.2.launch == c.launch && e.2.core == c.core && e.2.crew == c.idx && !e.2.isSeq && !e.2.isWalker then a + e.2.perf.getD 0 0 else a) c.instr

/-- Cycles for which a crew has been resident, with those before its share was last saved (R346). -/
def State.crewResident (s : State) (c : Crew) : Nat := c.residentCycles + (s.now - c.placedAt)

/-- The choice of a crew (R346). -/
def State.crewChoice (s : State) (l : Launch) (c : Crew) : Choice :=
  let e := 1000 * l.expectKi
  let i := s.crewIssued c
  let near : Bool := decide ((e - i) * s.crewResident c ≤ l.drain * i * usCycles)
  if decide (0 < e) && (decide (e ≤ i) || (decide (0 < i) && near)) then .drain
  else if l.idempotent && decide (0 < e) && decide (4 * i < e) then .restart
  else .save

/-- The choice of a share (R346). -/
def State.shareChoice (s : State) (l : Launch) (cluster : Nat) : Choice :=
  let cs := (s.shareCrews l.id cluster).map (s.crewChoice l)
  if cs.all (· == .drain) then .drain else if cs.all (· == .restart) then .restart else .save

/-- A share told to save its crews; `swap` for a swap-out (R349). -/
def State.startSave (s : State) (launch cluster : Nat) (swap : Bool) : State :=
  (s.park (fun g => g.inShare launch cluster) true).modShare launch cluster (fun sh => { sh with state := .saving swap })

/-- A share pre-empted as its crews choose, its journal record first (R346 to R349, R351). -/
def State.preempt (s0 : State) (l : Launch) (cluster : Nat) : State :=
  let s := s0.journal (.preempt l.id cluster)
  let clear := fun (sh : Share) => { sh with slice := 0, asked := false }
  match s.shareChoice l cluster with
  | .drain => s.modShare l.id cluster (fun sh => { clear sh with state := .draining s.now })
  | .restart => (s.park (fun g => g.inShare l.id cluster) true).modShare l.id cluster (fun sh => { clear sh with state := .restarting })
  | .save => (s.modShare l.id cluster clear).startSave l.id cluster false

/-- Whether a saved crew of a launch waits in the distributor for a core (R349). -/
def Launch.waitsSaved (l : Launch) (core : Nat) : Bool :=
  !l.complete && l.abort.isNone && l.shares.any (fun sh => sh.state == .saved && sh.savedCrews.any (fun c => c.core == core))

/-- Whether a crew of another launch waits on a cluster's core that a launch uses: one not yet placed, or one saved that is to return
(R345, R349). -/
def State.othersWait (s : State) (l : Launch) (cluster : Nat) : Bool :=
  (l.cores.filter (fun c => clusterOf c == cluster)).any (fun core =>
    s.launches.any (fun m => m.id != l.id && (m.waitsSaved core || (List.range m.crewsPer).any (fun k => m.waitsFor core k))))

/-- Whether a launch may be pre-empted now (R345, R351). -/
def State.preemptible (s : State) (l : Launch) : Bool :=
  l.started && l.halted.isNone && l.abort.isNone && !l.complete && s.scheduling

/-- SLICE_EXPIRY (R345, R365): the time slice of a share that is resident is used up. -/
def execSliceExpiry (launch cluster : Nat) (s : State) : Out :=
  .next (match s.share? launch cluster with
    | none => s
    | some (l, sh) =>
      if l.sliceUs == 0 || decide (sh.slice < l.sliceUs * usCycles) || sh.state != .resident || !s.preemptible l || s.daymarkHeld then s
      else if s.othersWait l cluster then
        (s.preempt l cluster).emitEventAny Cause.timeSliceExhausted.code launch 0 daymarkSrc
      else s.modShare launch cluster (fun sh => { sh with slice := 0 }))

/-- PREEMPT_REQUEST (R345): a halted share is pre-empted once it is released. -/
def execPreemptRequest (launch cluster : Nat) (s : State) : Out :=
  .next (match s.share? launch cluster with
    | none => s
    | some (l, sh) =>
      if sh.state != .resident || l.complete || l.abort.isSome || !s.scheduling || !l.started then s
      else if l.halted.isSome then s.modShare launch cluster (fun sh => { sh with asked := true })
      else s.preempt l cluster)

/-- DRAIN_TIMEOUT (R347): a share ends with its crews and its context, not with its groups. -/
def execDrainTimeout (launch cluster : Nat) (s : State) : Out :=
  .next (match s.share? launch cluster with
    | none => s
    | some (l, sh) =>
      match sh.state with
      | .draining since =>
        if s.passed (2 * l.drain * usCycles) since && s.preemptible l
            && !((s.shareKeys launch cluster).isEmpty && (s.shareCrews launch cluster).isEmpty) then
          (s.journal (.preempt launch cluster)).startSave launch cluster false
        else s
      | _ => s)

/-! ## Taking groups away -/

/-- Whether nothing is in flight for the groups of a share, and no redemption into the buffers of its crews (R185, R349, R256, R258). -/
def State.shareQuiet (s : State) (launch cluster : Nat) : Bool :=
  s.groups.all (fun e => !e.2.inShare launch cluster || (e.2.infl.isEmpty && e.2.longs.isEmpty)) &&
  !s.moor.any (fun m => match m.2.red with
    | some r => (match s.group? r.key with | some g => g.inShare launch cluster | none => false)
    | none => false) &&
  (s.shareCrews launch cluster).all (fun c => !s.deliveringInto c)

/-- Whether an engine job into the buffers of a share's crews is incomplete (R258, R274, R304, R339). -/
def State.shareJobs (s : State) (launch cluster : Nat) : Bool :=
  s.tcJobs.any (fun e => e.2.launch == launch && e.2.crews.any (fun c => clusterOf c.1 == cluster))
  || s.copyJobs.any (fun j => j.cluster == cluster && (match j.crew with | some (l, _) => l == launch | none => false)
      && (decide (addrPath j.src < 0) || decide (addrPath j.dst < 0)))

/-- The matrix instructions of a share's context. -/
def State.shareMx (s : State) (launch cluster : Nat) : FMap MxJob := s.mxJobs.filter (fun e => e.2.launch == launch && e.2.cluster == cluster)

/-- Responders of a crew that will give no reply finish (R292, R348). -/
def State.dropResponders (s : State) (launch core crew : Nat) : State :=
  s.census.foldl (fun (st : State) e =>
    (List.range (e.2.resps.filter (fun r => r.launch == launch && r.core == core && r.crew == crew && !r.finished)).length).foldl (fun (st : State) _ =>
      st.finishResponder { census := e.1, gen := e.2.gen, handle := wzero, replied := false, hits := [] } core launch crew none none) st) s

/-- The groups of a share removed from their slots, their activity and contexts charged and arrays unloaded (R342, R399). -/
def State.removeGroups (s : State) (launch cluster : Nat) : State :=
  let gone := s.groups.filter (fun e => e.2.inShare launch cluster)
  gone.foldl (fun st e =>
    let st1 := (st.forget e.1).settleGroup e.2
    let st2 : State := { st1 with groups := mapErase e.1 st1.groups }
    if e.2.isSeq then (st2.chargeContext e.2).releaseClaims e.2 else st2) s

/-- A share's work thrown away: its groups, context and allocations, and its directory entries (R348 step 4). -/
def State.discardShare (s : State) (l : Launch) (cluster : Nat) (close : Bool) : State × List Crew :=
  let cs := s.shareCrews l.id cluster
  let s1 := cs.foldl (fun st c => st.dropResponders l.id c.core c.idx) s
  let s2 := s1.removeGroups l.id cluster
  let s3 : State := { s2 with mxJobs := s2.mxJobs.filter (fun e => !(e.2.launch == l.id && e.2.cluster == cluster)) }
  (s3.shareCrews l.id cluster).foldl (fun (x : State × List Crew) c =>
    let (st, c1) := (x.1.freeDir l.id c.core c.idx).removeCrew l c close
    (st, x.2 ++ [c1])) (s3, [])

/-- A restart carried out once its share's side log is replayed and its engine jobs are complete; not while its launch is halted, so that
its new context is not put among halted groups (R348, R389). -/
def State.restartShare (s : State) (l : Launch) (cluster : Nat) : State :=
  let keys := s.shareKeys l.id cluster
  let ctx := s.groups.any (fun e => e.2.inShare l.id cluster && e.2.isSeq)
  if l.halted.isSome || !s.shareQuiet l.id cluster || s.sideLog.any (fun e => keys.contains e.key) || s.shareJobs l.id cluster then s
  else
    let (s1, cs) := s.discardShare l cluster false
    let s2 := s1.modLaunch l.id (fun m =>
      { m with
        placed := m.placed.filter (fun p => !(clusterOf p.1 == cluster && !m.crewsEnded.contains p))
        shares := updFirst (fun sh => sh.cluster == cluster) (fun sh => { sh with state := .resident, slice := 0, kept := sh.kept ++ cs }) m.shares })
    if ctx then s2.putContext (match s2.launch? l.id with | some m => m | none => l) cluster else s2

/-! ## Save and restore -/

/-- Whether a group waits for a page that only the host can serve (R345, R374). -/
def State.hostWait (s : State) (launch cluster : Nat) : Bool :=
  s.asks.any (fun a => a.miss.access != 0 && (match s.group? a.miss.key with | some g => g.inShare launch cluster | none => false) &&
    (match s.walk a.miss.domain a.miss.va with | .hostBacked _ _ => true | _ => false))

/-- The buffer words and tags of a crew's allocations. -/
def Crew.holds (c : Crew) (unit k : Nat) : Bool :=
  [0, 1, 2].any (fun p =>
    let first := (3 * c.core + p) * unit + c.base.getD p 0 * (unit / 729)
    decide (first ≤ k) && decide (k < first + c.tiles.getD p 0 * (unit / 729)))

/-- A message to the gang of a launch (R216). -/
def State.tellGang (s : State) (l : Launch) (m : Nat → Nat → PeerMsg) : State :=
  match l.gang with | some g => { s with outbox := s.outbox ++ [m g.gang g.member] } | none => s

/-- A share saved and taken off its cores (R349, R342). -/
def State.saveShare (s : State) (l : Launch) (cluster : Nat) (swap : Bool) : State :=
  let gs := (s.groups.filter (fun e => e.2.inShare l.id cluster))
  let keys := gs.map (·.1)
  let cs := s.shareCrews l.id cluster
  let fold := fun (g : Group) => { g with haltedAt := s.now, perfAt := g.perf, ctx := g.ctx.map (fun c => { c with cycles := 0, passes := 0 }) }
  let ranks := gs.flatMap (fun e => match e.2.ctx with | some c => c.claims.map e.2.rankCore | none => [])
  let bufs := s.bufs.filter (fun e => cs.any (fun c => c.holds 59049 e.1))
  let tags := s.tags.filter (fun e => cs.any (fun c => c.holds 729 e.1))
  let log := s.sideLog.filter (fun e => keys.contains e.key)
  let arrays := s.arrays.filter (fun e => ranks.contains e.1)
  let jobs := s.shareMx l.id cluster
  let s1 : State := { s with
    sideLog := s.sideLog.filter (fun e => !keys.contains e.key)
    mxJobs := s.mxJobs.filter (fun e => !(e.2.launch == l.id && e.2.cluster == cluster)) }
  let s2 := s1.removeGroups l.id cluster
  let (s3, saved) := (s2.shareCrews l.id cluster).foldl (fun (x : State × List Crew) c =>
    let (st, c1) := x.1.removeCrew l c false
    (st, x.2 ++ [{ c1 with residentCycles := s.crewResident c }])) (s2, [])
  let s4 := (s3.modLaunch l.id (fun m => { m with ctxs := m.ctxs.filter (fun k => clusterOf (k / 256) != cluster) })).modShare l.id cluster (fun sh =>
    { sh with
      state := if swap then .swapped else .saved
      savedGroups := gs.map (fun e => fold e.2), savedCrews := saved, savedBufs := bufs, savedTags := tags, savedLog := log
      savedJobs := jobs, savedArrays := arrays })
  s4.tellGang l PeerMsg.absent

/-- SHARE_SAVE (R345, R349): a share with a group that waits for a page of the host is stopped for a swap-out; a share that is being
saved is saved once it has drained, where the memory-management processor has an area for it (`area`). -/
def execShareSave (launch cluster : Nat) (area : Bool) (s : State) : Out :=
  .next (match s.share? launch cluster with
    | none => s
    | some (l, sh) =>
      if !s.preemptible l then s
      else
        let swapOut := (s.journal (.preempt launch cluster)).startSave launch cluster true
        match sh.state with
        | .saving swap =>
          if !s.shareQuiet launch cluster || s.shareJobs launch cluster then s
          else if area then s.saveShare l cluster swap
          else if s.daymarkHeld then s
          else
            let s1 := s.emitEventAny Cause.preemptSaveFailed.code launch 0 daymarkSrc
            if swap then s1
            else (s1.park (fun g => g.inShare launch cluster) false).modShare launch cluster (fun sh => { sh with state := .resident, slice := 0 })
        | .resident => if s.hostWait launch cluster then swapOut else s
        | .draining _ => if s.hostWait launch cluster then swapOut else s
        | _ => s)

/-- SWAP_IN (R349): the page of a swapped-out share is served; a share that could not be saved goes on. -/
def execSwapIn (launch cluster : Nat) (s : State) : Out :=
  .next (match s.share? launch cluster with
    | none => s
    | some (_, sh) =>
      match sh.state with
      | .swapped => s.modShare launch cluster (fun sh => { sh with state := .saved })
      | .saving true =>
        if s.hostWait launch cluster then s
        else (s.park (fun g => g.inShare launch cluster) false).modShare launch cluster (fun sh => { sh with state := .resident, slice := 0 })
      | _ => s)

/-- Whether a saved crew finds its tiles free again, and its groups slots and registers. Allocations return to the tiles that they
had. -/
def State.crewFits (s : State) (sh : Share) (c : Crew) : Bool :=
  let gs := sh.savedGroups.filter (fun g => g.core == c.core && !g.isSeq)
  (match gs with
  | [] => true
  | g :: _ => s.groupsFit c.core gs.length g.nv) &&
  [0, 1, 2].all (fun p => s.baseFree c.core p (c.tiles.getD p 0) (c.base.getD p 0) || decide (c.tiles.getD p 0 = 0))

/-- Whether a share finds a context for its launch to occupy, also for one that has ended (R305), and a saved context its arrays unclaimed
(R308). -/
def State.contextFits (s : State) (l : Launch) (sh : Share) : Bool :=
  (l.seqEntry == azero || (s.freeContext sh.cluster).isSome) &&
  sh.savedGroups.all (fun g => match g.ctx with | some c => c.claims.all (fun r => !s.rankTaken sh.cluster r) | none => true)

/-- The context of a cluster that a launch occupies again where its own had ended before it was saved (R305). -/
def State.reholdContext (s : State) (l : Launch) (sh : Share) : State :=
  if l.seqEntry == azero || sh.savedGroups.any (·.isSeq) then s
  else match s.freeContext sh.cluster with
    | some slot => s.holdContext l.id (gkey (seqCore sh.cluster) slot)
    | none => s

/-- Whether a crew of another launch that could be placed waits on the cores of a share. -/
def State.waiterFits (s : State) (l : Launch) (cluster : Nat) : Bool :=
  (l.cores.filter (fun c => clusterOf c == cluster)).any (fun core =>
    s.launches.any (fun m => m.id != l.id && m.halted.isNone && (List.range m.crewsPer).any (fun k => m.waitsFor core k) &&
      s.groupsFit core m.groupsPer m.nv && (s.crewBases m core).isSome))

/-- A saved group put into a free slot, where it counts as started anew (R349, R99), its core keeping no L1 copy older than a barrier that
has completed meanwhile (R231, R236); the old key and the new one. -/
def State.restoreGroup (s : State) (g : Group) : State × (Nat × Nat) :=
  let slot := if g.isSeq then s.freeContext (clusterOf g.core) else s.pickSlot g.core
  match slot with
  | none => (s, (g.key, g.key))
  | some n =>
    let g1 := { g.shiftWaits s.now with slot := n, ctx := g.ctx.map (fun c => { c with since := s.now }) }
    let st := (s.putGroup g1).l1Clear g.core false
    (if g.isSeq then st.holdContext g.launch g1.key else st, (g.key, g1.key))

/-- An array's block loaded again from its W region (R324): a check value that differs is recorded against its `MLDW`, in that
instruction's place; what is queued behind it on the array has no effect, and the array holds no loaded block until the next `MLDW`, as after a
stream that could not be decompressed (R328). -/
def State.reloadArray (s : State) (launch cluster core : Nat) (a : MxArray) : State :=
  match a.block with
  | none => s.setArray core a
  | some b =>
    let bad := fun (st : State) =>
      let rec_ : MxJob :=
        { launch := launch, cluster := cluster, nth := 0, seq := b.desc.seq, op := .void, arrays := [core], words := b.desc.words, pc := b.desc.pc
          region := b.desc.region, ecount := b.desc.ecount, ops := [], crews := [], foot := [], barrier := [], arrive := 0, units := 0, done := []
          tags := [], fault := some .microtileResumeMismatch, complete := true }
      let st1 := (st.shareMx launch cluster).foldl (fun (x : State) e =>
        if e.2.complete || !e.2.arrays.contains core then x
        else { x.untag e.2 with mxJobs := mapInsert e.1 { e.2 with op := .void } x.mxJobs }) st
      { st1.setArray core { desc := a.desc.map (fun d => { d with void := true }), block := none, void := true } with
        mxJobs := mapInsert b.desc.job rec_ st1.mxJobs }
    match s.expand b.desc with
    | some (e, _) => if e.check = b.check then s.setArray core { a with block := some e } else bad s
    | none => bad s

/-- A saved share put back on its cores (R349, R324). -/
def State.restoreShare (s : State) (l : Launch) (sh : Share) : State :=
  let s1 : State := { s with
    crews := s.crews ++ sh.savedCrews.map (fun c => { c with placedAt := s.now })
    bufs := sh.savedBufs.foldl (fun m e => mapInsert e.1 e.2 m) (s.bufs.filter (fun e => !sh.savedCrews.any (fun c => c.holds 59049 e.1)))
    tags := sh.savedTags.foldl (fun m e => mapInsert e.1 e.2 m) (s.tags.filter (fun e => !sh.savedCrews.any (fun c => c.holds 729 e.1)))
    mxJobs := sh.savedJobs.foldl (fun m e => mapInsert e.1 e.2 m) s.mxJobs }
  let (s2, keys) := sh.savedGroups.foldl (fun (x : State × List (Nat × Nat)) g =>
    let (st, k) := x.1.restoreGroup g
    (st, x.2 ++ [k])) (s1, [])
  let rename := fun (k : Nat) => match keys.find? (fun e => e.1 == k) with | some e => e.2 | none => k
  let s3 : State := { s2 with sideLog := s2.sideLog ++ sh.savedLog.map (fun e => { e with key := rename e.key }) }
  let s4 := sh.savedArrays.foldl (fun st e => st.reloadArray l.id sh.cluster e.1 e.2) (s3.reholdContext l sh)
  let s5 := s4.modShare l.id sh.cluster (fun sh =>
    { sh with
      state := .resident, slice := 0, savedGroups := [], savedCrews := [], savedBufs := [], savedTags := [], savedLog := [], savedJobs := []
      savedArrays := [], replaying := true })
  s5.tellGang l PeerMsg.present_

/-- SHARE_RESTORE (R349): a saved share returns once its cores have room for it and no crew of another launch that fits waits
there. -/
def execShareRestore (launch cluster : Nat) (s : State) : Out :=
  .next (match s.share? launch cluster with
    | none => s
    | some (l, sh) =>
      if sh.state != .saved || !s.preemptible l || s.waiterFits l cluster || !s.contextFits l sh || !sh.savedCrews.all (s.crewFits sh) then s
      else s.restoreShare l sh)

/-- A restored share's groups go on once its side-log entries are replayed (R349). -/
def State.endReplay (s : State) (l : Launch) (sh : Share) : State :=
  let keys := s.shareKeys l.id sh.cluster
  if s.sideLog.any (fun e => keys.contains e.key) then s
  else
    (s.park (fun g => g.inShare l.id sh.cluster) false).modShare l.id sh.cluster (fun sh => { sh with replaying := false })

/-! ## Aborts -/

/-- An abort begins: every group of the launch stops (R356). -/
def State.startAbort (s : State) (launch : Nat) (a : Abort) : State :=
  match s.launch? launch with
  | none => s
  | some l =>
    if l.complete || l.abort.isSome then s
    else
      let orphans := l.shares.flatMap (fun sh => sh.savedLog)
      let s1 := (s.park (fun g => g.launch == launch && !g.isWalker) true).modLaunch launch (fun l => { l with abort := some a })
      { s1 with sideLog := s1.sideLog ++ orphans.map (fun e => { e with key := 2 ^ 40 + launch }) }

/-- Whether an aborted launch is stopped and empty (R348 steps 1 to 3, R356 step 1). -/
def State.abortReady (s : State) (l : Launch) : Bool :=
  let keys := (2 ^ 40 + l.id) :: s.launchKeys l.id
  l.shares.all (fun sh => s.shareQuiet l.id sh.cluster && !s.shareJobs l.id sh.cluster) &&
  !s.sideLog.any (fun e => keys.contains e.key)

/-- Saved crews of a discarded launch: their entries and responders go, and their accounts are closed (R349, R356, R401). -/
def State.dropSaved (s : State) (l : Launch) : State :=
  l.shares.foldl (fun (st : State) sh =>
    (sh.savedCrews ++ sh.kept).foldl (fun st c => ((st.dropResponders l.id c.core c.idx).freeDir l.id c.core c.idx).closeCrew c) st) s

/-- ARMED reports of a gang forgotten: GO or DISARM has gone out (R350). -/
def State.clearReports (s : State) (gang : Nat) : State := { s with day := { s.day with reports := s.day.reports.filter (fun r => r.1 != gang) } }

/-- Reserved crews and parked contexts of a gang member given up, the contexts charged as they leave (R399, R401), and at its coordinator the
reports of a gang that has not gone (R350). -/
def State.unreserve (s : State) (l : Launch) : State :=
  let s1 : State := { s with crews := s.crews.filter (fun c => !(c.launch == l.id && c.reserved)) }
  let parked := s1.groups.filter (fun e => e.2.launch == l.id && e.2.isSeq && !l.started)
  let s2 := parked.foldl (fun (st : State) e => ({ st.settleGroup e.2 with groups := mapErase e.1 st.groups } : State).chargeContext e.2) s1
  match l.gang with
  | some g => if g.coordinator == s.devid && l.gangState != .go then s2.clearReports g.gang else s2
  | none => s2

/-- The end of an abort: everything of the launch is discarded, its record carries the cause, and its queue stops (R356). -/
def State.endAbort (s : State) (l : Launch) (a : Abort) : State :=
  let s1 := l.shares.foldl (fun st sh => (st.discardShare l sh.cluster true).1) s
  let s2 := (s1.dropSaved l).unreserve l
  let s3 := s2.modLaunch l.id (fun m => { m with shares := m.shares.map (fun sh =>
    { sh with state := .resident, savedGroups := [], savedCrews := [], savedBufs := [], savedTags := [], savedLog := [], savedJobs := []
              savedArrays := [], kept := [] }) })
  match s3.launch? l.id with
  | none => s3
  | some m => (s3.finishLaunch m a.cause.code a.who false).stopQueue l.queue a.cause

/-! ## Gang members -/

/-- A core's crews of a launch reserved one by one, if they all fit (R350). -/
def State.reserveCrews (s : State) (l : Launch) (core : Nat) : Nat → Nat → Option State
  | 0, _ => some s
  | n + 1, k =>
    if !s.groupsFit core l.groupsPer l.nv then none
    else
      match s.crewBases l core with
      | none => none
      | some base => ({ s with crews := s.crews ++ [{ newCrew l core k s.now base with reserved := true }] }).reserveCrews l core n (k + 1)

/-- Every crew of a launch reserved, if they all fit. -/
def State.reserveAll (s : State) (l : Launch) : List Nat → Option State
  | [] => some s
  | core :: t => match s.reserveCrews l core l.crewsPer 0 with | none => none | some s1 => s1.reserveAll l t

/-- The ARMED reports that a coordinator holds for a gang (R350). -/
def State.gangFull (s : State) (g : Gang) : Bool := decide (g.members ≤ (s.day.reports.filter (fun r => r.1 == g.gang)).length)

/-- An ARMED report received; the coordinator sends GO as the last of its gang's comes in (R350). While no Daymark core acts the report waits
for the standby (R351). -/
def State.armReport (s : State) (gang member : Nat) : State :=
  if s.day.down then { s with day := { s.day with late := s.day.late ++ [(gang, member)] } }
  else if s.day.reports.contains (gang, member) then s
  else
    let s1 : State := { s with day := { s.day with reports := s.day.reports ++ [(gang, member)] } }
    let mine := s1.launches.any (fun l => l.gangState == .armed && (match l.gang with
      | some g => g.gang == gang && g.coordinator == s1.devid && s1.gangFull g && !s.gangFull g
      | none => false))
    if mine then { s1 with outbox := s1.outbox ++ [.go gang] } else s1

/-- GANG_ARM (R350): every context and crew of the launch fits and is reserved, and ARMED goes to the coordinator. -/
def execGangArm (launch : Nat) (s : State) : Out :=
  .next (match s.launch? launch with
    | none => s
    | some l =>
      match l.gang with
      | none => s
      | some g =>
        let asker := launchAsker launch
        let wait := l.footPages.filter (fun e => s.pageState asker l.domain e.2 e.1 == .waiting)
        if l.gangState != .wanting || l.abort.isSome || l.complete || l.halted.isSome || !s.scheduling then s
        else if !wait.isEmpty then wait.foldl (fun st e => st.askPage asker l.domain e.1) s
        else if !s.contextsFree l then s
        else
          match s.reserveAll l l.cores with
          | none => s
          | some s1 =>
            let s2 := if l.seqEntry = azero then s1 else l.clusters.foldl (fun st k => st.putContext l k) s1
            let s3 := ((s2.journal (.gang launch .armed)).park (fun x => x.launch == launch) true).modLaunch launch (fun l => { l with gangState := .armed, armedAt := s.now })
            if g.coordinator = s.devid then s3.armReport g.gang g.member
            else { s3 with outbox := s3.outbox ++ [.armed g.coordinator g.gang g.member] })

/-- GANG_ARMED_RECEIVE (R350). -/
def execGangArmedReceive (gang member : Nat) (s : State) : Out := .next (s.armReport gang member)

/-- Whether a coordinator has sent GO to a gang: its reports are complete, or another member of the gang on this device has gone (R350). -/
def State.gangGone (s : State) (g : Gang) : Bool :=
  s.gangFull g || s.launches.any (fun l => !l.complete && l.gangState == .go && (match l.gang with | some h => h.gang == g.gang | none => false))

/-- GANG_GO (R350): the member's contexts begin and its crews are placed. The coordinator's own GO needs every report, and with it the gang's
reports are done with, so that its identifier can serve a later gang. -/
def execGangGo (launch : Nat) (s : State) : Out :=
  .next (match s.launch? launch with
    | none => s
    | some l =>
      match l.gang with
      | none => s
      | some g =>
        if l.gangState != .armed || l.abort.isSome || s.day.down || (g.coordinator == s.devid && !s.gangGone g) then s
        else
          let s1 := l.clusters.foldl (fun st k => st.installLeaves l.domain k (l.footPages.map (·.1))) (s.askerDone (launchAsker launch))
          let s2 := ((s1.journal (.gang launch .go)).journal (.start false launch)).park (fun x => x.launch == launch) false
          (if g.coordinator = s.devid then s2.clearReports g.gang else s2).modLaunch launch (fun l => { l with gangState := .go, started := true }))

/-- A member that will not run: its reservations are released, its queue stops, and no counter is added to (R350). -/
def State.disarm (s : State) (l : Launch) : State :=
  ((((s.journal (.gang l.id .no)).unreserve l).modLaunch l.id (fun l => { l with gangState := .no })).finishLaunch { l with gangState := .no } Cause.gangAbort.code none false).stopQueue
    l.queue .gangAbort

/-- GANG_DISARM (R350). -/
def execGangDisarm (launch : Nat) (s : State) : Out :=
  .next (match s.launch? launch with
    | none => s
    | some l => if l.complete || l.abort.isSome || s.day.down || (l.gangState != .armed && l.gangState != .wanting) then s else s.disarm l)

/-- GANG_ARM_TIMEOUT (R350): only the coordinator's counts, and only before GO is sent. -/
def execGangArmTimeout (launch : Nat) (s : State) : Out :=
  .next (match s.launch? launch with
    | none => s
    | some l =>
      match l.gang with
      | none => s
      | some g =>
        if l.gangState != .armed || g.coordinator != s.devid || s.gangGone g || l.abort.isSome || s.day.down || !s.passed (1000 * g.armTimeout * usCycles) l.armedAt then s
        else ({ s with outbox := s.outbox ++ [PeerMsg.disarm g.gang] }).disarm l)

/-! ## Failover -/

/-- Members that wait for GO and that have lost the way to their coordinator (R350). -/
def State.disarmLost (s : State) : State :=
  if s.day.down then s
  else
    (s.launches.filter (fun l => !l.complete && l.abort.isNone && (l.gangState == .armed || l.gangState == .wanting) &&
      (match l.gang with | some g => g.coordinator != s.devid && !s.reachable g.coordinator | none => false))).foldl (fun st l => st.disarm l) s

/-- An uncorrectable error of Daymark's instruction memory traps its active core (R351): nothing is scheduled until the standby core takes
over; without a standby scheduling stops. An error that comes before the standby has taken over is the second one (DESIGN CHOICE, log 115). -/
def State.daymarkTrap (s : State) : State :=
  if s.ctrl.schedstop then s
  else if s.ctrl.nostandby || s.day.down then
    { s with ctrl := { s.ctrl with schedstop := true, nostandby := true } }.hostEvent Cause.schedulerFailover.code 255 1
  else { s with day := { s.day with down := true } }

/-- The standby core takes over (R351): the journal is replayed, every queue's WRITE is read anew whatever kicks are pending, what ended
meanwhile is journalled, so that its records are released in their order, and the host is told. What waited for a core is done: charges, ARMED
reports and gang members that have lost their coordinator. -/
def State.failover (s : State) : State :=
  if !s.day.down || s.ctrl.schedstop then s
  else
    let seen := (List.range 4096).foldl (fun m q => if s.qRead q < s.qWrite q then mapInsert q (s.qWrite q) m else m) ([] : FMap Nat)
    let s1 : State := { s with ctrl := { s.ctrl with nostandby := true }, day := { s.day with heads := [], seen := seen, visit := none, down := false, owed := [], late := [] } }
    let held := s1.fifo.filter (fun c => !s1.day.journal.contains (.complete c.queue c.index))
    let s2 := held.foldl (fun (st : State) c => st.journal (.complete c.queue c.index)) s1
    let s3 := s.day.owed.foldl (fun (st : State) e => st.chargeQueue e.1 e.2) s2
    let s4 := s.day.late.foldl (fun (st : State) e => st.armReport e.1 e.2) s3
    s4.disarmLost.hostEvent Cause.schedulerFailover.code 255 0

/-- DAYMARK_FAILOVER (R351): the standby core has taken the steps of a failover after the active core's trap. -/
def execDaymarkFailover (s : State) : Out := .next s.failover

end Sys2Proof.Machine
end

