-- ==== Sys2Proof/Machine/Host.lean ====
section
/-! DEFINITION. The binary shell: the CTRL window, semaphores, MEMORY apertures, the inbound ordering point, doorbells, peers and
links (R335, R403 to R413, R439). -/

namespace Sys2Proof.Machine

/-- A reply to a port. -/
def State.reply (s : State) (port : Nat) (bs : List (BitVec 8)) : State := { s with replies := s.replies ++ [⟨port, bs⟩] }

/-! ## The CTRL window -/

/-- A register of `n` bytes after a write of some of its bytes. -/
def mergeBytes (n old ofs width value : Nat) : Nat :=
  leNat ((List.range n).map (fun i => if ofs ≤ i ∧ i < ofs + width then (leBytes width value).getD (i - ofs) 0#8 else (leBytes n old).getD i 0#8))

/-- Whether a number is a power of two from 256 to 65,536 (R404). -/
def ringSizeOk (n : Nat) : Bool := [256, 512, 1024, 2048, 4096, 8192, 16384, 32768, 65536].contains n

/-- A CTRL write whose value is out of range is ignored and logged (R404, R405). -/
def State.ctrlIgnored (s : State) (port offset : Nat) : State := s.hostEvent Cause.reservedField.code port offset

/-- A CTRL register of 8 bytes written, if the value is in its range (R404). -/
def State.ctrlReg (s : State) (port offset base old width value : Nat) (ok : Nat → Bool) (put : Nat → State) : State :=
  let v := mergeBytes 8 old (offset - base) width value
  if ok v then put v else s.ctrlIgnored port offset

/-- Entries of two bytes that a write touches, each with its new value. -/
def touched (m : FMap Nat) (ofs width value : Nat) : List (Nat × Nat) :=
  let first := ofs / 2
  (List.range ((ofs + width + 1) / 2 - first)).map (fun j =>
    let e := first + j
    (e, leNat ((List.range 2).map (fun i =>
      let b := 2 * e + i
      if ofs ≤ b ∧ b < ofs + width then (leBytes width value).getD (b - ofs) 0#8 else (leBytes 2 (mapGet 0 m e)).getD i 0#8))))

/-- A write to the CTRL window (R404, R407); offsets that R404 does not list, and registers that it makes read-only, ignore it. -/
def State.ctrlWrite (s : State) (port offset width value : Nat) : State :=
  let c := s.ctrl
  let within := fun (base size : Nat) => decide (base ≤ offset) && decide (offset + width ≤ base + size)
  let reg := fun (base old : Nat) (ok : Nat → Bool) (put : Nat → State) => s.ctrlReg port offset base old width value ok put
  if width = 0 ∨ 8 < width then s
  else if within 0x0008 8 then reg 0x0008 s.devid (fun v => decide (v ≤ 383)) (fun v => { s with devid := v })
  else if within 0x0010 8 then reg 0x0010 c.qtable (fun v => decide (v ≤ 10099851)) (fun v => { s with ctrl := { c with qtable := v, qset := true } })
  else if within 0x0018 8 then
    reg 0x0018 c.evbase (fun v => v % 4096 == 0) (fun v => { s with ctrl := { c with evbase := v, evLost := c.evLost || decide (v = 0) } })
  else if within 0x0020 8 then reg 0x0020 c.evsize ringSizeOk (fun v => { s with ctrl := { c with evsize := v } })
  else if within 0x0030 8 then reg 0x0030 c.evrd (fun v => decide (c.evrd ≤ v) && decide (v ≤ c.evwr)) (fun v => { s with ctrl := { c with evrd := v } })
  else if within 0x0108 8 then reg 0x0108 c.faqrd (fun v => decide (c.faqrd ≤ v) && decide (v ≤ c.faqwr)) (fun v => { s with ctrl := { c with faqrd := v } })
  else if within 0x0200 0x400 then
    let m := putBox c.aper (offset - 0x0200) (leBytes width value)
    let modes := (List.range width).filter (fun i => (offset - 0x0200 + i) % 16 == 13)
    if modes.any (fun i => decide (2 < (mapGet 0#8 m (offset - 0x0200 + i)).toNat)) then s.ctrlIgnored port offset else { s with ctrl := { c with aper := m } }
  else if within 0x0600 0x100 then { s with ctrl := { c with dbgBox := putBox c.dbgBox (offset - 0x0600) (leBytes width value) } }
  else if within 0x0800 0x400 then { s with ctrl := { c with secBox := putBox c.secBox (offset - 0x0800) (leBytes width value) } }
  else if within 0x1000 0x300 then
    { s with route := (touched s.route (offset - 0x1000) width value).foldl (fun m e => mapSet 0 m e.1 e.2) s.route }
  else if within 0x1400 0x800 then
    let es := touched c.imports (offset - 0x1400) width value
    if es.any (fun e => e.1 % 2 == 1 && decide (19682 < e.2)) then s.ctrlIgnored port offset
    else { s with ctrl := { c with imports := es.foldl (fun m e => mapSet 0 m e.1 e.2) c.imports } }
  else s

/-- STATUS (R404). -/
def State.ctrlStatus (s : State) : Nat :=
  (if s.ctrl.ready then 1 else 0) + (if s.ctrl.minimal then 2 else 0) + (if s.ctrl.nostandby then 4 else 0) + (if s.ctrl.schedstop then 8 else 0)

/-- The registers of eight bytes each, by offset (R404). -/
def State.ctrlWide (s : State) : List (Nat × Nat) :=
  let c := s.ctrl
  [(0x0000, s.ctrlStatus), (0x0008, s.devid), (0x0010, c.qtable), (0x0018, c.evbase), (0x0020, c.evsize), (0x0028, c.evwr), (0x0030, c.evrd),
    (0x0100, c.faqwr), (0x0108, c.faqrd), (0x0110, c.faqdrop)]

/-- A byte of the CTRL window as a read returns it: 0 at an offset that R404 does not list. Semaphores are read by `State.semTake`. -/
def State.ctrlByte (s : State) (o : Nat) : BitVec 8 :=
  let c := s.ctrl
  let pair := fun (m : FMap Nat) (ofs : Nat) => (leBytes 2 (mapGet 0 m (ofs / 2))).getD (ofs % 2) 0#8
  if o < 0x0200 then
    (match s.ctrlWide.find? (fun e => decide (e.1 ≤ o) && decide (o < e.1 + 8)) with
    | some e => (leBytes 8 e.2).getD (o - e.1) 0#8
    | none => 0#8)
  else if o < 0x0600 then mapGet 0#8 c.aper (o - 0x0200)
  else if o < 0x0700 then mapGet 0#8 c.dbgBox (o - 0x0600)
  else if o < 0x0800 then 0#8
  else if o < 0x0C00 then mapGet 0#8 c.secBox (o - 0x0800)
  else if o < 0x1000 then 0#8
  else if o < 0x1300 then pair s.route (o - 0x1000)
  else if o < 0x1400 then 0#8
  else if o < 0x1C00 then pair c.imports (o - 0x1400)
  else if o < 0x4000 then 0#8
  else if o < 0x6D90 then (mapGet [] c.faq ((o - 0x4000) / 16)).getD ((o - 0x4000) % 16) 0#8
  else 0#8

/-! ## Semaphores -/

/-- What a read of a semaphore returns and does (R406): 0 and the semaphore, or one more than its holder. An offset past SEM15 reads as 0. -/
def State.semTake (s : State) (port n : Nat) : Nat × State :=
  if 16 ≤ n then (0, s)
  else
    match mapFind n s.ctrl.sems with
    | some h => (1 + h, s)
    | none => (0, { s with ctrl := { s.ctrl with sems := mapInsert n port s.ctrl.sems } })

/-- A read of a semaphore (R406). -/
def State.semRead (s : State) (port n : Nat) : State := (s.semTake port n).2.reply port (leBytes 8 (s.semTake port n).1)

/-- A read of the CTRL window (R404); one of a semaphore's bytes reads the semaphore (R406). -/
def State.ctrlRead (s : State) (port offset width : Nat) : State :=
  if 0x0040 ≤ offset ∧ offset < 0x00C0 then
    let r := s.semTake port ((offset - 0x0040) / 8)
    r.2.reply port ((List.range width).map (fun i => (leBytes 8 r.1).getD (offset % 8 + i) 0#8))
  else s.reply port ((List.range width).map (fun i => s.ctrlByte (offset + i)))

/-- A write to a semaphore (R406). -/
def State.semWrite (s : State) (port n value : Nat) : State :=
  if value = 0 ∧ mapFind n s.ctrl.sems = some port then { s with ctrl := { s.ctrl with sems := mapErase n s.ctrl.sems } } else s

/-- A write to the CTRL window as it is carried out: a semaphore's, or another register's (R404, R406). -/
def State.ctrlPut (s : State) (port offset width value : Nat) : State :=
  if 0x0040 ≤ offset ∧ offset < 0x00C0 then s.semWrite port ((offset - 0x0040) / 8) value else s.ctrlWrite port offset width value

/-! ## Apertures -/

/-- A field of an aperture's entry (R407). -/
def State.aperNat (s : State) (k ofs n : Nat) : Nat := leNat ((List.range n).map (fun i => mapGet 0#8 s.ctrl.aper (16 * k + ofs + i)))
/-- The BASE of an aperture (R407). -/
def State.aperBase (s : State) (k : Nat) : Option Addr := p5dec 54 ((List.range 11).map (fun i => mapGet 0#8 s.ctrl.aper (16 * k + i)))

/-- The page of a device access of an aperture's domain, by the rules of R408: the frame, whether it is packed, and the position. -/
def State.aperPage (s : State) (domain : Nat) (a : Addr) (write : Bool) : Except Cause (Nat × Bool × Nat) :=
  match s.sysPlace domain a write with
  | .error c => .error c
  | .ok (loc, _) =>
    match loc 0 with
    | .packed f pos => .ok (f, true, pos)
    | .binary f pos => .ok (f, false, pos)
    | _ => .error .pageNotPresent

/-- What byte `o` of an aperture stands for, or why a request for it is refused (R407, R408). -/
def State.aperByte (s : State) (k o : Nat) (write : Bool) : Except Cause ByteAt :=
  let mode := s.aperNat k 13 1
  if mode = 0 ∨ 2 < mode ∨ s.aperNat k 14 2 * 2 ^ 20 ≤ o then .ok (.fixed 0xFF#8)
  else
    match s.aperBase k with
    | none => .error .pathReserved
    | some b =>
      if addrPath b ≠ 0 ∧ addrPath b ≠ 2 then .error .pathReserved
      else if mode = 2 ∧ !tileAligned b then .error .misaligned
      else
        match s.aperPage (s.aperNat k 11 2) (if mode = 1 then addrAdd b (o : Int) else addrAdd b (243 * (o / 448 : Nat))) write with
        | .error c => .error c
        | .ok (f, packed, pos) =>
          if packed != (mode == 2) then .error .hostWindowError
          else if mode = 1 then .ok (.binary f pos)
          else .ok (.slot f (pos / 243) (o % 448))

/-- The key slot that a byte of an aperture waits for (R374, R408). -/
def State.aperKey (s : State) (o : Nat) (write : Bool) : Option Nat :=
  let k := o / 2 ^ 30
  match s.aperByte k (o % 2 ^ 30) write, s.aperBase k with
  | .error .keyUnavailable, some b =>
    s.sysKey (s.aperNat k 11 2) (if s.aperNat k 13 1 = 1 then addrAdd b ((o % 2 ^ 30 : Nat) : Int) else addrAdd b (243 * (o % 2 ^ 30 / 448 : Nat))) write
  | _, _ => none

/-- The bytes of a request, or the first refusal. -/
def State.aperBytes (s : State) (at_ : Nat) (write : Bool) : Nat → Except Cause (List ByteAt)
  | 0 => .ok []
  | n + 1 =>
    match s.aperByte (at_ / 2 ^ 30) (at_ % 2 ^ 30) write, s.aperBytes (at_ + 1) write n with
    | .ok b, .ok bs => .ok (b :: bs)
    | .error c, _ => .error c
    | _, .error c => .error c

/-- A byte as a read returns it (R407, R408): 0xFF in the DATA of a tile that reads as poisoned, and 0 past the DATA. -/
def State.readByteAt (s : State) : ByteAt → BitVec 8
  | .fixed b => b
  | .binary f pos => match s.readLoc (.binary f pos) with | .ok t => (tryteByte t).getD 0#8 | .error _ => 0#8
  | .slot f t o => if 438 ≤ o then 0#8 else if s.poisoned f t then 0xFF#8 else memByte s.mem (tileAddr f t + o)

/-- A byte written (R407, R408): in byte 437 of a slot only the two trits of the tile; the TAG of an encrypted tile follows (R168, R414). -/
def State.writeByteAt (s : State) (x : ByteAt × BitVec 8) : State :=
  match x.1 with
  | .fixed _ => s
  | .binary f pos => s.homeWrite [.binary f pos] [byteTryte x.2]
  | .slot f t o =>
    if 438 ≤ o then s else
    let s1 := s.reseal f t true
    let at_ := tileAddr f t + o
    let old := (memByte s1.mem at_).toNat % 243
    let v := if o = 437 then old - old % 9 + x.2.toNat % 9 else x.2.toNat
    ({ s1 with mem := memPut s1.mem at_ (BitVec.ofNat 8 v) }.retag f t).l2Through (tileCoord f t)

/-- The tiles all of whose DATA bytes a write carries. -/
def wholeTiles (bs : List (ByteAt × BitVec 8)) : List (Nat × Nat) :=
  (bs.filterMap (fun x => match x.1 with | .slot f t 0 => some (f, t) | _ => none)).filter (fun p =>
    (bs.filter (fun x => match x.1 with | .slot f t o => f == p.1 && t == p.2 && decide (o < 438) | _ => false)).length == 438)

/-- The binary tiles all of whose bytes a write carries. -/
def wholeBinTiles (bs : List (ByteAt × BitVec 8)) : List (Nat × Nat) :=
  (bs.filterMap (fun x => match x.1 with | .binary f pos => if pos % 243 = 0 then some (f, pos / 243) else none | _ => none)).filter (fun p =>
    (bs.filter (fun x => match x.1 with | .binary f pos => f == p.1 && pos / 243 == p.2 | _ => false)).length == 243)

/-- A MEMORY write takes its place (R409). Whether a write of a whole tile counts as one by system software that clears POISON (R168)
is free. -/
def State.writeBytesAt (s : State) (bs : List (ByteAt × BitVec 8)) : State :=
  let s1 := bs.foldl State.writeByteAt s
  let s2 := (wholeTiles bs).foldl (fun st p => { (if Config.pick st.free % 2 = 1 then st.setPoison p.1 p.2 false else st) with free := st.free + 1 }) s1
  (wholeBinTiles bs).foldl (fun st p => { (if Config.pick st.free % 2 = 1 then st.setBinPoison p.1 p.2 false else st) with free := st.free + 1 }) s2

/-- The route of a byte: the compute die of its tile's home slice (R171, R409). -/
def ByteAt.route : ByteAt → Nat
  | .fixed _ => 4
  | .binary f pos => homeSlice (tileCoord f (pos / 243)) / 32
  | .slot f t _ => homeSlice (tileCoord f t) / 32

/-- A write's bytes divided into parts of one route each, in rising address order (R439). -/
def routeParts : List (ByteAt × BitVec 8) → List (Nat × List (ByteAt × BitVec 8))
  | [] => []
  | x :: t =>
    match routeParts t with
    | (r, ys) :: rest => if x.1.route = r then (r, x :: ys) :: rest else (x.1.route, [x]) :: (r, ys) :: rest
    | [] => [(x.1.route, [x])]

/-! ## The inbound ordering point -/

/-- Whether a request still waits for the key of a frame (R374). -/
def InReq.asking (r : InReq) : Bool := match r.op with | .askRead _ _ => true | .askWrite _ _ => true | .askPeer _ _ _ => true | _ => false

/-- Whether a request may be forwarded behind the earlier ones of its port (R409). -/
def InReq.mayForward (r : InReq) (before : List InReq) : Bool :=
  if r.asking then false
  else if r.write then r.relaxed || !before.any (fun b => b.write && !b.relaxed && b.route != r.route)
  else !before.any (fun b => b.write)

/-- The first request of a port that may be forwarded, with the earlier requests of its port given. -/
def nextForward (port : Nat) : List InReq → List InReq → Option InReq
  | _, [] => none
  | before, r :: t =>
    if r.port != port then nextForward port before t
    else if !r.forwarded && r.mayForward before then some r
    else nextForward port (before ++ [r]) t

/-- Trytes of a peer's reply, two bytes each. -/
def tryteBytes (ts : List Tryte) : List (BitVec 8) := ts.flatMap p5enc

/-- A peer's request refused: the requester sees it, and the cause is an event here (R413). -/
def State.refusePeer (s : State) (port : Nat) (c : Cause) : State :=
  { (s.reply port (leBytes 1 Cause.peerDeviceUnreachable.code)).hostEvent c.code 255 (Config.pick s.free) with free := s.free + 1 }

/-- A peer's request performed (R413); a reduction of a poisoned tile raises nothing (R168). -/
def State.servePeer (s : State) (port : Nat) (locs : List Loc) (req : PeerReq) : State :=
  match req with
  | .load _ _ =>
    if locs.any (fun l => s.locPoisoned l) then s.refusePeer port .poisonedData
    else (match s.readLocs locs with
      | .ok ts => s.reply port (leBytes 1 0 ++ tryteBytes ts)
      | .error c => s.refusePeer port c)
  | .store _ data => (s.homeWrite locs data).reply port (leBytes 1 0)
  | .atomic _ op b cmp toReg =>
    match s.readLocs locs with
    | .ok old =>
      let s1 := s.homeWrite locs (atomTrytes op old b cmp)
      if toReg && locs.any (fun l => s.locPoisoned l) then s1.refusePeer port .poisonedData else s1.reply port (leBytes 1 0 ++ tryteBytes old)
    | .error c => s.refusePeer port c

/-- A request for a semaphore served (R406). -/
def State.serveSem (s : State) (r : InReq) : State :=
  match r.op with
  | .semRead n => s.semRead r.port n
  | .semWrite n v => s.semWrite r.port n v
  | .ctrlRead o w => s.ctrlRead r.port o w
  | .ctrl o w v => s.ctrlPut r.port o w v
  | _ => s

/-- Whether a request is for a semaphore (R404, R406). -/
def InOp.forSem : InOp → Bool
  | .semRead _ => true
  | .semWrite _ _ => true
  | .ctrlRead o _ => decide (0x0040 ≤ o) && decide (o < 0x00C0)
  | .ctrl o _ _ => decide (0x0040 ≤ o) && decide (o < 0x00C0)
  | _ => false

/-- A request forwarded (R409): a write to device memory goes on to its die and waits for its acknowledgement; a request of port 1 for a
semaphore waits for the end of the cycle, so that one of port 0 that arrives in the same cycle is served first (R406); anything else is
carried out, and is then done. -/
def State.forward (s : State) (r : InReq) : State :=
  let gone : State := { s with inbound := s.inbound.filter (fun x => x.id != r.id) }
  let sent : State := { s with inbound := s.inbound.map (fun (x : InReq) => if x.id = r.id then ({ x with forwarded := true } : InReq) else x) }
  if r.op.forSem then (if r.port = 1 then sent else gone.serveSem r)
  else
    match r.op with
    | .read bs => gone.reply r.port (bs.map s.readByteAt)
    | .refused n => gone.reply r.port (List.replicate n 0xFF#8)
    | .doorbell q v => gone.notify q v
    | .ctrl o w v => gone.ctrlPut r.port o w v
    | .ctrlRead o w => gone.ctrlRead r.port o w
    | .peer locs (.load a n) => gone.servePeer r.port locs (.load a n)
    | .write _ => sent
    | .peer _ _ => sent
    | .semRead _ => gone
    | .semWrite _ _ => gone
    | .askRead _ _ => s
    | .askWrite _ _ => s
    | .askPeer _ _ _ => s
    | .own _ _ => s

/-- Every request of a port that can be is forwarded, in order. -/
def State.pump (s : State) (port : Nat) : Nat → State
  | 0 => s
  | n + 1 => match nextForward port [] s.inbound with | none => s | some r => (s.forward r).pump port n

/-- A request arrives (R409). -/
def State.arrive (s : State) (port route : Nat) (write relaxed : Bool) (op : InOp) : State :=
  let r : InReq := { id := s.nextReq, port := port, route := route, write := write, relaxed := relaxed, forwarded := false, op := op }
  let s1 := { s with inbound := s.inbound ++ [r], nextReq := s.nextReq + 1 }
  s1.pump port s1.inbound.length

/-- Requests of port 1 for semaphores that have waited for the end of their cycle, served in their order (R406). -/
def State.serveSems (s : State) : State :=
  let due := s.inbound.filter (fun r => r.forwarded && r.op.forSem)
  if due.isEmpty then s
  else
    let s1 := due.foldl (fun (st : State) r => st.serveSem r) { s with inbound := s.inbound.filter (fun r => !(r.forwarded && r.op.forSem)) }
    s1.pump 1 s1.inbound.length

/-- Whether the device serves MEMORY and DOORBELL requests (R419, R420). -/
def State.serving (s : State) : Bool := s.ctrl.ready

/-- A MEMORY request that fails: an event, and a non-fatal error reported through Advanced Error Reporting (R408). -/
def State.refuseMemory (s : State) (port offset : Nat) (c : Cause) : State := { s.hostEvent c.code port offset with aer := s.aer ++ [port] }

/-- The key slot that the first byte of a request to need one waits for. -/
def State.aperAsks (s : State) (at_ : Nat) (write : Bool) (n : Nat) : Option Nat := (List.range n).findSome? (fun i => s.aperKey (at_ + i) write)

/-- A request that has arrived replaced by what it has turned out to be, in its place (R374, R409). -/
def replaceReq (id : Nat) (rs : List InReq) : List InReq → List InReq
  | [] => []
  | x :: t => if x.id = id then rs ++ t else x :: replaceReq id rs t

/-- The request of a MEMORY read, and the state with the event of its refusal (R408). -/
def State.memRead (s : State) (port offset len : Nat) : State × InOp :=
  match (if s.serving then s.aperBytes offset false len else .error .pageNotPresent) with
  | .ok bs => (s, .read bs)
  | .error c =>
    match (if s.serving then s.aperAsks offset false len else none) with
    | some k => (s.askKey k, .askRead offset len)
    | none => (s.refuseMemory port offset c, .refused len)

/-- MEMORY_READ (R408, R409); one of a frame whose key slot is not loaded waits for the key (R374). -/
def execMemoryRead (port offset len : Nat) (s : State) : Out :=
  .next (match s.memRead port offset len with | (s1, op) => s1.arrive port 4 false false op)

/-- A byte code that no packed aperture takes (R54, R408). -/
def badCode (bs : List (ByteAt × BitVec 8)) : Bool := bs.any (fun x => match x.1 with | .slot _ _ _ => decide (242 < x.2.toNat) | _ => false)

/-- Whether a byte of a request stands for a byte of memory. -/
def ByteAt.lands : ByteAt → Bool
  | .fixed _ => false
  | .slot _ _ o => decide (o < 438)
  | .binary _ _ => true

/-- What a MEMORY write comes to (R408): the parts of one route each (R439), the key slot that it waits for, or the cause of its refusal. -/
def State.memWrite (s : State) (offset : Nat) (data : List (BitVec 8)) : Except Cause (Option Nat × List (Nat × List (ByteAt × BitVec 8))) :=
  match (if s.serving then s.aperBytes offset true data.length else .error .pageNotPresent) with
  | .error c => (match (if s.serving then s.aperAsks offset true data.length else none) with | some k => .ok (some k, []) | none => .error c)
  | .ok bs => if badCode (bs.zip data) then .error .badByteCode else .ok (none, routeParts ((bs.zip data).filter (fun x => x.1.lands)))

/-- MEMORY_WRITE (R408, R409, R439). -/
def execMemoryWrite (port offset : Nat) (data : List (BitVec 8)) (relaxed : Bool) (s : State) : Out :=
  .next (
    match s.memWrite offset data with
    | .error c => s.refuseMemory port offset c
    | .ok (some k, _) => (s.askKey k).arrive port 5 true relaxed (.askWrite offset data)
    | .ok (none, parts) => parts.foldl (fun st p => st.arrive port p.1 true relaxed (.write p.2)) s)

/-- The trytes around a peer's address that a run of so many covers: one, a word, a pair, or a run from the address on (R163). -/
def peerRun (n : Nat) : List Int :=
  if n = 3 then [-1, 0, 1] else if n = 6 then [-1, 0, 1, 2, 3, 4] else (List.range n).map (fun (i : Nat) => (i : Int))

/-- The places of a peer's run, each tryte translated here (R413). -/
def State.peerLocsAt (s : State) (dev domain : Nat) (a : Addr) (write atomic : Bool) : List Int → Except Cause (List Loc)
  | [] => .ok []
  | d :: t =>
    match s.peerPlace dev domain (peerAddr (addrAdd a d)) write atomic, s.peerLocsAt dev domain a write atomic t with
    | .ok f, .ok ls => .ok (f 0 :: ls)
    | .error c, _ => .error c
    | _, .error c => .error c

/-- Trytes that an atomic of a peer works on (R194). -/
def atomRun (op : AtomOp) : Nat := if op.kind = .add54 then 6 else 3

/-- A peer's request that has passed its checks at the target, or its refusal (R413). -/
def State.peerCheck (s : State) (dev domain : Nat) (req : PeerReq) : Except Cause (Bool × List Loc) :=
  match req with
  | .load a n => (s.peerLocsAt dev domain a false false (peerRun n)).map (fun ls => (false, ls))
  | .store a data =>
    match s.peerLocsAt dev domain a true false (peerRun data.length) with
    | .error c => .error c
    | .ok ls => if badByte ls data then .error .convertRange else .ok (true, ls)
  | .atomic a op _ _ _ =>
    if !(if op.kind = .add54 then pairAligned a else wordAligned a) then .error .misaligned
    else (s.peerLocsAt dev domain a true true (peerRun (atomRun op))).map (fun ls => (true, ls))

/-- The addresses that a peer's request reaches, and whether it writes (R413). -/
def peerReach : PeerReq → Addr × List Int × Bool
  | .load a n => (a, peerRun n, false)
  | .store a data => (a, peerRun data.length, true)
  | .atomic a op _ _ _ => (a, peerRun (atomRun op), true)

/-- The key slot that a peer's request waits for (R374, R413). -/
def State.peerAsks (s : State) (dev domain : Nat) (req : PeerReq) : Option Nat :=
  (peerReach req).2.1.findSome? (fun d => s.peerKey dev domain (peerAddr (addrAdd (peerReach req).1 d)) (peerReach req).2.2)

/-- A request that has waited for a key looked at again: it goes on, still waits, or is refused (R374, R408, R413). -/
def State.retryKey (s : State) (r : InReq) : State :=
  let put := fun (st : State) (rs : List InReq) => { st with inbound := replaceReq r.id rs st.inbound }
  match r.op with
  | .askRead o n => match s.memRead r.port o n with | (s1, op) => put s1 [{ r with op := op }]
  | .askWrite o d =>
    (match s.memWrite o d with
    | .error c => put (s.refuseMemory r.port o c) []
    | .ok (some k, _) => s.askKey k
    | .ok (none, parts) =>
      let rs := (List.range parts.length).map (fun i =>
        let p := parts.getD i (4, [])
        ({ r with id := s.nextReq + i, route := p.1, op := .write p.2 } : InReq))
      { put s rs with nextReq := s.nextReq + parts.length })
  | .askPeer dev domain req =>
    (match s.peerAsks dev domain req, s.peerCheck dev domain req with
    | some k, _ => s.askKey k
    | none, .error c => put (s.refusePeer r.port c) []
    | none, .ok (_, ls) => put s [{ r with route := (match ls with | l :: _ => l.route | [] => 4), op := .peer ls req }])
  | _ => s

/-- The requests that wait for keys looked at again, once the security processor has answered (R374). -/
def State.retryKeys (s : State) : State :=
  let asking := s.inbound.filter InReq.asking
  let s1 := asking.foldl State.retryKey s
  ((asking.map (·.port)).eraseDups).foldl (fun (st : State) p => st.pump p st.inbound.length) s1

/-- INBOUND_WRITE_ACK (R409): the `k`-th forwarded write of a port takes its place in the coherence order. A write without Relaxed
Ordering does so after those forwarded before it on its route. -/
def execInboundWriteAck (port k : Nat) (s : State) : Out :=
  .next (
    let fs := s.inbound.filter (fun r => r.port == port && r.forwarded && !r.op.forSem)
    match fs[k]? with
    | none => s
    | some r =>
      if !r.relaxed && (fs.take k).any (fun b => !b.relaxed && b.route == r.route) then s
      else
        let s1 := { s with inbound := s.inbound.filter (fun x => x.id != r.id) }
        let s2 := match r.op with
          | .write bs => s1.writeBytesAt bs
          | .peer locs q => s1.servePeer port locs q
          | _ => s1
        s2.pump port s2.inbound.length)

/-- DOORBELL_WRITE (R335, R409): done once it is forwarded. During a start it is refused as a MEMORY write is (R419), one out of minimal mode
included, which begins as it is requested. -/
def execDoorbellWrite (port queue value : Nat) (s : State) (relaxed : Bool := false) : Out :=
  .next (
    if !s.ctrl.ready && (!s.ctrl.minimal || s.startDue) then s.refuseMemory port (8 * queue) .pageNotPresent
    else if 4095 < queue then s
    else s.arrive port 4 true relaxed (.doorbell queue value))

/-- HOST_RESERVE_CLAIM (R335 step 1): RESERVE moves from `index` to `index` + 1 where the ring has room; the reply says whether. -/
def execHostReserveClaim (queue index : Nat) (s : State) : Out :=
  .next (
    if s.qReserve queue = index ∧ index < s.qRead queue + s.qSlots queue then (s.setQueue queue 16 8 (index + 1)).reply 0 (leBytes 1 1)
    else s.reply 0 (leBytes 1 0))

/-- SEM_READ (R406). -/
def execSemRead (port n : Nat) (s : State) : Out := .next (s.arrive port 4 false false (.semRead n))
/-- SEM_WRITE (R406). -/
def execSemWrite (port n value : Nat) (s : State) (relaxed : Bool := false) : Out := .next (s.arrive port 4 true relaxed (.semWrite n value))
/-- CTRL_WRITE (R404). -/
def execCtrlWrite (port offset width value : Nat) (s : State) (relaxed : Bool := false) : Out := .next (s.arrive port 4 true relaxed (.ctrl offset width value))
/-- A read of the CTRL window (R404, R409). -/
def execCtrlRead (port offset width : Nat) (s : State) : Out := .next (s.arrive port 4 false false (.ctrlRead offset width))

/-! ## Host memory -/

/-- An entry of the outbound table written by the memory-management processor at the request of system software (R410): bus address, port and
VALID, the rest zero. An entry beyond the table is not written. -/
def execOutboundWrite (entry bus port : Nat) (valid : Bool) (s : State) : Out :=
  let bs := leBytes 8 bus ++ leBytes 1 port ++ leBytes 1 (if valid then 1 else 0) ++ zeroBytes 6
  .next (
    if s.outFrames * 59049 < 16 * entry + 16 then s
    else
      { s with mem := (List.range 16).foldl (fun m i =>
          memPut m (frameAddr (s.outFrame + (16 * entry + i) / 59049) + (16 * entry + i) % 59049) (bs.getD i 0#8)) s.mem })

/-- A load of host memory whose read completes with Unsupported Request, Completer Abort or poison (R410): HOST_WINDOW_ERROR, precisely. -/
def State.failLoad (s : State) (g : Group) (k : Nat) : State :=
  match g.infl.find? (fun a => a.seq == k) with
  | none => s
  | some a =>
    if a.kind != .load || !s.mayReturn g a then s
    else
      match a.lanes.find? (fun la => la.locs.any Loc.onHost) with
      | some la => s.faultReturn g.key a (la.lane, .hostWindowError)
      | none => s

/-- A read of host memory by a split whose completion fails (R410, R212, R281): a `WAITGE` that polls there traps, and that of a `RECLD` is
remembered until the split executes one. -/
def State.failPoll (s : State) (g : Group) (i : Nat) : State :=
  match g.split? i with
  | none => s
  | some x =>
    match x.wait with
    | .waitge locs _ _ _ _ =>
      if locs.any Loc.onHost && g.awake i && s.readFree g i locs then s.trapWaiter g.key i 1 .hostWindowError else s
    | _ => if s.hostFails.contains (g.key, i) then s else { s with hostFails := s.hostFails ++ [(g.key, i)] }

/-- HOST_READ_FAIL (R410): of load `k`, or of a split's `WAITGE` or `RECLD`. -/
def execHostReadFail (core slot k : Nat) (s : State) (split : Option Nat := none) : Out :=
  .next (match s.group? (gkey core slot), split with
    | none, _ => s
    | some g, none => s.failLoad g k
    | some g, some i => s.failPoll g i)

/-! ## Peers -/

/-- A peer member of a gang is switched out, or is back (R216): while its token holds, the barrier is open and its timeout stands. -/
def execPeerAbsence (gang member : Nat) (absent : Bool) (s : State) : Out :=
  .next { s with launches := s.launches.map (fun (l : Launch) =>
    if !l.complete && (match l.gang with | some g => g.gang == gang && g.member != member | none => false) then
      { l with xbarAbsent := if absent then (if l.xbarAbsent.contains member then l.xbarAbsent else l.xbarAbsent ++ [member]) else l.xbarAbsent.filter (fun m => m != member) }
    else l) }

/-- PEER_REQUEST (R413): a request of a device's own order (R409), refused or passed on; one of a frame whose key slot is not loaded waits for the
key (R374). What this device asks of itself comes from its own accesses (R165). -/
def execPeerRequest (device domain : Nat) (req : PeerReq) (s : State) : Out :=
  .next (
    if device = s.devid then s
    else match s.peerAsks device domain req, s.peerCheck device domain req with
    | some k, _ => (s.askKey k).arrive (2 + device) 5 (peerReach req).2.2 false (.askPeer device domain req)
    | none, .error c => s.refusePeer (2 + device) c
    | none, .ok (write, ls) => s.arrive (2 + device) (match ls with | l :: _ => l.route | [] => 4) write false (.peer ls req))

/-! ## Links and time -/

/-- PCIE_LINK_DOWN (R405, R406): the port's semaphores become FREE, and its requests for semaphores that wait are gone with it. -/
def execPcieLinkDown (port : Nat) (s : State) : Out :=
  .next (
    if !s.pcieUp.contains port then s
    else
      { s with
        pcieUp := s.pcieUp.filter (fun p => p != port)
        inbound := s.inbound.filter (fun r => !(r.port == port && r.op.forSem))
        ctrl := { s.ctrl with sems := s.ctrl.sems.filter (fun e => e.2 != port) } }.hostEvent Cause.linkDown.code port port)

/-- The first lane of an access that left on a scale-up port (R412). -/
def Access.laneOn (a : Access) (port : Nat) : Option Nat := (a.lanes.find? (fun la => la.port == some port)).map (·.lane)

/-- An access that was outstanding on a port whose link has gone down (R412): a load is lost; a store has been performed or has
not. -/
def State.failOutstanding (s : State) (key : Nat) (a : Access) (lane : Nat) : State :=
  let s1 : State := { s with free := s.free + 1 }
  let s2 := match a.kind with
    | .store => if Config.pick s.free % 2 = 1 then (match s1.group? key with | some g => a.lanes.foldl (fun (st : State) la => st.storeLanes g.core [la]) s1 | none => s1) else s1
    | .atomic op _ => if Config.pick s.free % 2 = 1 then (match s1.group? key with | some g => (s1.atomLanes g.core op a.lanes).1 | none => s1) else s1
    | _ => s1
  s2.faultReturn key a (lane, .peerDeviceUnreachable)

/-- Every access outstanding on a port fails. -/
def State.failPort (s : State) (port : Nat) : State :=
  s.groups.foldl (fun st e =>
    (e.2.infl.filter (fun a => !a.done)).foldl (fun st a => match a.laneOn port with | some l => st.failOutstanding e.1 a l | none => st) st) s

/-- SCALEUP_LINK_DOWN (R350, R412). -/
def execScaleupLinkDown (port : Nat) (s : State) : Out :=
  .next (
    if !s.linksUp.contains port then s
    else
      let s1 := s.failPort port
      let s2 := { s1 with linksUp := s1.linksUp.filter (fun p => p != port) }
      (s2.hostEvent Cause.linkDown.code 255 (port + 256)).disarmLost)

/-- SCALEUP_LINK_UP (R412). -/
def execScaleupLinkUp (port : Nat) (s : State) : Out :=
  .next (if 16 ≤ port ∨ s.linksUp.contains port then s
    else { s with linksUp := (List.range 16).filter (fun p => p == port || s.linksUp.contains p) })

/-- PTM_ALIGN (R223): forward at once; backward by a slower advance. -/
def execPtmAlign (ns : Nat) (s : State) : Out :=
  .next (if s.timeBase ≤ 10 * ns then { s with timeBase := 10 * ns, timeSlow := 0 } else { s with timeSlow := s.timeBase - 10 * ns })

end Sys2Proof.Machine
end

