-- ==== Sys2Proof/Machine/Bringup.lean ====
section
/-! DEFINITION. The security mailbox (R414 to R417), the start sequence (R419 to R421), power and cooling (R422 to R424), and errors of
storage (R27, R168, R357, R376). -/

namespace Sys2Proof.Machine

/-! ## The security mailbox -/

/-- A command's answer: a status word, 0 where it was done, and what it returns. -/
def State.secAnswer (s : State) (status : Nat) (bs : List (BitVec 8)) : State := s.reply 1001 (leBytes 4 status ++ bs)

/-- A refusal whose status word the spec does not give: free, and not 0. -/
def State.secRefuse (s : State) : State := { s with free := s.free + 1 }.secAnswer (1 + Config.pick s.free % (2 ^ 32 - 1)) []

/-- The key of 32 bytes at an offset. -/
def key256 (bs : List Nat) (ofs : Nat) : BitVec 256 := BitVec.ofNat 256 (leNat (((bs.drop ofs).take 32).map (BitVec.ofNat 8)))

/-- The slot that a key blob fills: unwrapped under the wrapping key of its ephemeral public key (R415), it holds the two keys of XTS and that of
CMAC one after another (DESIGN CHOICE, log 74). -/
def keyOfBlob (domain : Nat) (debug : Bool) (pub blob : List (BitVec 8)) : Option KeySlot :=
  match Config.wrapKey pub with
  | none => none
  | some w =>
    match keyUnwrap ((leBytes 32 w.toNat).map BitVec.toNat) (blob.map BitVec.toNat) with
    | none => none
    | some ks => if ks.length = 96 then some ⟨key256 ks 0, key256 ks 32, key256 ks 64, domain, debug⟩ else none

/-- LOADKEY (R415). -/
def execLoadkey (slot domain : Nat) (debug : Bool) (pub blob : List (BitVec 8)) (s : State) : Out :=
  .next (
    if 1023 < slot ∨ 19682 < domain then s.secRefuse
    else
      match keyOfBlob domain debug pub blob with
      | none => s.secRefuse
      | some k =>
        ({ s with
          keys := mapInsert slot k s.keys
          keyRefused := s.keyRefused.filter (fun n => n != slot)
          keyAsks := s.keyAsks.filter (fun n => n != slot) }.secAnswer 0 []).retryKeys)

/-- UNLOADKEY (R415): only a slot that no frame uses is cleared. -/
def execUnloadkey (slot : Nat) (s : State) : Out :=
  .next (
    if 1023 < slot ∨ s.frameKey.any (fun e => e.2 == slot + 1) then s.secRefuse
    else { s with keys := mapErase slot s.keys }.secAnswer 0 [])

/-- KEY_SLOT_LOAD_COMPLETE (R374): the security processor answers a request of the memory-management processor. Which keys it loads, for
which domain and whether that may be debugged are free. -/
def execKeySlotLoadComplete (slot : Nat) (loaded : Bool) (s : State) : Out :=
  .next (
    if !s.keyAsks.contains slot then s
    else
      let s1 : State := { s with keyAsks := s.keyAsks.filter (fun n => n != slot) }
      (if loaded then
        { s1 with
          keys := mapInsert slot
            ⟨BitVec.ofNat 256 (Config.pick s.free), BitVec.ofNat 256 (Config.pick (s.free + 1)), BitVec.ofNat 256 (Config.pick (s.free + 2)),
              Config.pick (s.free + 3) % 19683, Config.pick (s.free + 4) % 2 == 1⟩ s1.keys
          keyRefused := s1.keyRefused.filter (fun n => n != slot)
          free := s.free + 5 }
      else { s1 with keyRefused := if s1.keyRefused.contains slot then s1.keyRefused else s1.keyRefused ++ [slot] }).retryKeys)

/-- The signed part of an attestation report (R417). -/
def State.report (s : State) (nonce : List (BitVec 8)) : List (BitVec 8) :=
  let config := (if Config.debugOn then 1 else 0) + (if s.frameKey.isEmpty then 0 else 2) + (if s.ctrl.minimal then 4 else 0)
  [0x45#8, 0x4D#8, 0x41#8, 0x54#8] ++ leBytes 2 1 ++ leBytes 2 s.devid ++ nonce ++ (List.range 384).map Config.firmware
    ++ (List.range 6).flatMap (fun i => leBytes 4 (s.images.getD i ⟨0, false⟩).version) ++ leBytes 8 config

/-- ATTEST (R417). -/
def execAttest (nonce : List (BitVec 8)) (s : State) : Out :=
  let r := s.report nonce
  .next (if nonce.length = 64 then s.secAnswer 0 (r ++ (List.range 132).map (Config.signature r)) else s.secRefuse)

/-- STARTINFO (R421). -/
def execStartinfo (s : State) : Out :=
  let b := s.bringup
  .next (s.secAnswer 0 (leBytes 1 b.reason ++ leBytes 1 b.info ++ leBytes 1 (min 255 b.failcount) ++ leBytes 1 b.stage
    ++ leBytes 4 (min (2 ^ 32 - 1) b.starts) ++ leBytes 8 b.readyNs))

/-- POWERCAP (R422). -/
def execPowercap (watts : Option Nat) (s : State) : Out :=
  .next (match watts with
    | none => s.secAnswer 0 (leBytes 4 s.powerCap)
    | some w =>
      if 1600 ≤ w ∧ w ≤ 2800 ∧ w % 50 = 0 then { s with powerCap := w }.secAnswer 0 (leBytes 4 w)
      else s.secAnswer Cause.reservedField.code [])

/-! ## Starts -/

/-- The machine as it leaves reset, with what is not in it or does not lose its contents: the bad-page list, the record of starts, minimal
mode, other memories, the links, temperatures, the firmware images with the fused rollback counter, and the firmware that bring-up places
(R377, R416, R419 to R421, R424). -/
def State.cold (s : State) : State :=
  { State.reset with
    hostMem := s.hostMem
    peerMem := s.peerMem
    badFrames := s.badFrames
    bringup := s.bringup
    ctrl := { State.reset.ctrl with minimal := s.ctrl.minimal }
    pcieUp := s.pcieUp
    linksUp := s.linksUp
    walkerEntry := s.walkerEntry
    temps := s.temps
    hot := s.hot
    images := s.images
    rollback := s.rollback
    replies := s.replies
    msix := s.msix
    aer := s.aer
    outbox := s.outbox
    agenda := s.agenda
    free := s.free }

/-- The first frame from a given one on that is not on the bad-page list (R377). -/
def State.goodFrame (s : State) (first : Nat) : Nat :=
  ((List.range (s.badFrames.length + 1)).find? (fun i => !s.badFrames.contains ((first + i) % frameCount))).elim first (fun i => (first + i) % frameCount)

/-- The outbound table's run of frames, chosen by the memory-management processor among those that are not on the bad-page list, binary, and
cleared to zero bytes (R377, R410). -/
def State.placeOutbound (s : State) : State :=
  let first := s.goodFrame (Config.pick s.free % frameCount)
  let room := (s.badFrames.filter (fun f => decide (first < f))).foldl min frameCount - first
  let n := Config.pick (s.free + 1) % (room + 1)
  { s with
    outFrame := first
    outFrames := n
    frameModes := (first, n, true, false) :: s.frameModes
    allocated := s.allocated ++ (List.range n).map (fun i => first + i)
    mem := (List.range (59049 * n)).foldl (fun m k => memPut m (frameAddr (first + k / 59049) + k % 59049) 0#8) s.mem
    free := s.free + 2 }

/-- How many values REASONINFO has for a failure of a stage: the images, dies, links, stacks, stacks or dies, and images (R419). -/
def startInfos (stage : Nat) : Nat := [0, 6, 5, 8, 16, 16, 6].getD stage 0

/-- Whether a failure is one of the table of R419: the stage with its reason code and a REASONINFO that the stage has, or a thermal emergency
at any stage, for which the table names no REASONINFO (DESIGN CHOICE, log 74). -/
def startFailOk (f : StartFailure) : Bool :=
  ([(1, 1), (1, 2), (2, 3), (3, 4), (4, 5), (5, 6), (6, 7)].contains (f.stage, f.reason) && decide (f.info < startInfos f.stage)) ||
    (decide (1 ≤ f.stage) && decide (f.stage ≤ 6) && f.reason == 8 && decide (f.info < 256))

/-- What stage 1 finds in the firmware images: the first that fails its signature, or whose version lies below the fused rollback counter
(R416, R419). -/
def imageFailure (rollback : Nat) (images : List Image) : Option StartFailure :=
  (List.range images.length).findSome? (fun i =>
    let m := images.getD i ⟨0, false⟩
    if !m.signed then some ⟨1, 1, i⟩ else if m.version < rollback then some ⟨1, 2, i⟩ else none)

/-- What a start comes to, from what its other stages come to: a thermal emergency where a die is held above 125 °C, at a stage that is free;
a refused image before any later stage (R416, R419, R424). No start of the part comes to a failure that the table does not have, or to a
refusal of images that are good: `none`. -/
def State.startOutcome (s : State) (failure : Option StartFailure) : Option (Option StartFailure) :=
  let bad := imageFailure s.rollback s.images
  match failure with
  | none => some (if s.hot.any (fun e => e.2 == 3) then some ⟨1 + Config.pick s.free % 6, 8, Config.pick (s.free + 1) % 256⟩ else bad)
  | some f =>
    if !startFailOk f || (f.stage == 1 && f.reason != 8 && bad.isNone) then none
    else if f.stage = 1 ∧ f.reason = 8 then some (some f)
    else some (bad.orElse (fun _ => some f))

/-- A start that comes to READY, or to its failed stage (R28, R377, R419, R420, R421). -/
def State.startWith (s : State) (failure : Option StartFailure) : State :=
  let s1 := s.cold
  let b := { s.bringup with starts := s.bringup.starts + 1 }
  match failure with
    | none =>
      let n := Config.pick s.free
      let s2 := { s1 with free := s1.free + 1 }.placeOutbound
      { s2 with
        now := n
        timeBase := 4 * n
        intervalAt := n
        intervalTick := 4 * n / 10000
        bringup := { b with failcount := 0, stage := 7, readyNs := 4 * n / 10 }
        ctrl := { s2.ctrl with ready := true, minimal := false } }
    | some f =>
      { s1 with
        bringup := { b with failcount := b.failcount + 1, reason := f.reason, info := f.info, stage := f.stage }
        ctrl := { s1.ctrl with minimal := s.ctrl.minimal || decide (3 ≤ b.failcount) }
        free := s.free + 2 }

/-- START (R416, R419, R420, R421): a start from power-on or reset to READY, or to its failed stage, with the images that are there; six
images given are those that the part has come to hold (DESIGN CHOICE, log 74). -/
def execStart (failure : Option StartFailure) (s : State) (images : List Image := []) : Out :=
  let s1 : State := if images.length = 6 then { s with images := images } else s
  .next (match s1.startOutcome failure with | some f => s1.startWith f | none => s)

/-- A start that has been requested (R420, R424): what its stages come to is free. -/
def State.startNow (s : State) : State :=
  let n := fun (k : Nat) => Config.pick (s.free + k)
  let stage := 2 + n 1 % 5
  let f : Option StartFailure :=
    if n 0 % 2 = 0 then none
    else if n 0 % 4 = 1 then some ⟨stage, stage + 1, n 2 % startInfos stage⟩
    else some ⟨1 + n 1 % 6, 8, n 2 % 256⟩
  let s1 : State := { s with free := s.free + 3 }
  s1.startWith ((s1.startOutcome f).getD none)

/-- CLEARSTART (R420): the count is 0, and a start is requested; minimal mode ends only as a start reaches its last stage. -/
def execClearstart (s : State) : Out :=
  .next ({ s.cold with bringup := { s.bringup with failcount := 0 }, startDue := true }.secAnswer 0 [])

/-- POWER_FAILURE (R238): memory does not outlive it, and writes in a controller's queue are lost; the part waits for a start. -/
def execPowerFailure (s : State) : Out := .next s.cold

/-! ## Cooling -/

/-- The step of the thermal response at a temperature in tenths of a degree, from the step before (R424). -/
def thermalStep (old temp : Nat) : Nat :=
  if 1250 < temp then 3 else if old = 3 then 3 else if 1150 < temp then 2 else if 1050 < temp then 1 else if 0 < old ∧ 1000 ≤ temp then 1 else 0

/-- The resident launches lost under the 125 °C step (R424): their groups' and contexts' activity is charged as they leave, and their crews'
accounts close with theirs (R399, R401). -/
def State.loseLaunches (s : State) : State :=
  let left : State := { s.groups.foldl (fun (st : State) e => (st.settleGroup e.2).chargeContext e.2) s with groups := [] }
  let crews := left.crews ++ (left.launches.filter (fun l => !l.complete)).flatMap (fun l => l.shares.flatMap (fun sh => sh.savedCrews ++ sh.kept))
  let s0 := (crews.filter (fun c => !c.reserved)).foldl State.closeCrew { left with crews := [] }
  let s1 := (s0.launches.filter (fun l => !l.complete)).foldl (fun (st : State) l => st.finishLaunch l Cause.thermalEmergency.code none false) s0
  let s2 := s1.copyJobs.foldl State.loseCopy s1
  { s2 with stops := [], tcJobs := [], mxJobs := [], arrays := [], ctrl := { s2.ctrl with ready := false } }

/-- THERMAL_SAMPLE (R424): a die's temperature. A part that has cooled below 90 °C after the 125 °C step makes a start, with reason code 8. -/
def execThermalSample (die temp : Nat) (s : State) : Out :=
  .next (
    if 4 < die then s
    else
      let old := mapGet 0 s.hot die
      let step := thermalStep old temp
      let s1 : State := { s with temps := mapInsert die temp s.temps, hot := mapSet 0 s.hot die step }
      let detail := die + 2 ^ 8 * (temp % 2 ^ 16) + 2 ^ 24 * (step - 1)
      let s2 := if old < step ∧ 2 ≤ step then s1.hostEvent Cause.thermalEmergency.code 255 detail else s1
      if step = 3 ∧ old ≠ 3 then s2.loseLaunches
      else if s2.hot.any (fun e => e.2 == 3) && s2.temps.all (fun e => decide (e.2 < 900)) then
        { s2 with
          hot := s2.hot.filter (fun e => e.2 != 3)
          bringup := { s2.bringup with reason := 8, info := Config.pick s2.free % 256 }
          startDue := true
          free := s2.free + 1 }
      else s2)

/-! ## Errors of storage -/

/-- A record of the fault-address queue (R376); a queue that was empty is signalled by MSI-X vector 1 (R403; DESIGN CHOICE, log 98). -/
def State.faqAdd (s : State) (frame tile cause flags : Nat) : State :=
  let c := s.ctrl
  if c.faqrd + 729 ≤ c.faqwr then { s with ctrl := { c with faqdrop := c.faqdrop + 1 } }
  else
    let bs := leBytes 4 frame ++ leBytes 1 tile ++ leBytes 1 cause ++ leBytes 1 (frame % 16) ++ leBytes 1 flags ++ leBytes 8 (s.timeBase / 10)
    { s with
      ctrl := { c with faqwr := c.faqwr + 1, faq := mapInsert (c.faqwr % 729) bs c.faq }
      msix := if c.faqrd = c.faqwr then s.msix ++ [1] else s.msix }

/-- One more trit wrong. -/
def hurt (m : FMap Nat) (k : Nat) : FMap Nat := mapInsert k (mapGet 0 m k + 1) m

/-- A wrong trit of a word of storage whose errors are held in a map: the first is corrected and counted, for the core whose storage it is; with
the second the word is uncorrectable. -/
def State.hurtWord (s : State) (core : Option Nat) (m : FMap Nat) (k : Nat) (put : State → FMap Nat → State) : State :=
  put (if mapGet 0 m k = 0 then s.corrects core else s) (hurt m k)

/-- An error of a register word (R27). -/
def State.hurtReg (s : State) (key k : Nat) : State :=
  match s.group? key with
  | none => s
  | some g => s.hurtWord (some (key / 256)) g.bad k (fun st m => st.modGroup key (fun g => { g with bad := m }))

/-- An error of a word of an L2 slice (R357): a second wrong trit drops a clean tile, which is recovered, and writes a dirty one to DRAM
poisoned. -/
def State.hurtL2 (s : State) (frame tile word : Nat) : State :=
  let c := tileCoord frame tile
  match mapFind c s.l2 with
  | none => s
  | some dirty =>
    let bad := hurt s.badL2 (81 * c + word)
    if mapGet 0 bad (81 * c + word) < 2 then { s.corrects with badL2 := bad }
    else
      let s1 : State := { s with l2 := mapErase c s.l2, badL2 := bad.filter (fun e => e.1 / 81 != c) }
      if dirty && s.records.any (fun r => r.src == unitSrc (homeSlice c / 32)) then s
      else if dirty then ((s1.spoilTile frame tile).faqAdd frame tile Cause.l2Uncorrectable.code 1).emitEventAny Cause.l2Uncorrectable.code 0 (homeSlice c / 32) (unitSrc (homeSlice c / 32))
      else s1.corrects

/-- An error of a word of a core's L1 copy (R27). The spec names no cause for one that cannot be corrected: the copy, which holds nothing that
its home slice does not, is dropped and counts as recovered (DESIGN CHOICE, log 36). -/
def State.hurtL1 (s : State) (core tile word : Nat) : State :=
  match s.l1.find? (fun x => x.core == core && x.tile == tile) with
  | none => s
  | some x =>
    let bad := hurt x.bad word
    let here := fun (y : L1Line) => y.core == core && y.tile == tile
    if mapGet 0 bad word < 2 then { s.corrects (some core) with l1 := updFirst here (fun y => { y with bad := bad }) s.l1 }
    else { s.corrects (some core) with l1 := s.l1.filter (fun y => !here y) }

/-- An error of a word of a mooring entry (R27). The spec names no cause for one that cannot be corrected: the snapshot is poisoned, and its
redeemer meets POISONED_DATA (DESIGN CHOICE, log 36). -/
def State.hurtMoor (s : State) (slice entry word : Nat) : State :=
  match mapFind (moorKey slice entry) s.moor with
  | none => s
  | some m =>
    if m.data.length ≤ word then s
    else
      s.hurtWord none m.bad word (fun st bad => { st with moor := mapInsert (moorKey slice entry) { m with bad := bad, poison := m.poison || decide (2 ≤ mapGet 0 bad word) } st.moor })

/-- An error of a DRAM tile (R168, R376): corrected and counted, or uncorrectable and POISON; which is free. A unit whose last EVENT is held
waits before it meets another uncorrectable error (R381; DESIGN CHOICE, log 102). -/
def State.hurtDram (s0 : State) (frame tile : Nat) : State :=
  let s : State := { s0 with free := s0.free + 1 }
  if Config.pick s0.free % 2 = 0 then
    let n := mapGet 0 s.dramErrors frame + 1
    let s1 : State := { s with dramErrors := mapInsert frame n s.dramErrors }
    if n = 27 then s1.faqAdd frame tile 0 2 else s1
  else
    let die := homeSlice (tileCoord frame tile) / 32
    if s.records.any (fun r => r.src == unitSrc die) then s0 else
    ((s.spoilTile frame tile).faqAdd frame tile Cause.hbmUncorrectable.code 1).emitEventAny Cause.hbmUncorrectable.code 0 die (unitSrc die)

/-- SOFT_ERROR (R27): a trit of a word is corrupted. One wrong trit of an on-chip word is corrected at every read, and counted; a second makes
the word uncorrectable until it is written. -/
def execSoftError (site : ErrorSite) (s : State) : Out :=
  .next (match site with
    | .icache core word =>
      let k := core * 2 ^ 40 + word
      if (mapFind k s.icache).isSome then { (if mapGet 0 s.badIc k % 16 = 0 then s.corrects (some core) else s) with badIc := hurt s.badIc k } else s
    | .vreg core slot reg lane => if 80 ≤ reg ∨ 32 ≤ lane ∨ 256 ≤ slot then s else s.hurtReg (gkey core slot) (32 * reg + lane)
    | .sreg core slot reg => if 80 ≤ reg ∨ 256 ≤ slot then s else s.hurtReg (gkey core slot) (2 ^ 15 + 32 * reg)
    | .preg core slot reg => if 8 ≤ reg ∨ 256 ≤ slot then s else s.hurtReg (gkey core slot) (predBadKey reg)
    | .l1 core tile word => if 256 ≤ core ∨ 81 ≤ word then s else s.hurtL1 core tile word
    | .moor slice entry word => if 128 ≤ slice ∨ 243 ≤ entry then s else s.hurtMoor slice entry word
    | .buffer core path word =>
      if 256 ≤ core ∨ 3 ≤ path ∨ 59049 ≤ word then s else s.hurtWord (some core) s.badBufs (bufKey core path word) (fun st m => { st with badBufs := m })
    | .l2 frame tile word => if frameCount ≤ frame ∨ 243 ≤ tile ∨ 81 ≤ word then s else s.hurtL2 frame tile word
    | .dram frame tile => if frameCount ≤ frame ∨ 243 ≤ tile then s else s.hurtDram frame tile
    | .daymark => if s.badDay = 0 then { s.corrects with badDay := 1 } else { s with badDay := 0 }.daymarkTrap)

end Sys2Proof.Machine
end

