-- ==== Sys2Proof/Machine/Lens.lean ====
section
/-! DEFINITION. The Lantern cores: Lens programs, one operation at a time, and the trace rings (R381 to R386). -/

namespace Sys2Proof.Machine

/-! ## Trace rings -/

/-- The fields of a session's descriptor (R382). -/
def Session.ring (x : Session) : Nat := byteField x.desc 16 8
def Session.ringSize (x : Session) : Nat := byteField x.desc 24 4
def Session.fullStop (x : Session) : Bool := byteField x.desc 0 1 / 2 % 2 == 1
def Session.trigHalt (x : Session) : Bool := byteField x.desc 0 1 / 4 % 2 == 1

/-- Bytes of padding before a record that does not fit before the end of the ring (R383). -/
def Session.pad (x : Session) (len : Nat) : Nat := if x.wrptr + len ≤ x.ringSize then 0 else x.ringSize - x.wrptr

/-- Whether a record would bring WRPTR to within 16 bytes behind RDPTR (R383). -/
def Session.full (x : Session) (len : Nat) : Bool :=
  let used := (x.wrptr + x.ringSize - x.rdptr % x.ringSize) % x.ringSize
  decide (x.ringSize ≤ used + x.pad len + len + 16)

/-- Bytes written to host memory. -/
def State.putHost (s : State) (at_ : Nat) (bs : List (BitVec 8)) : State :=
  { s with hostMem := (List.range bs.length).foldl (fun m i => mapInsert (at_ + i) (bs.getD i 0#8) m) s.hostMem }

/-- A session replaced. -/
def State.setSession (s : State) (n : Nat) (x : Session) : State := { s with sessions := mapInsert n x s.sessions }

/-- A record written whole at WRPTR, padding first where it does not fit before the end (R383). -/
def State.ringWrite (s : State) (n : Nat) (x : Session) (bs : List (BitVec 8)) : State :=
  let p := x.pad bs.length
  let s1 := if p = 0 then s else s.putHost (x.ring + x.wrptr) ([0#8, 0#8] ++ leBytes 2 p ++ zeroBytes (p - 4))
  let at_ := if p = 0 then x.wrptr else 0
  (s1.putHost (x.ring + at_) bs).setSession n { x with wrptr := (at_ + bs.length) % x.ringSize }

/-- The TRACE_BUFFER_FULL record of a session, once its ring has space (R383). -/
def State.flushFull (s : State) (n : Nat) : State :=
  match mapFind n s.sessions with
  | none => s
  | some x =>
    if x.fullPending && !x.full 64 then
      let bs := recHeader s 6 64 0 false none none ++ leBytes 1 Cause.traceBufferFull.code ++ zeroBytes 7 ++ leBytes 8 (Config.pick s.free % 2 ^ 64)
      { s.ringWrite n { x with fullPending := false } bs with free := s.free + 1 }
    else s

/-- Launches that a session observes. -/
def State.observed (s : State) (x : Session) : List Nat := (s.launches.filter (fun l => !l.complete && x.observes s l.id)).map (·.id)

/-- A record kept by a session: written, or dropped by a full ring (R383). -/
def State.keepRecord (s : State) (n : Nat) (r : TraceRec) : State :=
  let s0 := s.flushFull n
  match mapFind n s0.sessions with
  | none => s0
  | some x =>
    if x.ringSize = 0 then s0
    else if x.full r.bytes.length then
      let s1 := s0.setSession n { x with drops := x.drops + 1, fullPending := true }
      if x.fullStop then (s1.observed x).foldl (fun st l => st.ring l .traceBufferFull 0) s1 else s1
    else s0.ringWrite n x r.bytes

/-- RDPTR_WRITE (R383): the host frees ring space, and a pending TRACE_BUFFER_FULL event enters. -/
def execRdptrWrite (session value : Nat) (s : State) : Out :=
  .next (match mapFind session s.sessions with
    | none => s
    | some x => (s.setSession session { x with rdptr := value }).flushFull session)

/-! ## Taking records -/

/-- The next session that a record reaches, and those after it: its program starts with all registers zero (R384). -/
def State.startLens (s : State) (r : TraceRec) : List Nat → State
  | [] => { s with lens := none }
  | n :: t =>
    match mapFind n s.sessions with
    | none => s.startLens r t
    | some x =>
      if x.accepts s r.kind r.launch then
        { s with lens := some { session := n, prog := x.prog, pc := 0, k := List.replicate 8 0#64, record := r, rest := t } }
      else s.startLens r t

/-- TRACE_RECORD_ACCEPT (R380, R383): a Lantern core takes the `k`-th record that waits, if none of its source waits before it, and
runs the programs of the sessions that it reaches. A group that waited for it to go on after a release does so (R381). -/
def execTraceRecordAccept (k : Nat) (s : State) : Out :=
  .next (match s.lens, s.records[k]? with
    | none, some r =>
      if (s.records.take k).any (fun x => x.src == r.src) then s
      else
        let s1 : State := { s with records := dropAt s.records k }
        let s2 := match s1.group? r.src with | some g => if g.resumeDue then s1.resumeGroup r.src else s1 | none => s1
        s2.startLens r (s.sessions.map (fun (e : Nat × Session) => e.1))
    | _, _ => s)

/-! ## Lens programs -/

/-- A Lens register. -/
def LensRun.reg (r : LensRun) (i : Fin 8) : BitVec 64 := r.k.getD i.val 0#64

/-- The registers with one written. -/
def LensRun.set (r : LensRun) (i : Fin 8) (v : BitVec 64) : LensRun :=
  { r with k := setAt (r.k ++ List.replicate (8 - r.k.length) 0#64) i.val v, pc := r.pc + 1 }

/-- An operation that goes on to another (R384). -/
def runLens (s : State) (f : LensRun → LensRun) : Out :=
  match s.lens with
  | none => .fault .noRecord
  | some r => .next { s with lens := some (f r) }

/-- A verdict: what it does, and then the next session that the record reaches (R384). -/
def lensVerdict (s : State) (f : LensRun → State) : Out :=
  match s.lens with
  | none => .fault .noRecord
  | some r => .next ((f r).startLens r.record r.rest)

/-- The bytes of a size code (R385). -/
def lensBytes (size : Fin 8) : Nat := 2 ^ (size.val % 4)

/-- A field of a record (R385): 0 where it runs past LENGTH. -/
def lensField (bs : List (BitVec 8)) (ofs n : Nat) (signed : Bool) : BitVec 64 :=
  if bs.length < ofs + n then 0#64
  else
    let v := byteField bs ofs n
    if signed && decide (2 ^ (8 * n - 1) ≤ v) then BitVec.ofInt 64 ((v : Int) - 2 ^ (8 * n)) else BitVec.ofNat 64 v

/-- LDR. -/
def execLensLdr (d : Fin 8) (ofs : Fin 1024) (signed : Bool) (size : Fin 8) (s : State) : Out :=
  runLens s (fun r => r.set d (lensField r.record.bytes ofs.val (lensBytes size) signed))
/-- LDI. -/
def execLensLdi (d : Fin 8) (imm : BitVec 18) (s : State) : Out := runLens s (fun r => r.set d (imm.signExtend 64))
/-- LDIH. -/
def execLensLdih (d : Fin 8) (imm : BitVec 18) (s : State) : Out := runLens s (fun r => r.set d (r.reg d <<< 18 ||| imm.zeroExtend 64))
/-- LDC. -/
def execLensLdc (d : Fin 8) (imm : BitVec 18) (s : State) : Out :=
  runLens s (fun r => r.set d (match mapFind r.session s.sessions with | some x => x.counters.getD imm.toNat 0#64 | none => 0#64))
/-- ADD. -/
def execLensAdd (d a b : Fin 8) (s : State) : Out := runLens s (fun r => r.set d (r.reg a + r.reg b))
/-- SUB. -/
def execLensSub (d a b : Fin 8) (s : State) : Out := runLens s (fun r => r.set d (r.reg a - r.reg b))
/-- AND. -/
def execLensAnd (d a b : Fin 8) (s : State) : Out := runLens s (fun r => r.set d (r.reg a &&& r.reg b))
/-- OR. -/
def execLensOr (d a b : Fin 8) (s : State) : Out := runLens s (fun r => r.set d (r.reg a ||| r.reg b))
/-- XOR. -/
def execLensXor (d a b : Fin 8) (s : State) : Out := runLens s (fun r => r.set d (r.reg a ^^^ r.reg b))
/-- SHL: by kB mod 64. -/
def execLensShl (d a b : Fin 8) (s : State) : Out := runLens s (fun r => r.set d (r.reg a <<< ((r.reg b).toNat % 64)))
/-- SHR: logical, by kB mod 64. -/
def execLensShr (d a b : Fin 8) (s : State) : Out := runLens s (fun r => r.set d (r.reg a >>> ((r.reg b).toNat % 64)))
/-- ADDI. -/
def execLensAddi (d a : Fin 8) (imm : BitVec 18) (s : State) : Out := runLens s (fun r => r.set d (r.reg a + imm.signExtend 64))
/-- ANDI. -/
def execLensAndi (d a : Fin 8) (imm : BitVec 18) (s : State) : Out := runLens s (fun r => r.set d (r.reg a &&& imm.zeroExtend 64))

/-- A branch (R385): forward past `imm` instructions, or on to the next. -/
def LensRun.branch (r : LensRun) (taken : Bool) (imm : BitVec 18) : LensRun := { r with pc := r.pc + 1 + (if taken then imm.toNat else 0) }

/-- BEQ. -/
def execLensBeq (a b : Fin 8) (imm : BitVec 18) (s : State) : Out := runLens s (fun r => r.branch (r.reg a == r.reg b) imm)
/-- BNE. -/
def execLensBne (a b : Fin 8) (imm : BitVec 18) (s : State) : Out := runLens s (fun r => r.branch (r.reg a != r.reg b) imm)
/-- BLTU. -/
def execLensBltu (a b : Fin 8) (imm : BitVec 18) (s : State) : Out := runLens s (fun r => r.branch ((r.reg a).ult (r.reg b)) imm)
/-- BLT. -/
def execLensBlt (a b : Fin 8) (imm : BitVec 18) (s : State) : Out := runLens s (fun r => r.branch ((r.reg a).slt (r.reg b)) imm)

/-- KEEP. -/
def execLensKeep (s : State) : Out := lensVerdict s (fun r => s.keepRecord r.session r.record)
/-- DROP. -/
def execLensDrop (s : State) : Out := lensVerdict s (fun _ => s)

/-- A counter that gains a value, saturating (R385). -/
def addCounter (c v : BitVec 64) : BitVec 64 := if 2 ^ 64 ≤ c.toNat + v.toNat then BitVec.allOnes 64 else c + v

/-- COUNT. -/
def execLensCount (a : Fin 8) (imm : BitVec 18) (s : State) : Out :=
  lensVerdict s (fun r => match mapFind r.session s.sessions with
    | none => s
    | some x => s.setSession r.session
        { x with counters := setAt (x.counters ++ List.replicate (64 - x.counters.length) 0#64) imm.toNat (addCounter (x.counters.getD imm.toNat 0#64) (r.reg a)) })

/-- TRIG (R385, R386): the record is kept, and with TRIGHALT the fog-bell rings for its launch. -/
def execLensTrig (imm : BitVec 18) (s : State) : Out :=
  lensVerdict s (fun r =>
    let s1 := s.keepRecord r.session r.record
    match mapFind r.session s.sessions with
    | some x => if x.trigHalt then s1.ring r.record.launch .traceTrigger (imm.toNat : Int) else s1
    | none => s1)

/-! ## The loader -/

/-- Whether an instruction is a verdict (R385). -/
def isVerdict (w : BitVec 32) : Bool := decide (17 ≤ lensOp w) && decide (lensOp w ≤ 20)
/-- Whether an instruction is a branch (R385). -/
def isLensBranch (w : BitVec 32) : Bool := decide (13 ≤ lensOp w) && decide (lensOp w ≤ 16)

/-- Whether the loader takes one instruction at its place in a program of `n` (R386). -/
def lensWordOk (n i : Nat) (w : BitVec 32) : Bool :=
  (match decodeLens w with | .ok ins => ins.wellFormed | .error _ => false) &&
  (!isLensBranch w || decide (i + 1 + (lensImm w).toNat ≤ n - 1))

/-- Whether the loader takes a program (R386). -/
def lensProgOk (p : List (BitVec 32)) : Bool :=
  decide (1 ≤ p.length) && decide (p.length ≤ 256) && (List.range p.length).all (fun i => lensWordOk p.length i (p.getD i 0#32)) &&
  isVerdict (p.getD (p.length - 1) 0#32)

/-- The words of a Lens program from its bytes. -/
def lensWords (n : Nat) (bs : List (BitVec 8)) : List (BitVec 32) := (List.range n).map (fun i => BitVec.ofNat 32 (byteField bs (4 * i) 4))

end Sys2Proof.Machine
end

