-- ==== Sys2Proof/Machine/Dump.lean ====
section
/-! DEFINITION. Dumps of a halted launch: its sections and their items (R392 to R394, R435, R437, R444). -/

namespace Sys2Proof.Machine

/-- A section of a dump before its header (R393): kind, core, slot, crew, items, nested faults, the cause of the first, and its
bytes. -/
structure DumpSec where
  kind : Nat
  core : Nat
  slot : Nat
  crew : Nat
  items : Nat
  nested : Nat
  cause : Nat
  body : List (BitVec 8)
deriving DecidableEq, Repr

/-- Bytes of a dump with the nested faults that reading them met (R394). -/
structure DumpRun where
  bytes : List (BitVec 8)
  nested : Nat
deriving DecidableEq, Repr

/-- Bytes that meet no fault. -/
def clean (b : List (BitVec 8)) : DumpRun := ⟨b, 0⟩
/-- Runs one after another. -/
def joinRuns (l : List DumpRun) : DumpRun := ⟨l.flatMap (·.bytes), l.foldl (fun a r => a + r.nested) 0⟩

/-- Bytes read, or those of what cannot be read (R394). -/
def dumpRead (bad : Bool) (b : List (BitVec 8)) : DumpRun := if bad then ⟨List.replicate b.length 0xFF#8, 1⟩ else clean b

/-- A word, or the bytes of an uncorrectable one (R394). -/
def dumpWord (bad : Bool) (w : Word) : DumpRun := dumpRead bad (p5enc w)

/-- The two words of a pair (R435). -/
def pairBytes (a : Addr) : List (BitVec 8) := p5enc (pairLo a) ++ p5enc (pairHi a)

/-- A tile slot of 81 words: DATA, a zero TAG, STATUS and the type tag (R168, R392); 0xFF in every byte of DATA and the rest where
the tile cannot be read. -/
def tileSlot (bad : Bool) (tag : Int) (ws : List Word) : DumpRun :=
  if bad then ⟨List.replicate 448 0xFF#8, 1⟩
  else
    let x := (List.range 81).foldr (fun k a => a * 3 ^ 27 + (ws.getD k wzero).index) 0
    clean (p5enc (Tern.ofIndex 2187 x) ++ zeroBytes 9 ++ [BitVec.ofNat 8 (tag + 4).toNat])

/-! ## Groups -/

/-- The saved state registers in index order (R197, R435). -/
def Group.savedState (g : Group) (role : Int) : List (BitVec 8) :=
  p5enc g.fstat.word ++ p5enc g.cause ++ pairBytes g.epc ++ pairBytes g.eregion ++ p5enc g.ecount ++ pairBytes g.tvec ++
  p5enc (Tern.ofInt 27 (if g.scheck then 1 else 0)) ++ p5enc (Tern.ofInt 27 role) ++ p5enc (Tern.ofInt 27 (g.hdepth : Int)) ++ pairBytes g.epc2

/-- A predicate of 32 lanes in 7 bytes, lane 0 first. -/
def Group.predBytes (g : Group) (r : Nat) : List (BitVec 8) := p5enc (Tern.ofIndex 32 ((List.range 32).foldr (fun l a => a * 3 + (g.preg r l).index) 0))

/-- A scalar register of a group in a dump. -/
def Group.dumpScalar (g : Group) (r : Nat) : DumpRun := dumpWord (uncorrectable g.bad (2 ^ 15 + 32 * r)) (g.sreg r)

/-- The REGISTERS item of a group (R393, R435). -/
def Group.dumpRegisters (g : Group) : DumpRun :=
  joinRuns ((List.range g.nv).flatMap (fun r => (List.range 32).map (fun l => dumpWord (uncorrectable g.bad (32 * r + l)) (g.vreg r l)))
    ++ (List.range g.ns).map (g.dumpScalar) ++ (List.range 8).map (fun r => dumpRead (uncorrectable g.bad (predBadKey r)) (g.predBytes r))
    ++ [clean (g.savedState g.role), clean (p5enc (inflWord g))])

/-- A split's age rank, 0 the youngest (R435). -/
def Group.ageRank (g : Group) (x : Split) : Nat := (g.splits.filter (fun y => decide (x.age < y.age))).length

/-- A list read from its last element on, so that the bottom of a stack comes first. -/
def fromBottom {α : Type} (l : List α) (k : Nat) : Option α := l.reverse[k]?

/-- A split record (R89, R435). -/
def Group.splitBytes (g : Group) (i : Nat) : List (BitVec 8) :=
  match g.split? i with
  | none =>
    leBytes 1 0 ++ leBytes 1 i ++ zeroBytes 6 ++ p5enc azero ++ zeroBytes 1 ++ (List.range 9).flatMap (fun _ => p5enc (Tern.zero 9)) ++ zeroBytes 1
      ++ (List.range 9).flatMap (fun _ => p5enc azero ++ zeroBytes 5) ++ zeroBytes 1 ++ p5enc azero ++ p5enc wzero ++ zeroBytes 7
  | some x =>
    leBytes 1 1 ++ leBytes 1 i ++ leBytes 1 (g.ageRank x) ++ zeroBytes 1 ++ maskBytes x.mask ++ p5enc x.atPc ++ leBytes 1 x.tokens.length
      ++ (List.range 9).flatMap (fun k => p5enc (Tern.ofInt 9 ((fromBottom x.tokens k).getD 0))) ++ leBytes 1 x.falls.length
      ++ (List.range 9).flatMap (fun k => match fromBottom x.falls k with
        | some e => p5enc e.pc ++ maskBytes e.mask ++ leBytes 1 (if e.parked then 1 else 0)
        | none => p5enc azero ++ zeroBytes 5)
      ++ leBytes 1 (if x.region.isSome then 1 else 0) ++ p5enc (x.region.getD azero) ++ p5enc x.ecount ++ zeroBytes 7

/-- A recorded deferred fault (R435). -/
def Deferred.bytes (d : Deferred) : List (BitVec 8) :=
  p5enc d.pc ++ leBytes 1 d.path ++ leBytes 1 d.cause.code ++ leBytes 1 (if d.region.isSome then 1 else 0) ++ p5enc (d.region.getD azero) ++ zeroBytes 7

/-- The SPLITS items of a group: four split records and the deferred-fault block (R435). -/
def Group.dumpSplits (g : Group) : List (BitVec 8) :=
  (List.range 4).flatMap g.splitBytes ++ leBytes 1 g.faults.length ++ zeroBytes 15 ++ g.faults.flatMap Deferred.bytes

/-- The BARRIERS item of a waiting split (R435). -/
def Split.barrierItem (x : Split) : Option (List (BitVec 8)) :=
  let item := fun (kind : Nat) (arg : Int) (a : Addr) (last : List (BitVec 8)) =>
    some (leBytes 1 kind ++ leBytes 1 x.idx ++ signedBytes 2 arg ++ p5enc a ++ zeroBytes 1 ++ last ++ zeroBytes 8)
  match x.wait with
  | .bar n => item 1 (n : Int) azero (zeroBytes 8)
  | .rbar i => item 2 i.val azero (zeroBytes 8)
  | .xbar m _ _ _ => item 3 (m : Int) azero (zeroBytes 8)
  | .bwait _ _ _ _ last => item 4 0 x.waitAt (p5enc last ++ zeroBytes 2)
  | .waitge _ _ _ _ last => item 5 0 x.waitAt (leBytes 8 last)
  | _ => none

/-! ## Crews -/

/-- The words of a tile of a buffer, and whether one of them cannot be read. -/
def State.dumpTile (s : State) (core path tile : Nat) : DumpRun :=
  tileSlot ((List.range 81).any (fun k => uncorrectable s.badBufs (bufKey core path (81 * tile + k)))) (mapGet 0 s.tags (tagKey core path tile))
    ((List.range 81).map (fun k => s.bufWord core path (81 * tile + k)))

/-- The BUFFERS items of a crew: its tiles, its buffer records and its layout slots (R393, R435). -/
def State.dumpBuffers (s : State) (l : Launch) (c : Crew) : DumpRun × Nat :=
  let tiles := [0, 1, 2].flatMap (fun p => (List.range (c.tiles.getD p 0)).map (fun t => s.dumpTile c.core p (c.base.getD p 0 + t)))
  let first := 81 * c.base.getD 0 0 + l.laypos.toNat / 3
  let slots := (List.range l.lcount).map (fun j =>
    joinRuns ((List.range 18).map (fun k => let w := first + 18 * j + k; dumpWord (uncorrectable s.badBufs (bufKey c.core 0 w)) (s.bufWord c.core 0 w))))
  (joinRuns (tiles ++ c.records.map (fun r => clean (r.flatMap p5enc)) ++ slots), tiles.length + c.records.length + l.lcount)

/-- The sections of one crew (R393, R435). -/
def State.crewSecs (s : State) (l : Launch) (c : Crew) : List DumpSec :=
  let gs := (s.groups.map (·.2)).filter (fun g => g.launch == l.id && g.core == c.core && g.crew == c.idx && !g.isSeq && !g.isWalker)
  gs.flatMap (fun g =>
    let r := g.dumpRegisters
    let b := g.splits.filterMap Split.barrierItem
    [⟨1, g.core, g.slot, c.idx, 1, r.nested, Cause.regfileUncorrectable.code, r.bytes⟩, ⟨2, g.core, g.slot, c.idx, 4, 0, 0, g.dumpSplits⟩,
     ⟨4, g.core, g.slot, c.idx, b.length, 0, 0, b.flatten⟩]) ++
  (let b := s.dumpBuffers l c
   [⟨3, c.core, 255, c.idx, b.2, b.1.nested, Cause.bufferUncorrectable.code, b.1.bytes⟩])

/-! ## Tickets, directories and contexts -/

/-- The number of a ticket's state in a dump (R435). -/
def MoorState.code : MoorState → Nat
  | .free => 0
  | .pending => 1
  | .moored => 2
  | .redeeming => 3

/-- The TICKETS section of a launch (R435). -/
def State.ticketSec (s : State) (l : Launch) : DumpSec :=
  let es := s.moor.filter (fun e => e.2.launch == l.id && e.2.state != .free)
  let r := joinRuns (es.map (fun e =>
    let slot := tileSlot e.2.poison 0 e.2.data
    ⟨leBytes 1 (e.1 / 243) ++ leBytes 1 (e.1 % 243) ++ leBytes 1 e.2.state.code ++ leBytes 1 (if e.2.poison then 1 else 0)
      ++ p5enc (Tern.ofInt 27 e.2.gen) ++ leBytes 1 e.2.len ++ zeroBytes 1 ++ leBytes 4 e.2.age ++ slot.bytes, slot.nested⟩))
  ⟨5, 0, 255, 255, es.length, r.nested, Cause.poisonedData.code, r.bytes⟩

/-- The number of a directory entry's state (R444). -/
def DirState.code : DirState → Nat
  | .live => 1
  | .incoming => 2
  | .forwarded => 3

/-- The DIRECTORY section of a launch (R444). -/
def State.dirSec (s : State) (l : Launch) : DumpSec :=
  let es := s.dir.filter (fun e => e.2.launch == l.id)
  let item := fun (e : Nat × DirEntry) =>
    leBytes 1 e.2.state.code ++ leBytes 1 e.2.buf ++ leBytes 2 (e.1 % 243) ++ leBytes 2 e.2.pins
      ++ leBytes 2 (match e.2.peer with | some k => k % 243 | none => 65535) ++ p5enc e.2.tensor ++ p5enc (coordWord e.2.trow e.2.tcol)
      ++ p5enc (Tern.ofInt 27 (e.2.pos : Int)) ++ leBytes 2 e.2.crew ++ leBytes 8 e.2.launch ++ leBytes 2 e.2.domain ++ zeroBytes 10
  ⟨6, 0, 255, 255, es.length, 0, 0, es.flatMap item⟩

/-- The block of an array (R444): none held by the context, or what loaded it. -/
def State.arrayBytes (s : State) (g : Group) (c : CtxState) (rank : Nat) : List (BitVec 8) :=
  let none_ := p5enc wzero ++ p5enc wzero ++ p5enc azero ++ p5enc azero ++ p5enc wzero ++ zeroBytes 8
  if !c.claims.contains rank then none_
  else
    match (s.array (g.rankCore rank)).block with
    | none => none_
    | some b =>
      p5enc (b.desc.words.getD 0 wzero) ++ p5enc (b.desc.words.getD 1 wzero) ++ p5enc b.desc.waddr ++ p5enc (b.desc.saddr.getD azero)
        ++ p5enc b.check ++ leBytes 1 1 ++ zeroBytes 7

/-- The micro-tiles of a queued instruction: those of its rows, or none where it is no `MMA` (R323). -/
def MxJob.micro (j : MxJob) : Nat :=
  match j.op with
  | .mma _ c _ _ _ _ _ => (c.rows + 8) / 9
  | .void => j.units
  | _ => 0

/-- A queued-instruction entry (R444); its mask is what `MSTAT` would read. -/
def MxJob.entryBytes (j : MxJob) : List (BitVec 8) :=
  let done := j.finished j.micro
  p5enc (j.words.getD 0 wzero) ++ p5enc (j.words.getD 1 wzero) ++ p5enc j.pc ++ leBytes 1 (match j.arrays with | c :: _ => rankOf c | [] => 0)
    ++ (List.range 3).flatMap (fun i => p5enc ((j.ops.getD i none).getD azero))
    ++ [0, 1, 2].flatMap (fun i => p5enc (maskWord done (27 * i)))
    ++ leBytes 1 (if j.complete then 2 else if j.done.isEmpty then 0 else 1) ++ leBytes 1 (match j.fault with | some c => c.code | none => 0)
    ++ zeroBytes 19

/-- The CONTEXTS section of a context (R444). -/
def State.contextSec (s : State) (g : Group) (c : CtxState) : DumpSec :=
  let sp := (g.split? g.stopSplit).map Split.atPc
  let jobs := s.mxJobs.filter (fun e => e.2.launch == g.launch && e.2.cluster == clusterOf g.core)
  let r := joinRuns (
    [clean (leBytes 1 (g.slot - 192) ++ leBytes 1 ((c.claims.map (fun r => 2 ^ r)).foldl (· + ·) 0) ++ leBytes 1 c.ksplit ++ zeroBytes 1
      ++ leBytes 2 c.binding ++ leBytes 2 jobs.length ++ p5enc (sp.getD azero) ++ zeroBytes 5 ++ p5enc c.sat ++ p5enc c.ovf ++ p5enc c.flush ++ p5enc c.nan)]
    ++ (List.range g.ns).map (g.dumpScalar)
    ++ (List.range 8).map (fun r => dumpRead (uncorrectable g.bad (predBadKey r)) (p5enc (g.preg r 0)))
    ++ [clean (g.savedState 0 ++ c.records.flatMap (fun r => r.flatMap p5enc)
      ++ [0, 1, 2, 3].flatMap (s.arrayBytes g c) ++ jobs.flatMap (fun e => e.2.entryBytes))])
  ⟨7, g.core, g.slot, 255, 1, r.nested, Cause.regfileUncorrectable.code, r.bytes⟩

/-! ## The dump -/

/-- A section's 32-byte header and its items (R393). -/
def DumpSec.bytes (x : DumpSec) : List (BitVec 8) :=
  leBytes 1 x.kind ++ leBytes 1 (if x.nested = 0 then 0 else 1) ++ zeroBytes 2 ++ leBytes 1 (coreX x.core + 16 * coreY x.core) ++ leBytes 1 x.slot
    ++ zeroBytes 1 ++ leBytes 1 x.crew ++ leBytes 8 (32 + x.body.length) ++ leBytes 4 x.items ++ leBytes 4 x.nested
    ++ leBytes 1 (if x.nested = 0 then 0 else x.cause) ++ zeroBytes 7 ++ x.body

/-- The sections of a launch in their order, those without items left out (R393, R435). -/
def State.dumpSecs (s : State) (l : Launch) : List DumpSec :=
  let cores := (List.range 256).flatMap (fun c => (s.crews.filter (fun k => k.launch == l.id && k.core == c && !k.reserved)))
  let crews := (List.range 256).flatMap (fun c => (List.range l.crewsPer).flatMap (fun i => cores.filter (fun k => k.core == c && k.idx == i)))
  let ctxs := (s.groups.map (·.2)).filterMap (fun g => if g.isSeq && g.launch == l.id then g.ctx.map (fun c => (g, c)) else none)
  (crews.flatMap (s.crewSecs l) ++ [s.ticketSec l, s.dirSec l] ++ ctxs.map (fun e => s.contextSec e.1 e.2)).filter (fun x => x.items != 0)

/-- The sections that a region of `room` bytes holds whole, one after another (R394). -/
def fitSecs (room : Nat) : List DumpSec → List DumpSec
  | [] => []
  | x :: t => if 32 + x.body.length ≤ room then x :: fitSecs (room - (32 + x.body.length)) t else []

/-- A dump of a launch into a region of `size` bytes (R392, R394). -/
def State.dumpBytes (s : State) (l : Launch) (cause size : Nat) : List (BitVec 8) :=
  if size < 64 then []
  else
    let all := s.dumpSecs l
    let secs := fitSecs (size - 64) all
    let body := secs.flatMap DumpSec.bytes
    let nested := secs.foldl (fun a x => a + x.nested) 0
    let cut := decide (secs.length < all.length)
    [0x45#8, 0x4D#8, 0x44#8, 0x50#8] ++ leBytes 2 1 ++ leBytes 2 secs.length ++ leBytes 8 l.id ++ leBytes 8 s.now ++ leBytes 8 (64 + body.length)
      ++ leBytes 1 ((if cut then 2 else 1) + (if nested = 0 then 0 else 4)) ++ leBytes 1 cause ++ leBytes 2 (min nested 65535) ++ leBytes 2 l.domain
      ++ zeroBytes 26 ++ body

/-- A dump written to host memory (R392). -/
def State.writeDump (s : State) (l : Launch) (cause at_ size : Nat) : State := s.putHost at_ (s.dumpBytes l cause size)

end Sys2Proof.Machine
end

