-- ==== Sys2Proof/Machine/Fetch.lean ====
section
/-! DEFINITION. Fetching an instruction: translation and checks of the PC, the instruction caches, the two words of format L
(R55, R59, R168, R221). -/

namespace Sys2Proof.Machine

/-- What a fetch comes to. -/
inductive Fetched (α : Type) where
  | ok (x : α) (s : State)
  | wait (s : State)
  | fail (c : Cause)

/-- What an instruction fetch asks of its address: no buffer admits it (R174). -/
def fetchReq : Req := { write := false, atomic := false, aligned := wordAligned, users := fun _ _ => false, access := 1 }

/-- The unit that fetches for a group: its core, or 256 + its cluster for a context (R221). -/
def Group.fetchUnit (g : Group) : Nat := if g.isSeq then 256 + clusterOf g.core else g.core

/-- The key of an instruction word in a unit's instruction cache, if its place is cached: a frame's word by its number. -/
def icKey (unit_ : Nat) : List Loc → Option Nat
  | .packed f pos :: _ => some (unit_ * 2 ^ 40 + f * 19683 + pos / 3)
  | .binary f pos :: _ => some (unit_ * 2 ^ 40 + 2 ^ 39 + f * 19683 + pos / 3)
  | _ => none

/-- The word at three places, or the fault of its bytes (R54, R168). -/
def State.codeWord (s : State) (locs : List Loc) : Except Cause Word :=
  if locs.any (fun l => s.locPoisoned l) then .error .poisonedData
  else match s.readLocs locs with | .ok ts => .ok (wordOfTrytes ts) | .error c => .error c

/-- One instruction word fetched: a word that the instruction cache holds and that memory no longer does may be taken from
either, until an `ICINV` (R221). -/
def State.fetchWord (s : State) (g : Group) (split : Nat) (pc : Addr) : Fetched Word :=
  let ag := g.agent split
  match laneCheck s ag fetchReq false [pc] with
  | .fail c => .fail c
  | .wait s1 => .wait s1
  | .ok ps =>
    match placeLocs [-1, 0, 1] ps with
    | none => .wait s
    | some locs =>
      let s1 := s.tlbCopy ag pc
      match icKey g.fetchUnit locs with
      | none => match s.codeWord locs with | .ok w => .ok w s1 | .error c => .fail c
      | some k =>
        if (mapFind k s.icache).isSome && decide (2 ≤ mapGet 0 s.badIc k % 16) then
          (if 16 ≤ mapGet 0 s.badIc k then .fail .icacheUncorrectable
           else .wait ({ s1 with icache := mapErase k s1.icache, badIc := mapInsert k 16 s1.badIc }.corrects (some g.fetchUnit)))
        else
        match mapFind k s.icache with
        | none => match s.codeWord locs with | .ok w => .ok w { s1 with icache := mapInsert k w s1.icache } | .error c => .fail c
        | some old =>
          match s.codeWord locs with
          | .error _ => .ok old s1
          | .ok w =>
            if w = old then .ok w s1
            else if Config.pick s.free % 2 = 1 then .ok old { s1 with free := s.free + 1 }
            else .ok w { s1 with icache := mapInsert k w s1.icache, free := s.free + 1 }

/-- The instruction at a split's PC: its first word, and for format L the word after it; a fault of either names the first
(R55). -/
def State.fetchInstr (s : State) (g : Group) (sp : Split) : Fetched Instr :=
  match s.fetchWord g sp.idx sp.pc with
  | .fail c => .fail c
  | .wait s1 => .wait s1
  | .ok w s1 =>
    if !isLong w then .ok (decodeWords w wzero) s1
    else
      match s1.fetchWord g sp.idx (pcAdd sp.pc 1) with
      | .fail c => .fail c
      | .wait s2 => .wait s2
      | .ok e s2 => .ok (decodeWords w e) s2

end Sys2Proof.Machine
end

