-- ==== Sys2Proof/Machine/Observe.lean ====
section
/-! DEFINITION. What the cores report and stop for of themselves: PC samples (R395, R396), lane-cycle accounting (R397, R398), and
debug stops (R388, R391). -/

namespace Sys2Proof.Machine

/-! ## PC samples -/

/-- The fields of a session's descriptor that set its sampling and its lane accounting (R382). -/
def Session.sampleP (x : Session) : Nat := byteField x.desc 28 4
def Session.laneInt (x : Session) : Nat := byteField x.desc 32 2
def Session.select (x : Session) : Nat := byteField x.desc 4 8
def Session.binBase (x : Session) : Option Addr := p5dec 54 ((x.desc.drop 34).take 11)
def Session.binSize (x : Session) : Nat := byteField x.desc 48 4

/-- The enabled session that samples, and the one that accounts for lanes: R382 admits one of each. -/
def State.sampling (s : State) : Option Session := (s.sessions.find? (fun e => e.2.enabled && e.2.sampleP != 0)).map (·.2)
def State.laneSession (s : State) : Option Session := (s.sessions.find? (fun e => e.2.enabled && e.2.laneInt != 0)).map (·.2)

/-- The oldest live split of a group (R99, R395). -/
def oldestSplit : List Split → Option Split
  | [] => none
  | x :: t =>
    match oldestSplit t with
    | none => some x
    | some y => if x.age ≤ y.age then some x else some y

/-- Whether a split is at an instruction that it has still to issue. -/
def Split.toIssue (x : Split) : Bool := x.wait == .none || x.wait == .blocked || x.wait == .stalled || x.wait == .full

/-- Whether a split may try to issue in this cycle as far as its group, its spacing and its waits go (R71, R97, R98, R388). Splits created in
a handler run; those live at the trap are held. -/
def Split.mayIssue (x : Split) (g : Group) (now : Nat) : Bool :=
  g.status == .running && !g.parked && x.toIssue && decide (x.nextAt ≤ now) && !g.holds x.idx && (g.stepping.isNone || (g.stepping == some x.idx && !g.stepIssued))

/-- A sample's state with the PC it shows, for a split that has not issued (R395). -/
def State.splitState (s : State) (g : Group) (x : Split) : Nat × Addr :=
  if x.toIssue then
    match s.fetchInstr g x with
    | .wait _ => (5, x.pc)
    | _ =>
      if x.mayIssue g s.now && x.wait == .none then (4, x.pc)
      else if decide (s.now < x.nextAt) || x.wait == .stalled then (6, x.pc)
      else (7, x.pc)
  else
    match x.wait with
    | .join _ => (8, x.atPc)
    | .bar _ => (8, x.atPc)
    | .rbar _ => (8, x.atPc)
    | .xbar _ _ _ _ => (8, x.atPc)
    | .bwait _ _ _ _ _ => (8, x.atPc)
    | .waitge _ _ _ _ _ => (8, x.atPc)
    | .swait _ _ _ _ _ => (8, x.atPc)
    | .sleep _ => (9, x.atPc)
    | _ => (7, x.pc)

/-- What a sample of a slot shows: its state, launch, and split, mask and PC where it names a group (R395). -/
structure Shown where
  state : Nat
  launch : Nat
  at_ : Option (Nat × BitVec 32 × Addr)

/-- A slot outside the selection, or the walker's. -/
def Shown.other : Shown := ⟨11, 0, none⟩

/-- A sample of a group (R395). -/
def State.showGroup (s : State) (g : Group) : Shown :=
  let issued := s.issued.find? (fun x => x.key == g.key)
  let named := match issued with
    | some i => (g.split? i.split).orElse (fun _ => oldestSplit g.splits)
    | none => oldestSplit g.splits
  match named with
  | none => Shown.other
  | some x =>
    if g.status != .running || g.parked then ⟨1, g.launch, some (x.idx, x.mask, x.atPc)⟩
    else if g.holds x.idx then ⟨2, g.launch, some (x.idx, x.mask, x.atPc)⟩
    else
      match issued with
      | some i => ⟨3, g.launch, some (i.split, i.mask, i.pc)⟩
      | none => let r := s.splitState g x; ⟨r.1, g.launch, some (x.idx, if r.1 = 8 ∨ r.1 = 9 then x.lastAct else x.mask, r.2)⟩

/-- A sample of a core's slot for a session (R395). -/
def State.showSlot (s : State) (x : Session) (core slot : Nat) : Shown :=
  match s.group? (gkey core slot) with
  | some g => if g.isWalker || !x.observes s g.launch then Shown.other else s.showGroup g
  | none =>
    match mapFind (gkey core slot) s.exited with
    | some (l, pc) => if x.observes s l then ⟨10, l, some (0, 0#32, pc)⟩ else Shown.other
    | none => ⟨0, 0, none⟩

/-- The SAMPLE record of a core's slot (R379). -/
def State.sampleRecord (s : State) (core slot overruns : Nat) (w : Shown) : List (BitVec 8) :=
  recHeader s 3 64 w.launch (decide (0 < overruns)) (w.at_.map (fun a => (core, slot, a.1, a.2.1))) (w.at_.map (·.2.2))
    ++ leBytes 1 w.state ++ leBytes 1 (min 255 overruns) ++ zeroBytes 14

/-- PC_SAMPLE (R395, R396): a core's sample of its next slot; one that finds the register full, or an EVENT of the sampler's held, is dropped
and counted (R381). -/
def execPcSample (core : Nat) (s : State) : Host.Outcome State Fault Refusal :=
  .next (match s.sampling with
    | none => s
    | some x =>
      let m := mapGet ⟨0, 0, 0⟩ s.samplers core
      if 256 ≤ core ∨ x.sampleP = 0 ∨ s.now % x.sampleP ≠ 0 ∨ s.now < m.at_ then s
      else
        let next := { m with next := (m.next + 1) % 192, at_ := s.now + 1 }
        if s.records.any (fun r => r.src == samplerSrc core) then
          { s with samplers := mapInsert core { next with overruns := m.overruns + 1 } s.samplers }
        else
          let w := s.showSlot x core m.next
          let s1 := { s with samplers := mapInsert core { next with overruns := 0 } s.samplers }
          let s2 := s1.emit 3 w.launch (dieOf core) (samplerSrc core) (s1.sampleRecord core m.next m.overruns w)
          if m.overruns = 0 then s2 else s2.emitEvent Cause.sampleOverrun.code x.select m.overruns (dieOf core) (samplerSrc core))

/-! ## Lane-cycle accounting -/

/-- The bin of an issued PC (R398). -/
def Session.bin (x : Session) (pc : Addr) : Nat :=
  match x.binBase with
  | none => 0
  | some b =>
    if x.binSize = 0 ∨ pc.val < b.val then 0
    else
      let n := ((pc.val - b.val) / (x.binSize : Int)).toNat + 1
      if n ≤ 80 then n else 0

/-- Five counts added to five. -/
def addCounts (a b : List Nat) : List Nat := (List.range 5).map (fun i => a.getD i 0 + b.getD i 0)

/-- Counts added to a bin. -/
def addBin (m : FMap (List Nat)) (b : Nat) (c : List Nat) : FMap (List Nat) := mapInsert b (addCounts (mapGet [] m b) c) m

/-- What one issue slot of a core did in this cycle: its bin, and ACTIVE, DIVERGED, PREDOFF, ABSENT, IDLE (R397). -/
def State.slotCounts (s : State) (x : Session) (slot : Nat) : Nat × List Nat :=
  match (s.issued ++ s.carry).find? (fun i => i.slot == slot) with
  | some i =>
    if i.counts && x.observes s i.launch then (x.bin i.pc, [i.active, i.diverged, i.predoff, i.absent, 0]) else (0, [0, 0, 0, 0, 32])
  | none => (0, [0, 0, 0, 0, 32])

/-- A cycle added to a core's accumulator (R397, R398). -/
def State.countLanes (s : State) (x : Session) (core : Nat) (a : LaneSum) : LaneSum :=
  { cycles := a.cycles + 1
    bins := (List.range 4).foldl (fun m k => let c := s.slotCounts x (4 * core + k); addBin m c.1 c.2) a.bins }

/-- The accumulators of every core after a cycle, while a session accounts for lanes. -/
def State.tickLanes (s : State) : FMap LaneSum :=
  match s.laneSession with
  | none => []
  | some x => (List.range 256).map (fun c => (c, s.countLanes x c (mapGet ⟨0, []⟩ s.lanes c)))

/-- The LANES record of a bin (R379, R398). -/
def State.lanesRecord (s : State) (launch bin cycles : Nat) (c : List Nat) : List (BitVec 8) :=
  recHeader s 4 96 launch false none none ++ leBytes 1 bin ++ zeroBytes 3 ++ leBytes 4 cycles ++ (List.range 5).flatMap (fun i => leBytes 8 (c.getD i 0))

/-- A pending LANES record with later counts and cycles merged into it (R381, R398). -/
def State.mergeLanes (s : State) (r : TraceRec) (cycles : Nat) (bins : FMap (List Nat)) : TraceRec :=
  let bin := byteField r.bytes 48 1
  let old := (List.range 5).map (fun i => byteField r.bytes (56 + 8 * i) 8)
  { r with bytes := s.lanesRecord r.launch bin (byteField r.bytes 52 4 + cycles) (addCounts old (mapGet [] bins bin)) }

/-- LANE_INTERVAL_END (R398): a record for each bin with a count; records that still wait take the new counts. -/
def execLaneIntervalEnd (core : Nat) (s : State) : Host.Outcome State Fault Refusal :=
  .next (match s.laneSession, mapFind core s.lanes with
    | some x, some a =>
      if a.cycles < x.laneInt * 2500 then s
      else
        let mine := fun (r : TraceRec) => r.src == lanesSrc core
        let pending := s.records.filter mine
        let cyc := match pending with | [] => a.cycles | r :: _ => byteField r.bytes 52 4 + a.cycles
        let s1 := { s with
          records := s.records.map (fun r => if mine r then s.mergeLanes r a.cycles a.bins else r)
          lanes := mapInsert core ⟨0, []⟩ s.lanes }
        let fresh := a.bins.filter (fun e => e.2.any (· != 0) && !pending.any (fun r => byteField r.bytes 48 1 == e.1))
        fresh.foldl (fun st e => st.emit 4 x.select (dieOf core) (lanesSrc core) (st.lanesRecord x.select e.1 cyc e.2)) s1
    | _, _ => s)

/-! ## Debug stops -/

/-- Whether a split's next instruction lies at an enabled PC break at which it has still to stop (R388). -/
def State.breakHit (s : State) (g : Group) (x : Split) : Bool :=
  !x.passBreak && (match s.launch? g.launch with | some l => l.dbg.breaks.any (fun b => b.2 && b.1 == x.pc) | none => false)

/-- PC_BREAK_STOP (R388, R391). -/
def execPcBreakStop (core slot split : Nat) (s : State) : Host.Outcome State Fault Refusal :=
  let key := gkey core slot
  .next (match s.group? key with
    | none => s
    | some g =>
      match g.split? split with
      | none => s
      | some x =>
        if x.mayIssue g s.now && s.breakHit g x then
          (s.modSplit key split (fun x => { x with passBreak := true, wait := .none })).takeTrap key split { cause := .pcBreak, epc := x.pc }
        else s)

/-- WATCHPOINT_STOP (R388, R391): the access has returned. -/
def execWatchpointStop (core slot split : Nat) (s : State) : Host.Outcome State Fault Refusal :=
  let key := gkey core slot
  .next (match s.waiter core slot split with
    | some (_, x) =>
      match x.wait with
      | .watched i =>
        (s.modSplit key split (fun x => { x with wait := .none })).takeTrap key split { cause := .watchpoint, info := (i : Int), epc := x.pc }
      | _ => s
    | none => s)

/-- Whether the instruction that a stepped split has issued is complete (R388). -/
def Group.stepDone (g : Group) (i : Nat) : Bool :=
  g.stepIssued && g.infl.all (fun a => a.split != i) && g.longs.all (fun r => r.split != i) &&
  (match g.split? i with | some x => x.toIssue | none => true)

/-- SINGLE_STEP_STOP (R388). -/
def execSingleStepStop (core slot : Nat) (s : State) : Host.Outcome State Fault Refusal :=
  let key := gkey core slot
  .next (match s.group? key with
    | none => s
    | some g =>
      match g.stepping with
      | none => s
      | some i =>
        if g.status != .running || !g.stepDone i then s
        else
          let j := if (g.split? i).isSome then i else g.stopSplit
          match g.split? j with
          | none => s
          | some x => (s.setGroup key { g with stepping := none, stepIssued := false }).takeTrap key j { cause := .singleStep, epc := x.pc })

end Sys2Proof.Machine
end

