-- ==== Sys2Proof/Machine/Debug.lean ====
section
/-! DEFINITION. The debug interface (R382, R386 to R391, R415, R418). -/

namespace Sys2Proof.Machine

/-! ## Permission and status -/

/-- Whether a loaded key slot forbids debug requests for a domain (R415). -/
def State.debugDenied (s : State) (domain : Nat) : Bool := s.keys.any (fun e => e.2.domain == domain && !e.2.debug)

/-- The launch that a command names, if it is resident and may be debugged (R418). -/
def State.debugLaunch (s : State) (launch : Nat) : Option Launch :=
  match s.launch? launch with
  | some l => if l.complete || s.debugDenied l.domain then none else some l
  | none => none

/-- A command answered: its code, launch and status in DBGMBOX, and what it returns (R418). -/
def State.dbgAnswer (s : State) (cmd launch status : Nat) (bs : List (BitVec 8)) : State :=
  { s with
    ctrl := { s.ctrl with dbgBox := putBox (putBox s.ctrl.dbgBox 0 (leBytes 2 cmd ++ leBytes 1 status)) 8 (leBytes 8 launch) }
    replies := s.replies ++ [⟨1000, leBytes 1 status ++ bs⟩] }

/-- A command refused with a cause; nothing else changes. -/
def State.dbgRefuse (s : State) (cmd launch : Nat) (c : Cause) : State := s.dbgAnswer cmd launch c.code []

/-- A command on a launch (R418): refused where the launch may not be debugged, and, for a command that needs it, where the
launch is not halted; otherwise its effect and what it returns, or the cause of its refusal. -/
def State.dbgCommand (s : State) (cmd launch : Nat) (halted : Bool) (f : Launch → Except Cause (State × List (BitVec 8))) : State :=
  match s.debugLaunch launch with
  | none => s.dbgRefuse cmd launch .debugAccessDenied
  | some l =>
    if halted && l.halted.isNone then s.dbgRefuse cmd launch .reservedField
    else
      match f l with
      | .error c => s.dbgRefuse cmd launch c
      | .ok (s1, bs) => s1.dbgAnswer cmd launch 0 bs

/-! ## Halting and going on -/

/-- DBG_HALT (R389, R418, R434). -/
def execDbgHalt (launch : Nat) (s : State) : Out := .next (s.dbgCommand 1 launch false (fun _ => .ok (s.ring launch .haltRequest 0, [])))

/-- A group that is told to go on, with no split stepped (R388, R390). -/
def State.resume (s : State) (key : Nat) : State :=
  (s.modGroup key (fun g => if g.status == .running || !g.resumable then g else { g with stepping := none, stepIssued := false })).resumeGroup key

/-- A halted launch released: every group of it that can goes on, and what was frozen counts on from here (R217, R366, R390). -/
def State.release (s0 : State) (l : Launch) : State :=
  let s := (s0.launchKeys l.id).foldl State.resume s0
  { s with
    crews := s.crews.map (fun (c : Crew) => if c.launch == l.id then { c with lastEnd := c.lastEnd.map (fun t => t + (s.now - l.haltedAt)) } else c)
  }.modLaunch l.id (fun l => { l with halted := none })

/-- DBG_RELEASE (R390). -/
def execDbgRelease (launch : Nat) (s : State) : Out := .next (s.dbgCommand 2 launch true (fun l => .ok (s.release l, [])))

/-- DBG_END (R390): the abort carries the cause of the first ring. -/
def execDbgEnd (launch : Nat) (s : State) : Out :=
  .next (s.dbgCommand 3 launch true (fun l => .ok (s.startAbort launch ⟨l.halted.getD .haltRequest, none⟩, [])))

/-- DBG_STEP (R388): the named split of a stopped group issues one instruction, or finishes the one at which it waits. -/
def execDbgStep (launch core slot split : Nat) (s : State) : Out :=
  .next (s.dbgCommand 4 launch true (fun l =>
    match s.group? (gkey core slot) with
    | none => .error .reservedField
    | some g =>
      match g.split? split with
      | none => .error .reservedField
      | some x =>
        if 256 ≤ slot ∨ g.launch ≠ l.id ∨ g.isWalker ∨ g.status = .running ∨ g.resumable = false ∨ g.holds split then
          .error .reservedField
        else .ok ((s.setGroup (gkey core slot) { g with stepping := some split, stepIssued := !x.toIssue }).resumeGroup (gkey core slot), [])))

/-! ## Reading state -/

/-- Whether the accepted jobs of a launch have drained: `TCOPY`, `REDEEMB`, `MIGRATE` and COPY jobs (R390). -/
def State.jobsDrained (s : State) (l : Launch) : Bool :=
  !s.tcJobs.any (fun e => e.2.launch == l.id) && !s.copyJobs.any (fun j => match j.crew with | some (k, _) => k == l.id | none => false) &&
  (s.crews.filter (fun c => c.launch == l.id)).all (fun c => !s.deliveringInto c)

/-- DBG_DUMP (R392): a command on a launch whose accepted jobs have not drained waits for them. -/
def execDbgDump (launch hostAddr size : Nat) (s : State) : Out :=
  let d := (launch, hostAddr, size)
  let s1 : State := { s with dumps := s.dumps.filter (fun x => x != d) }
  .next (match s.debugLaunch launch with
    | some l =>
      if l.halted.isSome && !s.jobsDrained l then { s1 with dumps := s1.dumps ++ [d] }
      else s1.dbgCommand 5 launch true (fun l => .ok (s1.writeDump l (match l.halted with | some c => c.code | none => 0) hostAddr size, []))
    | none => s1.dbgCommand 5 launch true (fun _ => .ok (s1, [])))

/-- The first dump command that need wait no longer. -/
def State.dumpDue (s : State) : Option (Nat × Nat × Nat) :=
  s.dumps.find? (fun d => match s.debugLaunch d.1 with | some l => l.halted.isNone || s.jobsDrained l | none => true)

/-- DBG_READST (R393, R418): kind 1 the registers of a group or the state of a context, kind 3 the buffers of a group's crew. -/
def execDbgReadst (launch core slot kind : Nat) (s : State) : Out :=
  .next (s.dbgCommand 8 launch true (fun l =>
    match s.group? (gkey core slot) with
    | none => .error .reservedField
    | some g =>
      if 256 ≤ slot ∨ g.launch ≠ l.id ∨ g.isWalker then .error .reservedField
      else
        match kind, g.ctx, s.crew? l.id core g.crew with
        | 1, some c, _ => .ok (s, (s.contextSec g c).body)
        | 1, none, _ => .ok (s, g.dumpRegisters.bytes)
        | 3, none, some c => .ok (s, (s.dumpBuffers l c).1.bytes)
        | _, _, _ => .error .reservedField))

/-! ## Debug sets and sessions -/

/-- Whether a debug set is one of R387: four breaks and four watchpoints of 1 to 3^26 trytes. -/
def debugSetOk (d : DebugSet) : Bool :=
  d.breaks.length == 4 && d.watches.length == 4 && d.watches.all (fun w => decide (1 ≤ w.extent) && decide (w.extent ≤ 3 ^ 26))

/-- DBG_DEBUGSET (R387). -/
def execDbgDebugset (launch : Nat) (set : DebugSet) (s : State) : Out :=
  .next (s.dbgCommand 6 launch false (fun _ =>
    if debugSetOk set then .ok (s.modLaunch launch (fun l => { l with dbg := set }), []) else .error .reservedField))

/-- Whether every byte of a range of a descriptor is zero. -/
def zeroField (d : List (BitVec 8)) (at_ n : Nat) : Bool := ((d.drop at_).take n).all (fun b => b == 0#8)

/-- Whether a descriptor and its program may be enabled (R382, R386). -/
def descOk (d : List (BitVec 8)) (words : List (BitVec 32)) : Bool :=
  let sp := byteField d 28 4
  let bin := byteField d 48 4
  decide (byteField d 0 1 < 8) && decide (byteField d 1 1 < 128) && zeroField d 14 2 && zeroField d 45 3 && zeroField d 52 12 &&
  (sp == 0 || decide (243 ≤ sp)) && (byteField d 32 2 == 0 || (decide (3 ≤ bin) && bin % 3 == 0)) && lensProgOk words

/-- A session before anything has set it up (R382). -/
def Session.fresh : Session := { desc := zeroBytes 64, prog := [], wrptr := 0, rdptr := 0, drops := 0, counters := [], fullPending := false }

/-- Whether another enabled session samples, or accounts for lanes, as this descriptor would (R382). -/
def State.sessionClash (s : State) (n : Nat) (d : List (BitVec 8)) : Bool :=
  s.sessions.any (fun e => e.1 != n && e.2.enabled && ((byteField d 28 4 != 0 && e.2.sampleP != 0) || (byteField d 32 2 != 0 && e.2.laneInt != 0)))

/-- Whether a SESSION command names only what its requester may debug (R382, R415, R418): its launch is a resident launch, SELECT is no launch
that may not be debugged (a launch still to come may be named), and no key slot forbids the domain. -/
def State.sessionAllowed (s : State) (launch : Nat) (d : List (BitVec 8)) : Bool :=
  (s.debugLaunch launch).isSome && (match s.launch? (byteField d 4 8) with | some l => l.complete || !s.debugDenied l.domain | none => true) &&
  !s.debugDenied (byteField d 12 2)

/-- A descriptor written; enabling it loads its program and clears its counters (R382). -/
def State.loadSession (s : State) (n : Nat) (d : List (BitVec 8)) (words : List (BitVec 32)) (on : Bool) : State :=
  let x := mapGet Session.fresh s.sessions n
  let s1 := s.setSession n { x with desc := d, prog := if on then words else x.prog, counters := if on then List.replicate 64 0#64 else x.counters }
  { s1 with
    samplers := if on && byteField d 28 4 != 0 then [] else s1.samplers
    lanes := if on && byteField d 32 2 != 0 then [] else s1.lanes }

/-- DBG_SESSION (R382, R386, R418). -/
def execDbgSession (launch session : Nat) (desc prog : List (BitVec 8)) (s : State) : Out :=
  let d := (desc ++ zeroBytes 64).take 64
  let n := byteField d 2 2
  let words := if 1 ≤ n ∧ n ≤ 256 then lensWords n prog else []
  .next (
    if 8 < session then s.dbgRefuse 7 launch .reservedField
    else if !s.sessionAllowed launch d then s.dbgRefuse 7 launch .debugAccessDenied
    else if byteField d 0 1 % 2 = 0 then (s.loadSession session d words false).dbgAnswer 7 launch 0 []
    else if s.sessionClash session d then s.dbgRefuse 7 launch .debugAccessDenied
    else if descOk d words then (s.loadSession session d words true).dbgAnswer 7 launch 0 []
    else
      (s.loadSession session (leBytes 1 (byteField d 0 1 - 1) ++ d.drop 1) words false).dbgAnswer 7 launch Cause.lensProgramInvalid.code [])

end Sys2Proof.Machine
end

