-- ==== Sys2Proof/Machine/Dispatch.lean ====
section
/-! DEFINITION. One arm for each constructor of `Instr`. -/

namespace Sys2Proof.Machine

/-- The meaning of an instruction or event in a state. -/
def exec (i : Instr) (s : State) : Host.Outcome State Fault Refusal :=
  match i with
  | .nop f => Sys2Proof.Machine.execNop f s
  | .jmp f => Sys2Proof.Machine.execJmp f s
  | .br f => Sys2Proof.Machine.execBr f s
  | .brall f => Sys2Proof.Machine.execBrall f s
  | .brany f => Sys2Proof.Machine.execBrany f s
  | .jmpr f => Sys2Proof.Machine.execJmpr f s
  | .call f => Sys2Proof.Machine.execCall f s
  | .callr f => Sys2Proof.Machine.execCallr f s
  | .ret f => Sys2Proof.Machine.execRet f s
  | .join f => Sys2Proof.Machine.execJoin f s
  | .joinArm f => Sys2Proof.Machine.execJoinArm f s
  | .loop f => Sys2Proof.Machine.execLoop f s
  | .exit f => Sys2Proof.Machine.execExit f s
  | .yield f => Sys2Proof.Machine.execYield f s
  | .role f => Sys2Proof.Machine.execRole f s
  | .regionOpen f => Sys2Proof.Machine.execRegionOpen f s
  | .regionClose f => Sys2Proof.Machine.execRegionClose f s
  | .bkpt f => Sys2Proof.Machine.execBkpt f s
  | .add f => Sys2Proof.Machine.execAdd f s
  | .sub f => Sys2Proof.Machine.execSub f s
  | .neg f => Sys2Proof.Machine.execNeg f s
  | .abs f => Sys2Proof.Machine.execAbs f s
  | .sgn f => Sys2Proof.Machine.execSgn f s
  | .mul f => Sys2Proof.Machine.execMul f s
  | .mulh f => Sys2Proof.Machine.execMulh f s
  | .mad f => Sys2Proof.Machine.execMad f s
  | .div f => Sys2Proof.Machine.execDiv f s
  | .rem f => Sys2Proof.Machine.execRem f s
  | .min f => Sys2Proof.Machine.execMin f s
  | .max f => Sys2Proof.Machine.execMax f s
  | .cmp f => Sys2Proof.Machine.execCmp f s
  | .sel f => Sys2Proof.Machine.execSel f s
  | .tadd f => Sys2Proof.Machine.execTadd f s
  | .tmul f => Sys2Proof.Machine.execTmul f s
  | .tmin f => Sys2Proof.Machine.execTmin f s
  | .tmax f => Sys2Proof.Machine.execTmax f s
  | .shl f => Sys2Proof.Machine.execShl f s
  | .shr f => Sys2Proof.Machine.execShr f s
  | .rot f => Sys2Proof.Machine.execRot f s
  | .tcnt f => Sys2Proof.Machine.execTcnt f s
  | .tbal f => Sys2Proof.Machine.execTbal f s
  | .lead f => Sys2Proof.Machine.execLead f s
  | .mov f => Sys2Proof.Machine.execMov f s
  | .shuf f => Sys2Proof.Machine.execShuf f s
  | .bcast f => Sys2Proof.Machine.execBcast f s
  | .vote f => Sys2Proof.Machine.execVote f s
  | .rsum f => Sys2Proof.Machine.execRsum f s
  | .rmin f => Sys2Proof.Machine.execRmin f s
  | .rmax f => Sys2Proof.Machine.execRmax f s
  | .scan f => Sys2Proof.Machine.execScan f s
  | .addi f => Sys2Proof.Machine.execAddi f s
  | .muli f => Sys2Proof.Machine.execMuli f s
  | .mini f => Sys2Proof.Machine.execMini f s
  | .maxi f => Sys2Proof.Machine.execMaxi f s
  | .cmpi f => Sys2Proof.Machine.execCmpi f s
  | .shli f => Sys2Proof.Machine.execShli f s
  | .shri f => Sys2Proof.Machine.execShri f s
  | .roti f => Sys2Proof.Machine.execRoti f s
  | .movi f => Sys2Proof.Machine.execMovi f s
  | .limm f => Sys2Proof.Machine.execLimm f s
  | .extr f => Sys2Proof.Machine.execExtr f s
  | .insr f => Sys2Proof.Machine.execInsr f s
  | .widen f => Sys2Proof.Machine.execWiden f s
  | .narrow f => Sys2Proof.Machine.execNarrow f s
  | .lane f => Sys2Proof.Machine.execLane f s
  | .ids f => Sys2Proof.Machine.execIds f s
  | .mvs f => Sys2Proof.Machine.execMvs f s
  | .msv f => Sys2Proof.Machine.execMsv f s
  | .cfrom f => Sys2Proof.Machine.execCfrom f s
  | .cto f => Sys2Proof.Machine.execCto f s
  | .cmin f => Sys2Proof.Machine.execCmin f s
  | .cmax f => Sys2Proof.Machine.execCmax f s
  | .cneg f => Sys2Proof.Machine.execCneg f s
  | .cseti f => Sys2Proof.Machine.execCseti f s
  | .fadd f => Sys2Proof.Machine.execFadd f s
  | .fsub f => Sys2Proof.Machine.execFsub f s
  | .fneg f => Sys2Proof.Machine.execFneg f s
  | .fabs f => Sys2Proof.Machine.execFabs f s
  | .fmul f => Sys2Proof.Machine.execFmul f s
  | .fma f => Sys2Proof.Machine.execFma f s
  | .fmin f => Sys2Proof.Machine.execFmin f s
  | .fmax f => Sys2Proof.Machine.execFmax f s
  | .fcmp f => Sys2Proof.Machine.execFcmp f s
  | .fdiv f => Sys2Proof.Machine.execFdiv f s
  | .fsqrt f => Sys2Proof.Machine.execFsqrt f s
  | .frcp f => Sys2Proof.Machine.execFrcp f s
  | .frsq f => Sys2Proof.Machine.execFrsq f s
  | .fexp3 f => Sys2Proof.Machine.execFexp3 f s
  | .flog3 f => Sys2Proof.Machine.execFlog3 f s
  | .fscl f => Sys2Proof.Machine.execFscl f s
  | .fexpo f => Sys2Proof.Machine.execFexpo f s
  | .fcls f => Sys2Proof.Machine.execFcls f s
  | .fcvt f => Sys2Proof.Machine.execFcvt f s
  | .ftoi f => Sys2Proof.Machine.execFtoi f s
  | .itof f => Sys2Proof.Machine.execItof f s
  | .frnd f => Sys2Proof.Machine.execFrnd f s
  | .cmul f => Sys2Proof.Machine.execCmul f s
  | .cfma f => Sys2Proof.Machine.execCfma f s
  | .frsum f => Sys2Proof.Machine.execFrsum f s
  | .trap f => Sys2Proof.Machine.execTrap f s
  | .eret f => Sys2Proof.Machine.execEret f s
  | .eretRegion f => Sys2Proof.Machine.execEretRegion f s
  | .rdst f => Sys2Proof.Machine.execRdst f s
  | .wrst f => Sys2Proof.Machine.execWrst f s
  | .fenceFull f => Sys2Proof.Machine.execFenceFull f s
  | .fenceAcq f => Sys2Proof.Machine.execFenceAcq f s
  | .fenceRel f => Sys2Proof.Machine.execFenceRel f s
  | .waitp f => Sys2Proof.Machine.execWaitp f s
  | .waitge f => Sys2Proof.Machine.execWaitge f s
  | .bwait f => Sys2Proof.Machine.execBwait f s
  | .bar f => Sys2Proof.Machine.execBar f s
  | .rbar f => Sys2Proof.Machine.execRbar f s
  | .xbar f => Sys2Proof.Machine.execXbar f s
  | .tlbfill f => Sys2Proof.Machine.execTlbfill f s
  | .tlbinv f => Sys2Proof.Machine.execTlbinv f s
  | .tlbinvDom f => Sys2Proof.Machine.execTlbinvDom f s
  | .tlbinvAll f => Sys2Proof.Machine.execTlbinvAll f s
  | .cflushL1 f => Sys2Proof.Machine.execCflushL1 f s
  | .cflushWb f => Sys2Proof.Machine.execCflushWb f s
  | .cflushInv f => Sys2Proof.Machine.execCflushInv f s
  | .icinv f => Sys2Proof.Machine.execIcinv f s
  | .icinvRect f => Sys2Proof.Machine.execIcinvRect f s
  | .sleep f => Sys2Proof.Machine.execSleep f s
  | .clock f => Sys2Proof.Machine.execClock f s
  | .clockNs f => Sys2Proof.Machine.execClockNs f s
  | .perf f => Sys2Proof.Machine.execPerf f s
  | .mark f => Sys2Proof.Machine.execMark f s
  | .stop f => Sys2Proof.Machine.execStop f s
  | .stopLaunch f => Sys2Proof.Machine.execStopLaunch f s
  | .ztrap w => Sys2Proof.Machine.execZtrap w s
  | .illegalOpcode w => Sys2Proof.Machine.execIllegalOpcode w s
  | .ld9 f => Sys2Proof.Machine.execLd9 f s
  | .ld27 f => Sys2Proof.Machine.execLd27 f s
  | .ld54 f => Sys2Proof.Machine.execLd54 f s
  | .st9 f => Sys2Proof.Machine.execSt9 f s
  | .st27 f => Sys2Proof.Machine.execSt27 f s
  | .st54 f => Sys2Proof.Machine.execSt54 f s
  | .lds9 f => Sys2Proof.Machine.execLds9 f s
  | .lds27 f => Sys2Proof.Machine.execLds27 f s
  | .lds54 f => Sys2Proof.Machine.execLds54 f s
  | .sts9 f => Sys2Proof.Machine.execSts9 f s
  | .sts27 f => Sys2Proof.Machine.execSts27 f s
  | .sts54 f => Sys2Proof.Machine.execSts54 f s
  | .lda27 f => Sys2Proof.Machine.execLda27 f s
  | .lda54 f => Sys2Proof.Machine.execLda54 f s
  | .stl27 f => Sys2Proof.Machine.execStl27 f s
  | .stl54 f => Sys2Proof.Machine.execStl54 f s
  | .pref f => Sys2Proof.Machine.execPref f s
  | .prefL2 f => Sys2Proof.Machine.execPrefL2 f s
  | .aadd f => Sys2Proof.Machine.execAadd f s
  | .amin f => Sys2Proof.Machine.execAmin f s
  | .amax f => Sys2Proof.Machine.execAmax f s
  | .axchg f => Sys2Proof.Machine.execAxchg f s
  | .acas f => Sys2Proof.Machine.execAcas f s
  | .atadd f => Sys2Proof.Machine.execAtadd f s
  | .afadd f => Sys2Proof.Machine.execAfadd f s
  | .aadd54 f => Sys2Proof.Machine.execAadd54 f s
  | .tkld f => Sys2Proof.Machine.execTkld f s
  | .tkldLin f => Sys2Proof.Machine.execTkldLin f s
  | .redeem f => Sys2Proof.Machine.execRedeem f s
  | .redeemb f => Sys2Proof.Machine.execRedeemb f s
  | .tkdrop f => Sys2Proof.Machine.execTkdrop f s
  | .tkq f => Sys2Proof.Machine.execTkq f s
  | .tcopy f => Sys2Proof.Machine.execTcopy f s
  | .binit f => Sys2Proof.Machine.execBinit f s
  | .barrv f => Sys2Proof.Machine.execBarrv f s
  | .bqry f => Sys2Proof.Machine.execBqry f s
  | .enq f => Sys2Proof.Machine.execEnq f s
  | .recld f => Sys2Proof.Machine.execRecld f s
  | .mldw f => Sys2Proof.Machine.execMldw f s
  | .mma f => Sys2Proof.Machine.execMma f s
  | .mmac f => Sys2Proof.Machine.execMmac f s
  | .mzero f => Sys2Proof.Machine.execMzero f s
  | .macc f => Sys2Proof.Machine.execMacc f s
  | .mout f => Sys2Proof.Machine.execMout f s
  | .mwait f => Sys2Proof.Machine.execMwait f s
  | .mstat f => Sys2Proof.Machine.execMstat f s
  | .mcfgClaim f => Sys2Proof.Machine.execMcfgClaim f s
  | .mcfgRelease f => Sys2Proof.Machine.execMcfgRelease f s
  | .mcfgKsplit f => Sys2Proof.Machine.execMcfgKsplit f s
  | .mcfgBind f => Sys2Proof.Machine.execMcfgBind f s
  | .solicit f => Sys2Proof.Machine.execSolicit f s
  | .sreply f => Sys2Proof.Machine.execSreply f s
  | .swait f => Sys2Proof.Machine.execSwait f s
  | .publish f => Sys2Proof.Machine.execPublish f s
  | .withdraw f => Sys2Proof.Machine.execWithdraw f s
  | .migrate f => Sys2Proof.Machine.execMigrate f s
  | .sqry f => Sys2Proof.Machine.execSqry f s
  | .lensLdr d ofs signed size => Sys2Proof.Machine.execLensLdr d ofs signed size s
  | .lensLdi d imm => Sys2Proof.Machine.execLensLdi d imm s
  | .lensLdih d imm => Sys2Proof.Machine.execLensLdih d imm s
  | .lensLdc d imm => Sys2Proof.Machine.execLensLdc d imm s
  | .lensAdd d a b => Sys2Proof.Machine.execLensAdd d a b s
  | .lensSub d a b => Sys2Proof.Machine.execLensSub d a b s
  | .lensAnd d a b => Sys2Proof.Machine.execLensAnd d a b s
  | .lensOr d a b => Sys2Proof.Machine.execLensOr d a b s
  | .lensXor d a b => Sys2Proof.Machine.execLensXor d a b s
  | .lensShl d a b => Sys2Proof.Machine.execLensShl d a b s
  | .lensShr d a b => Sys2Proof.Machine.execLensShr d a b s
  | .lensAddi d a imm => Sys2Proof.Machine.execLensAddi d a imm s
  | .lensAndi d a imm => Sys2Proof.Machine.execLensAndi d a imm s
  | .lensBeq a b imm => Sys2Proof.Machine.execLensBeq a b imm s
  | .lensBne a b imm => Sys2Proof.Machine.execLensBne a b imm s
  | .lensBltu a b imm => Sys2Proof.Machine.execLensBltu a b imm s
  | .lensBlt a b imm => Sys2Proof.Machine.execLensBlt a b imm s
  | .lensKeep => Sys2Proof.Machine.execLensKeep s
  | .lensDrop => Sys2Proof.Machine.execLensDrop s
  | .lensCount a imm => Sys2Proof.Machine.execLensCount a imm s
  | .lensTrig imm => Sys2Proof.Machine.execLensTrig imm s
  | .splitImplicitMerge core slot i0 j => Sys2Proof.Machine.execSplitImplicitMerge core slot i0 j s
  | .joinMerge core slot t => Sys2Proof.Machine.execJoinMerge core slot t s
  | .groupEnd core slot => Sys2Proof.Machine.execGroupEnd core slot s
  | .loadReturn core slot k part => Sys2Proof.Machine.execLoadReturn core slot k s part
  | .storeReturn core slot k => Sys2Proof.Machine.execStoreReturn core slot k s
  | .sideLogReplay core => Sys2Proof.Machine.execSideLogReplay core s
  | .sideLogDiscard core => Sys2Proof.Machine.execSideLogDiscard core s
  | .walkerStart core => Sys2Proof.Machine.execWalkerStart core s
  | .walkTimeout core => Sys2Proof.Machine.execWalkTimeout core s
  | .mmpPageService k frame => Sys2Proof.Machine.execMmpPageService k frame s
  | .mmpEntryChange domain va level entry => Sys2Proof.Machine.execMmpEntryChange domain va level entry s
  | .badPageAdd frame => Sys2Proof.Machine.execBadPageAdd frame s
  | .waitpComplete core slot split => Sys2Proof.Machine.execWaitpComplete core slot split s
  | .waitgeComplete core slot split => Sys2Proof.Machine.execWaitgeComplete core slot split s
  | .bwaitComplete core slot split => Sys2Proof.Machine.execBwaitComplete core slot split s
  | .waitTimeout core slot split => Sys2Proof.Machine.execWaitTimeout core slot split s
  | .barrierTimeout core slot split => Sys2Proof.Machine.execBarrierTimeout core slot split s
  | .barComplete launch core crew n => Sys2Proof.Machine.execBarComplete launch core crew n s
  | .rbarComplete launch x y imm => Sys2Proof.Machine.execRbarComplete launch x y imm s
  | .xbarComplete launch others => Sys2Proof.Machine.execXbarComplete launch others s
  | .xbarTimeout core slot split => Sys2Proof.Machine.execXbarTimeout core slot split s
  | .xbarMemberLost launch => Sys2Proof.Machine.execXbarMemberLost launch s
  | .sleepEnd core slot split => Sys2Proof.Machine.execSleepEnd core slot split s
  | .tkldWaitAllocate slice => Sys2Proof.Machine.execTkldWaitAllocate slice s
  | .ticketSnapshotComplete slice entry => Sys2Proof.Machine.execTicketSnapshotComplete slice entry s
  | .ticketDeliveryComplete slice entry => Sys2Proof.Machine.execTicketDeliveryComplete slice entry s
  | .ticketAgeExpiry slice entry => Sys2Proof.Machine.execTicketAgeExpiry slice entry s
  | .tcopyTileComplete job plane tile => Sys2Proof.Machine.execTcopyTileComplete job plane tile s
  | .tcopyJobComplete job => Sys2Proof.Machine.execTcopyJobComplete job s
  | .directoryUnpinnedUpdate core slot split => Sys2Proof.Machine.execDirectoryUnpinnedUpdate core slot split s
  | .migrateFirstStep core slot split => Sys2Proof.Machine.execMigrateFirstStep core slot split s
  | .migrateSecondStep job => Sys2Proof.Machine.execMigrateSecondStep job s
  | .censusKeyArrival census cluster => Sys2Proof.Machine.execCensusKeyArrival census cluster s
  | .responderStart census core launch crew => Sys2Proof.Machine.execResponderStart census core launch crew s
  | .censusComplete census => Sys2Proof.Machine.execCensusComplete census s
  | .matrixUnitComplete instr => Sys2Proof.Machine.execMatrixUnitComplete instr s
  | .matrixInstrComplete instr => Sys2Proof.Machine.execMatrixInstrComplete instr s
  | .contextEnd core slot => Sys2Proof.Machine.execContextEnd core slot s
  | .doorbellWrite port queue value relaxed => Sys2Proof.Machine.execDoorbellWrite port queue value s relaxed
  | .queueVisit queue => Sys2Proof.Machine.execQueueVisit queue s
  | .launchPacket queue => Sys2Proof.Machine.execLaunchPacket queue s
  | .copyPacket queue => Sys2Proof.Machine.execCopyPacket queue s
  | .copyJobComplete job => Sys2Proof.Machine.execCopyJobComplete job s
  | .waitcPacket queue => Sys2Proof.Machine.execWaitcPacket queue s
  | .waitcSatisfied queue => Sys2Proof.Machine.execWaitcSatisfied queue s
  | .waitcTimeout queue => Sys2Proof.Machine.execWaitcTimeout queue s
  | .gangPacket queue => Sys2Proof.Machine.execGangPacket queue s
  | .markerPacket queue => Sys2Proof.Machine.execMarkerPacket queue s
  | .launchStart launch => Sys2Proof.Machine.execLaunchStart launch s
  | .crewPlace launch core crew => Sys2Proof.Machine.execCrewPlace launch core crew s
  | .crewEnd launch core crew => Sys2Proof.Machine.execCrewEnd launch core crew s
  | .launchComplete launch => Sys2Proof.Machine.execLaunchComplete launch s
  | .completionRecordRelease => Sys2Proof.Machine.execCompletionRecordRelease s
  | .gangArm launch => Sys2Proof.Machine.execGangArm launch s
  | .gangArmedReceive gang member => Sys2Proof.Machine.execGangArmedReceive gang member s
  | .gangGo launch => Sys2Proof.Machine.execGangGo launch s
  | .gangDisarm launch => Sys2Proof.Machine.execGangDisarm launch s
  | .gangArmTimeout launch => Sys2Proof.Machine.execGangArmTimeout launch s
  | .sliceExpiry launch cluster => Sys2Proof.Machine.execSliceExpiry launch cluster s
  | .preemptRequest launch cluster => Sys2Proof.Machine.execPreemptRequest launch cluster s
  | .shareSave launch cluster area => Sys2Proof.Machine.execShareSave launch cluster area s
  | .drainTimeout launch cluster => Sys2Proof.Machine.execDrainTimeout launch cluster s
  | .shareRestore launch cluster => Sys2Proof.Machine.execShareRestore launch cluster s
  | .swapIn launch cluster => Sys2Proof.Machine.execSwapIn launch cluster s
  | .daymarkFailover => Sys2Proof.Machine.execDaymarkFailover s
  | .crewExitOutstanding launch core crew => Sys2Proof.Machine.execCrewExitOutstanding launch core crew s
  | .traceRecordAccept k => Sys2Proof.Machine.execTraceRecordAccept k s
  | .pcSample core => Sys2Proof.Machine.execPcSample core s
  | .laneIntervalEnd core => Sys2Proof.Machine.execLaneIntervalEnd core s
  | .energyIntervalEnd => Sys2Proof.Machine.execEnergyIntervalEnd s
  | .pcBreakStop core slot split => Sys2Proof.Machine.execPcBreakStop core slot split s
  | .watchpointStop core slot split => Sys2Proof.Machine.execWatchpointStop core slot split s
  | .singleStepStop core slot => Sys2Proof.Machine.execSingleStepStop core slot s
  | .dbgHalt launch => Sys2Proof.Machine.execDbgHalt launch s
  | .dbgRelease launch => Sys2Proof.Machine.execDbgRelease launch s
  | .dbgEnd launch => Sys2Proof.Machine.execDbgEnd launch s
  | .dbgStep launch core slot split => Sys2Proof.Machine.execDbgStep launch core slot split s
  | .dbgDump launch hostAddr size => Sys2Proof.Machine.execDbgDump launch hostAddr size s
  | .dbgDebugset launch set => Sys2Proof.Machine.execDbgDebugset launch set s
  | .dbgSession launch session desc prog => Sys2Proof.Machine.execDbgSession launch session desc prog s
  | .dbgReadst launch core slot kind => Sys2Proof.Machine.execDbgReadst launch core slot kind s
  | .memoryRead port offset len => Sys2Proof.Machine.execMemoryRead port offset len s
  | .memoryWrite port offset data relaxed => Sys2Proof.Machine.execMemoryWrite port offset data relaxed s
  | .inboundWriteAck port k => Sys2Proof.Machine.execInboundWriteAck port k s
  | .semRead port n => Sys2Proof.Machine.execSemRead port n s
  | .semWrite port n value relaxed => Sys2Proof.Machine.execSemWrite port n value s relaxed
  | .ctrlWrite port offset width value relaxed => Sys2Proof.Machine.execCtrlWrite port offset width value s relaxed
  | .peerRequest device domain req => Sys2Proof.Machine.execPeerRequest device domain req s
  | .pcieLinkDown port => Sys2Proof.Machine.execPcieLinkDown port s
  | .scaleupLinkDown port => Sys2Proof.Machine.execScaleupLinkDown port s
  | .ptmAlign ns => Sys2Proof.Machine.execPtmAlign ns s
  | .loadkey slot domain debug pub blob => Sys2Proof.Machine.execLoadkey slot domain debug pub blob s
  | .unloadkey slot => Sys2Proof.Machine.execUnloadkey slot s
  | .attest nonce => Sys2Proof.Machine.execAttest nonce s
  | .startinfo => Sys2Proof.Machine.execStartinfo s
  | .clearstart => Sys2Proof.Machine.execClearstart s
  | .powercap watts => Sys2Proof.Machine.execPowercap watts s
  | .start failure images => Sys2Proof.Machine.execStart failure s images
  | .thermalSample die temp => Sys2Proof.Machine.execThermalSample die temp s
  | .longLatencyUnitResult core slot k => Sys2Proof.Machine.execLongLatencyUnitResult core slot k s
  | .softError site => Sys2Proof.Machine.execSoftError site s
  | .powerFailure => Sys2Proof.Machine.execPowerFailure s
  | .scaleupLinkUp port => Sys2Proof.Machine.execScaleupLinkUp port s
  | .rdptrWrite session value => Sys2Proof.Machine.execRdptrWrite session value s
  | .hostReserveClaim queue index => Sys2Proof.Machine.execHostReserveClaim queue index s
  | .keySlotLoadComplete slot loaded => Sys2Proof.Machine.execKeySlotLoadComplete slot loaded s
  | .ctrlRead port offset width => Sys2Proof.Machine.execCtrlRead port offset width s
  | .outboundWrite entry bus port valid => Sys2Proof.Machine.execOutboundWrite entry bus port valid s
  | .hostReadFail core slot k split => Sys2Proof.Machine.execHostReadFail core slot k s split
  | .peerAbsence gang member absent => Sys2Proof.Machine.execPeerAbsence gang member absent s
  | .energyRead k => Sys2Proof.Machine.execEnergyRead k s
  | .tcopyTryte job tile idx => Sys2Proof.Machine.execTcopyTryteWritten job tile idx s
  | .copyTryte job idx => Sys2Proof.Machine.execCopyTryteWritten job idx s

end Sys2Proof.Machine
end

