-- ==== Sys2Proof/Machine/Sched.lean ====
section
/-! DEFINITION. Which split issues (R98 to R100, R306), what follows an issue, the events that the machine performs of itself,
and the passing of a cycle. -/

namespace Sys2Proof.Machine

/-! ## Arbitration -/

/-- A split that an issue slot could pick. -/
structure Cand where
  key : Nat
  idx : Nat
  slot : Nat
  seq : Bool
  wait : Nat
  role : Int
  start : Nat
  age : Nat
deriving DecidableEq, Repr

/-- Whether an issue slot has had its pick of this cycle, or is still busy with that of the last one (R99, R100). -/
def State.slotUsed (s : State) (slot : Nat) : Bool := (s.issued ++ s.carry).any (fun x => x.slot == slot) || s.spent.any (fun e => e.1 == slot)

/-- The ready splits that may still issue in this cycle (R98). -/
def State.cands (s : State) : List Cand :=
  s.groups.flatMap (fun e =>
    if s.slotUsed e.2.issueSlot then []
    else (e.2.splits.filter (fun x => x.mayIssue e.2 s.now && x.wait == .none && !s.tried.contains (e.1, x.idx))).map (fun x =>
      { key := e.1, idx := x.idx, slot := e.2.issueSlot, seq := e.2.isSeq, wait := x.waitCount, role := e.2.role
        start := e.2.startSeq, age := x.age }))

/-- Whether a split has waited so long that it is promoted (R99, R306). -/
def Cand.promoted (c : Cand) : Bool := if c.seq then decide (16 ≤ c.wait) else decide (64 ≤ c.wait)

/-- The order in which an issue slot prefers splits (R99, R306). -/
def Cand.before (a b : Cand) : Bool :=
  if a.promoted != b.promoted then a.promoted
  else if a.promoted && a.wait != b.wait then decide (b.wait < a.wait)
  else if !a.promoted && !a.seq && a.role != b.role then decide (b.role < a.role)
  else if a.start != b.start then decide (a.start < b.start)
  else decide (a.age < b.age)

/-- The best of some candidates. -/
def bestCand : List Cand → Option Cand
  | [] => none
  | c :: t =>
    match bestCand t with
    | none => some c
    | some d => if d.before c then some d else some c

/-- The split that issues next in this cycle: the lowest issue slot that still has a candidate picks. -/
def State.pickIssue (s : State) : Option (Nat × Nat) :=
  let cs := s.cands
  match cs with
  | [] => none
  | c :: t =>
    let slot := t.foldl (fun m d => min m d.slot) c.slot
    (bestCand (cs.filter (fun d => d.slot == slot))).map (fun d => (d.key, d.idx))

/-- A split that could not issue is not tried again in this cycle. -/
def State.tryLater (s : State) (key i : Nat) : State := { s with tried := (key, i) :: s.tried }

/-- Whether a split has still to issue and is held back from it (R98). -/
def Wait.holdsBack (w : Wait) : Bool := w == .blocked || w == .stalled || w == .full

/-- The wait of a split; none where it is gone. -/
def State.waitOf (s : State) (key i : Nat) : Wait :=
  match s.group? key with
  | none => .none
  | some g => match g.split? i with | some x => x.wait | none => .none

/-- A pick that trapped instead of issuing uses its slot up for the cycle (R99). -/
def State.spend (s : State) (slot key i : Nat) : State := { s with spent := (slot, key, i) :: s.spent }

/-- What follows a pick that began in `s0`: a split that turned out to have to wait is set aside for the cycle, so that its slot picks
again; one that trapped without issuing has used its slot. -/
def State.afterIssue (s s0 : State) (key i : Nat) : State :=
  if (s.waitOf key i).holdsBack then s.tryLater key i
  else if s.issued.length = s0.issued.length then
    match s0.group? key with | some g => s.spend g.issueSlot key i | none => s
  else s

/-! ## Readiness -/

/-- A split whose wait to issue has not been looked at in this cycle (R98). -/
def State.waking (s : State) : Option (Nat × Nat) :=
  s.groups.findSome? (fun e => (e.2.splits.find? (fun x => x.mayIssue e.2 s.now && x.wait.holdsBack && !s.tried.contains (e.1, x.idx))).map
    (fun x => (e.1, x.idx)))

/-- A split that no slot has picked, and whose operands and unit have not been looked at in this cycle (R98). -/
def State.unseen (s : State) : Option (Nat × Nat) :=
  s.groups.findSome? (fun e => (e.2.splits.find? (fun x =>
    x.mayIssue e.2 s.now && x.wait == .none && !s.tried.contains (e.1, x.idx) && !s.spent.any (fun q => q.2 == (e.1, x.idx)))).map (fun x => (e.1, x.idx)))

/-- What a look at a split's next instruction has found: the wait that its issue would begin. A split that waited before and need not any
more is ready; one that was ready waits for an operand, a counter or a unit; a translation it asks for only when it is picked. -/
def State.found (s : State) (key i : Nat) (w : Wait) : State :=
  let put := fun (st : State) (w : Wait) => st.modSplit key i (fun x => { x with wait := w })
  if w.holdsBack then
    if s.waitOf key i = .none ∧ w = .blocked then s.tryLater key i else (put s w).tryLater key i
  else if s.waitOf key i = .none then s.tryLater key i
  else put s .none

/-- The look carried out: `t` is what issuing the instruction would come to. A wait for a translation goes on with the requests that the
attempt makes. -/
def State.looked (s t : State) (key i : Nat) : State :=
  if s.waitOf key i = .blocked ∧ t.waitOf key i = .blocked then t.tryLater key i else s.found key i (t.waitOf key i)

/-- Two equal splits of a group that merge before one of them issues (R94). -/
def Group.mergePair (g : Group) : Option (Nat × Nat) :=
  let is := g.splits.map (·.idx)
  (is.flatMap (fun i => is.map (fun j => (i, j)))).find? (fun p => decide (p.1 < p.2) && g.canMerge p.1 p.2)

/-! ## Stops, aborts and shares -/

/-- A stop that Daymark handles (R356, R292), or none while it has to wait. A responder that stopped with a cause outside the debug
class finishes, once its side log is replayed; a stop under a debugger stays; any other aborts its launch. -/
def State.handleStop (s : State) (a : StopAsk) : Option State :=
  let abort := if s.attached a.launch then s else s.startAbort a.launch ⟨a.cause, a.who⟩
  match a.who with
  | none => some abort
  | some w =>
    match s.group? w.key with
    | none => some abort
    | some g =>
      if g.resp.isNone || g.launch != a.launch then some abort
      else if 79 ≤ a.cause.code ∧ a.cause.code ≤ 88 then some (if s.launches.any (fun l => l.id == a.launch && l.halted.isSome) then abort else s)
      else if s.quiet g then some (s.releaseGroup g w.epc (some a.cause))
      else none

/-- The first stop that can be handled, handled. -/
def State.handleStops (s : State) : List StopAsk → List StopAsk → Option State
  | _, [] => none
  | past, a :: t =>
    match { s with stops := past ++ t }.handleStop a with
    | some s1 => some s1
    | none => s.handleStops (past ++ [a]) t

/-- An abort that is ready ends, once the key that the count of its reclaimed tickets needs is there (R374); the dump that DUMPONABORT asks for goes to a region of host memory whose place and size are free
(R356, R387, R392). -/
def State.abortStep (s : State) (l : Launch) (a : Abort) : State :=
  if !s.abortReady l then s
  else
    match s.reclaimWait l.id with
    | some s1 => s1
    | none =>
    let s1 : State := if l.dbg.dumpOnAbort then { s.writeDump l a.cause.code (Config.pick s.free) (Config.pick (s.free + 1)) with free := s.free + 2 } else s
    s1.endAbort l a

/-- What becomes of a share by itself (R345, R347 to R349): a restart, the end of a replay, the end of a drain, and a pre-emption asked
for while it was halted. -/
def State.shareStep (s : State) (l : Launch) (sh : Share) : State :=
  if sh.replaying then s.endReplay l sh
  else
    match sh.state with
    | .restarting => s.restartShare l sh.cluster
    | .draining _ =>
      if (s.shareKeys l.id sh.cluster).isEmpty && (s.shareCrews l.id sh.cluster).isEmpty then
        s.modShare l.id sh.cluster (fun sh => { sh with state := .resident, slice := 0 })
      else s
    | .resident => if sh.asked && s.preemptible l then s.preempt l sh.cluster else s
    | _ => s

/-- What becomes of a launch by itself. -/
def Launch.steps (l : Launch) : List (State → Out) :=
  if l.complete then []
  else match l.abort with
    | some a => [fun s => .next (s.abortStep l a)]
    | none => l.shares.map (fun sh => fun (s : State) => .next (s.shareStep l sh))

/-! ## The machine's own events -/

/-- Events of a split that waits. -/
def waitEvents (g : Group) (x : Split) : List (State → Out) :=
  match x.wait with
  | .join t => [execJoinMerge g.core g.slot (Tern.ofInt 8 t)]
  | .waitp _ _ => [execWaitpComplete g.core g.slot x.idx]
  | .waitge _ _ _ _ _ => [execWaitgeComplete g.core g.slot x.idx, execWaitTimeout g.core g.slot x.idx]
  | .bwait _ _ _ _ _ => [execBwaitComplete g.core g.slot x.idx, execBarrierTimeout g.core g.slot x.idx]
  | .bar n => [execBarComplete g.launch g.core g.crew n]
  | .rbar i => [execRbarComplete g.launch (coreX g.core) (coreY g.core) i]
  | .xbar m _ _ _ => (if m = 1 then [execXbarComplete g.launch 0] else []) ++ [execXbarTimeout g.core g.slot x.idx, lostWaiters g.launch]
  | .sleep _ => [execSleepEnd g.core g.slot x.idx]
  | .swait c _ _ _ _ => [fun (s : State) => .next (s.serveCensus c), execWaitTimeout g.core g.slot x.idx]
  | .tkld slice _ => [execTkldWaitAllocate slice]
  | .pins _ => [execDirectoryUnpinnedUpdate g.core g.slot x.idx, execMigrateFirstStep g.core g.slot x.idx]
  | .watched _ => [execWatchpointStop g.core g.slot x.idx]
  | .ending => [if g.isSeq then execContextEnd g.core g.slot else execGroupEnd g.core g.slot]
  | _ => []

/-- Events of the accesses of a group that a choice names. -/
def accessEvents (g : Group) (which : Access → Bool) : List (State → Out) :=
  (g.infl.filter (fun a => !a.done && which a)).flatMap (fun a => [execLoadReturn g.core g.slot a.seq, execStoreReturn g.core g.slot a.seq])

/-- Events of one split: the returns of its accesses, and the end of its wait. -/
def splitEvents (g : Group) (x : Split) : List (State → Out) := accessEvents g (fun a => a.split == x.idx) ++ waitEvents g x

/-- Events of the accesses, long-latency results and splits of one group, split by split (R97). -/
def groupEvents (g : Group) : List (State → Out) :=
  accessEvents g (fun a => (g.split? a.split).isNone) ++
  (if g.longs.isEmpty then [] else [execLongLatencyUnitResult g.core g.slot 0]) ++
  (if g.stepping.isSome then [execSingleStepStop g.core g.slot] else []) ++ g.splits.flatMap (splitEvents g)

/-- Events of translation: walks, pages and key slots that the memory-management and security processors serve, with a frame and an
outcome that are free choices (R371, R374). -/
def State.pageEvents (s : State) : List (State → Out) :=
  let used := s.allocated.length + s.badFrames.length + s.retired.length
  let frame := ((List.range (used + 1)).map (fun i => (Config.pick s.free + i) % frameCount)).find? s.frameFree
  s.misses.map (fun m => execWalkerStart m.core) ++
  (s.groups.filter (fun e => e.2.isWalker)).map (fun e => execWalkTimeout e.2.core) ++
  (List.range s.asks.length).map (fun k => execMmpPageService k (frame.getD frameCount)) ++
  s.keyAsks.map (fun n => execKeySlotLoadComplete n (Config.pick s.free % 2 == 1))

/-- Events of side logs and mooring tables. -/
def State.tableEvents (s : State) : List (State → Out) :=
  (s.sideLog.map (·.core)).eraseDups.flatMap (fun c => [execSideLogReplay c, execSideLogDiscard c]) ++
  s.moor.flatMap (fun e => [execTicketSnapshotComplete (e.1 / moorEntries) (e.1 % moorEntries), execTicketDeliveryComplete (e.1 / moorEntries) (e.1 % moorEntries),
    execTicketAgeExpiry (e.1 / moorEntries) (e.1 % moorEntries)])

/-- Events of an engine job. -/
def TcJob.events (id : Nat) (j : TcJob) : List (State → Out) :=
  match j.work with
  | .migrate _ _ _ _ => [execMigrateSecondStep id]
  | .tcopy _ _ _ _ _ _ _ =>
    ((List.range j.extent.1).flatMap (fun p => ((List.range j.extent.2).filter (fun t => !j.done.contains (p, t))).map (execTcopyTileComplete id p)))
      ++ [execTcopyJobComplete id]

/-- Events of engine jobs, matrix instructions and censuses. -/
def State.jobEvents (s : State) : List (State → Out) :=
  s.tcJobs.flatMap (fun e => e.2.events e.1) ++
  s.mxJobs.flatMap (fun e => [execMatrixUnitComplete e.1, execMatrixInstrComplete e.1]) ++
  s.copyJobs.map (fun j => execCopyJobComplete j.id) ++
  s.census.flatMap (fun e => e.2.clusters.map (execCensusKeyArrival e.1) ++
    e.2.resps.map (fun r => execResponderStart e.1 r.core r.launch r.crew) ++ [execCensusComplete e.1])

/-- Queues that may want a visit, in cyclic order after the one last visited (R342). -/
def State.queueRound (s : State) : List Nat :=
  insert_ (s.kicks ++ s.day.heads.map (·.1) ++ s.day.seen.map (·.1)).eraseDups
where
  /-- queues sorted by their place in the round -/
  insert_ (l : List Nat) : List Nat := l.foldr put []
  /-- a queue put before those that come after it -/
  put (q : Nat) : List Nat → List Nat
    | [] => [q]
    | r :: t => if s.roundPlace q ≤ s.roundPlace r then q :: r :: t else r :: put q t

/-- Events of queues (R336 to R342, R351). -/
def State.queueEvents (s : State) : List (State → Out) :=
  (match s.day.visit with
  | some q => [execLaunchPacket q, execCopyPacket q, execWaitcPacket q, execGangPacket q, execMarkerPacket q]
  | none => []) ++
  s.queueRound.map execQueueVisit ++
  s.accepted.flatMap (fun a => match a.work with | .waitc _ _ _ _ => [execWaitcSatisfied a.queue, execWaitcTimeout a.queue] | _ => []) ++
  (if s.fifo.isEmpty then [] else [execCompletionRecordRelease]) ++ (if s.day.down then [execDaymarkFailover] else [])

/-- Events of a launch: its start, crews, end and shares (R343 to R350, R365). A coordinator acts on its own member; word of GO and of
ARMED from other devices comes from outside. Whether there is a save area is a free choice. -/
def launchEvents (now : Nat) (devid : Nat) (l : Launch) : List (State → Out) :=
  let cores := l.cores.flatMap (fun c => (List.range l.crewsPer).map (fun k => (c, k)))
  let area := Config.pick (2 ^ 100 + now) % 2 == 1
  if l.complete then []
  else
    (match l.gang with
    | none => [execLaunchStart l.id]
    | some g => execGangArm l.id :: (if g.coordinator = devid then [execGangGo l.id, execGangArmTimeout l.id] else [])) ++
    cores.flatMap (fun e => [execCrewEnd l.id e.1 e.2, execCrewPlace l.id e.1 e.2, execCrewExitOutstanding l.id e.1 e.2]) ++
    l.shares.flatMap (fun sh => [execSliceExpiry l.id sh.cluster, execDrainTimeout l.id sh.cluster, execShareRestore l.id sh.cluster] ++
      (match sh.state with
      | .saving true => execSwapIn l.id sh.cluster :: (if area then [execShareSave l.id sh.cluster true] else [])
      | _ => [execShareSave l.id sh.cluster area])) ++
    [execLaunchComplete l.id]

/-- Events of observation: samples, lane accounts and records (R380, R395, R398, R399). -/
def State.watchEvents (s : State) : List (State → Out) :=
  (if s.sampling.isSome then (List.range 256).map execPcSample else []) ++
  (if s.laneSession.isSome then (List.range 256).map execLaneIntervalEnd else []) ++
  (if s.records.isEmpty then [] else [execTraceRecordAccept 0]) ++
  (match s.dumpDue with | some (l, a, n) => [execDbgDump l a n] | none => []) ++ [execEnergyIntervalEnd]

/-- Every event that the machine may perform of itself now, in a fixed order; each does nothing where it does not apply. -/
def State.autos (s : State) : List (State → Out) :=
  s.groups.flatMap (fun e => groupEvents e.2) ++ s.pageEvents ++ s.tableEvents ++ s.jobEvents ++
  (s.inbound.map (·.port)).eraseDups.map (fun p => execInboundWriteAck p 0) ++ s.queueEvents ++
  s.launches.flatMap (launchEvents s.now s.devid) ++ s.watchEvents

/-- The first event that changes the machine. -/
def firstEffect (s : State) : List (State → Out) → Option State
  | [] => none
  | f :: t =>
    match f s with
    | .next s1 => if s1 = s then firstEffect s t else some s1
    | _ => firstEffect s t

/-- What the machine does before anything issues: stops, aborts and shares. They wait while no Daymark core acts (R351). -/
def State.upkeep (s : State) : Option State :=
  if s.day.down then none
  else match s.handleStops [] s.stops with
  | some s1 => some s1
  | none => firstEffect s (s.launches.flatMap Launch.steps)

/-! ## The passing of a cycle -/

/-- One cycle of a split: one that was ready and did not issue has waited (R98, R224); where a member of its gang is `away`, its wait at an
`XBAR` stands still (R216). -/
def Split.tick (x : Split) (ready away : Bool) : Split :=
  let x1 := if ready then { x with waitCount := x.waitCount + 1 } else x
  if away && atXbar x.wait then { x1 with wait := x.wait.shift 1 } else x1

/-- One cycle of a group: its residence, its ready splits (R98, R224), and the flags of the results that are written in it (R48). A split whose
instruction was picked and trapped neither waited nor issued: its count stays (DESIGN CHOICE, log 105). -/
def Group.tick (g : Group) (s : State) : Group :=
  let away : Bool := g.status == .running && g.splits.any (fun x => atXbar x.wait) && (match s.launch? g.launch with | some l => l.away | none => false)
  let ready := fun (x : Split) => x.mayIssue g s.now && x.wait == .none && !s.spent.any (fun q => q.2 == (g.key, x.idx))
  let g1 := { g with
    fstat := lateInto g.fstat (g.late.filter (fun f => !decide (s.now + 1 < f.due)))
    late := g.late.filter (fun f => decide (s.now + 1 < f.due))
    splits := g.splits.map (fun x => x.tick (ready x) away), perf := bumpAt g.perf 2 1, ctx := g.ctx.map (fun c => { c with cycles := c.cycles + 1 }) }
  if g.splits.any ready then { g1 with perf := bumpAt g1.perf 3 1 } else g1

/-- The device time base after a cycle: 0.4 ns on, or less while a backward alignment is made up for (R223). -/
def State.tickTime (s : State) : State :=
  if s.timeSlow = 0 then { s with timeBase := s.timeBase + 4 }
  else
    let adv := Config.pick s.free % 4
    { s with timeBase := s.timeBase + adv, timeSlow := s.timeSlow - (4 - adv), free := s.free + 1 }

/-- A cycle of a crew: the group slots that it occupies (R400). -/
def Crew.tick (c : Crew) (s : State) : Crew :=
  { c with slotCycles := c.slotCycles + (s.groups.filter (fun e => e.2.launch == c.launch && e.2.core == c.core && e.2.crew == c.idx && !e.2.isSeq && !e.2.isWalker)).length }

/-- Whether a crew or the context of a launch stands on the cores of a cluster (R345). -/
def State.onCluster (s : State) (launch cluster : Nat) : Bool :=
  !(s.shareCrews launch cluster).isEmpty || s.groups.any (fun e => e.2.inShare launch cluster)

/-- A cycle of a launch: the slices of its shares that are resident, with a crew or a context on their cores, while it is not halted (R345). -/
def Launch.tick (l : Launch) (s : State) : Launch :=
  if l.halted.isSome || l.complete || !l.started then l
  else { l with shares := l.shares.map (fun sh =>
    if sh.state = .resident ∧ s.onCluster l.id sh.cluster = true then { sh with slice := sh.slice + 1 } else sh) }

/-- A cycle passes (R9, R223, R250, R345, R397, R399); at its end port 1's requests for semaphores are served (R406). -/
def State.tick (s : State) : State :=
  let s1 := { s with
    groups := s.groups.map (fun (e : Nat × Group) => (e.1, e.2.tick s))
    crews := s.crews.map (fun (c : Crew) => c.tick s)
    launches := s.launches.map (fun (l : Launch) => l.tick s)
    lanes := s.tickLanes }
  let s2 := if (s.now + 1) % usCycles = 0 then s1.ageTickets else s1
  { s2.tickTime with now := s.now + 1, issued := [], carry := s.issued.filter (·.two), tried := [], spent := [], fresh := [] }.serveSems

/-! ## Placing an instruction -/

/-- The state with a Lens word as the program on an empty record, or with the words of a Torade instruction in DRAM at word
0 of frame 0 and a running group of the physical domain there, next to issue. -/
def State.placeWords (s : State) (nbits w : Nat) : State :=
  let s0 := { s with agenda := [], stops := [], issued := [], carry := [], tried := [], spent := [] }
  if nbits = 32 then
    { s0 with lens := some { session := 0, prog := [BitVec.ofNat 32 w], pc := 0, k := [], record := ⟨[], 0, 0, 0, 0⟩, rest := [] } }
  else
    let bs := bytesOf 12 (w % 2 ^ nbits)
    let word := fun (n : Nat) => (p5dec 27 ((bs.drop (6 * n)).take 6)).getD wzero
    let pc : Addr := Tern.ofInt 54 (1 - (half 46 : Int))
    let mem := packedPutAll s0.mem 0 0 (trytesOfWord (word 0) ++ trytesOfWord (word 1))
    { s0 with lens := none, mem := mem, groups := [(0, { newGroup 0 0 pc 1#32 with nv := 80, ns := 80, privileged := true })], cur := (0, 0) }
where
  /-- consecutive trytes of a packed page written -/
  packedPutAll (m : List Host.Cell) (f pos : Nat) : List Tryte → List Host.Cell
    | [] => m
    | t :: ts => packedPutAll (packedPut m f pos t) f (pos + 1) ts

/-! ## What a step does -/

/-- What the next step of the machine is. -/
inductive Todo where
  /-- an instruction or event is carried out in a state -/
  | run (i : Instr) (s : State)
  /-- an instruction is issued by a split, given by its group key and index -/
  | issue (i : Instr) (s : State) (key idx : Nat)
  /-- the instruction of a split is looked at from a state without being issued (R98): what it would come to from `s` is noted in `back` -/
  | look (i : Instr) (s back : State) (key idx : Nat)
  /-- the machine does something of its own -/
  | goto (s : State)

/-- The machine goes on with the outcome of one of its own events. -/
def State.after (s : State) (f : State → Out) : Todo := match f s with | .next s1 => .goto s1 | _ => .goto s

/-- A picked split issues: after its meetings (R91) it merges with an equal split of its group, stops at a break, or fetches its instruction
(R55, R94, R388). -/
def State.issueTodo (s : State) (key i : Nat) : Todo :=
  match s.group? key with
  | none => .goto (s.tryLater key i)
  | some g =>
    let met := g.modSplit i Split.meet
    match met.mergePair with
    | some (a, b) => (s.setGroup key met).after (execSplitImplicitMerge g.core g.slot a b)
    | none =>
      match g.split? i with
      | none => .goto (s.tryLater key i)
      | some sp =>
        if s.breakHit g sp then s.after (execPcBreakStop g.core g.slot i)
        else
          match s.fetchInstr g sp with
          | .fail c => .goto ((s.takeTrap key i { cause := c, epc := sp.pc }).spend g.issueSlot key i)
          | .wait s1 => .goto ((s1.block key i).tryLater key i)
          | .ok ins s1 => .issue ins { s1 with cur := (key, i) } key i

/-- A look at a split's next instruction (R98): one that is not fetched is waited for. -/
def State.lookTodo (s : State) (key i : Nat) : Todo :=
  match s.group? key with
  | none => .goto (s.tryLater key i)
  | some g =>
    match g.split? i with
    | none => .goto (s.tryLater key i)
    | some sp =>
      if s.breakHit g sp then .goto (s.found key i .none)
      else
        match s.fetchInstr g sp with
        | .fail _ => .goto (s.found key i .none)
        | .wait s1 => .goto ((s1.block key i).tryLater key i)
        | .ok ins s1 => .look ins { s1 with cur := (key, i) } s key i

/-- Events of other units that can make a waiting split trap: those of the mooring entry that it redeems (R256, R257). -/
def redeemEvents (g : Group) (x : Split) : List (State → Out) :=
  let ends := fun (slice entry : Nat) => [execTicketSnapshotComplete slice entry, execTicketDeliveryComplete slice entry]
  match x.wait with
  | .redeem slice entry => ends slice entry
  | .held seq => g.infl.flatMap (fun a => if a.seq != seq then [] else match a.kind with | .delivery slice entry => ends slice entry | _ => [])
  | _ => []

/-- The split that has trapped in a group from one state to the next. -/
def State.trapIn (s t : State) (key : Nat) : Option Nat :=
  match mapFind key t.fresh with
  | some ((i, x), g) => if mapFind key s.fresh = some ((i, x), g) then none else some i
  | none => none

/-- The first of some events by which a split of a group below split `i` traps. -/
def firstTrap (s : State) (key i : Nat) : List (State → Out) → Option State
  | [] => none
  | f :: t =>
    match f s with
    | .next s1 => (match s.trapIn s1 key with | some j => if j < i then some s1 else firstTrap s key i t | none => firstTrap s key i t)
    | _ => firstTrap s key i t

/-- A trap that a lower-indexed split of a group would take in this cycle, before a higher one's: of two traps in one cycle the lower
split's is taken (R97). -/
def State.lowerFirst (s : State) (key i : Nat) : Option State :=
  match s.group? key with
  | none => none
  | some g => firstTrap s key i ((g.splits.filter (fun x => decide (x.idx < i))).flatMap (fun x => splitEvents g x ++ redeemEvents g x))

/-- An event of the machine's own carried out: where a split traps by it, a lower one of its group that would trap too comes first (R97). -/
def State.lowestTrap (s t : State) : State :=
  match t.fresh.findSome? (fun e => (s.trapIn t e.1).map (fun i => (e.1, i))) with
  | some (k, i) => (s.lowerFirst k i).getD t
  | none => t

/-- The next instruction of a Lens program (R384). A program that the loader took ends in a verdict; a record whose program has no
instruction left goes on to the next session. -/
def State.lensTodo (s : State) (r : LensRun) : Todo :=
  match r.prog[r.pc]? with
  | none => .goto (s.startLens r.record r.rest)
  | some w => match decodeLens w with | .ok i => .run i s | .error _ => .goto (s.startLens r.record r.rest)

/-- What goes on while the compute dies are held in reset: the standby takes over, and completion and trace records leave (R351, R381, R424). -/
def State.leaving (s : State) : Option State :=
  firstEffect s ((if s.day.down then [execDaymarkFailover] else []) ++ (if s.fifo.isEmpty then [] else [execCompletionRecordRelease]) ++
    (if s.records.isEmpty then [] else [execTraceRecordAccept 0]))

/-- The next step: an arranged event first; then a Lens program in progress; then stops, aborts and shares; then a look at the splits that
could not issue before; then an issue; then a look at the splits whose slot has picked another; then an event of the machine's own; then
the passing of a cycle. While a die is at the last thermal step, records leave and time passes (R424); a start that is due follows once
they have left (R420). -/
def State.todo (s : State) : Todo :=
  match s.agenda with
  | i :: t => .run i { s with agenda := t }
  | [] =>
    if s.startDue || s.hot.any (fun e => e.2 == 3) then
      match s.leaving with
      | some s1 => .goto s1
      | none => .goto (if s.startDue then s.startNow else s.tick)
    else
      match s.lens with
      | some r => s.lensTodo r
      | none =>
        match s.upkeep with
        | some s1 => .goto s1
        | none =>
          match s.waking with
          | some (k, i) => s.lookTodo k i
          | none =>
            match s.pickIssue with
            | some (k, i) => (match s.lowerFirst k i with | some s1 => .goto s1 | none => s.issueTodo k i)
            | none =>
              match s.unseen with
              | some (k, i) => s.lookTodo k i
              | none => match firstEffect s s.autos with | some s1 => .goto (s.lowestTrap s1) | none => .goto s.tick

end Sys2Proof.Machine
end

