-- ==== Sys2Proof/Machine/Step.lean ====
section
/-! DEFINITION. One step of the machine. -/

namespace Sys2Proof.Machine

/-- One step: what `State.todo` says comes next. -/
def step (s : State) : Host.Outcome State Fault Refusal :=
  match s.todo with
  | .run i s1 => exec i s1
  | .issue i s1 key idx =>
    match exec i s1 with
    | .next s2 => .next (s2.afterIssue s1 key idx)
    | .fault f => .fault f
    | .refused r => .refused r
  | .look i s1 back key idx => .next (match exec i s1 with | .next s2 => back.looked s2 key idx | _ => back.tryLater key idx)
  | .goto s1 => .next s1

/-- The state with an instruction placed where the next step fetches it. -/
def State.withFetchWord (s : State) (nbits w : Nat) : State := s.placeWords nbits w

end Sys2Proof.Machine
end

