-- ==== Sys2Proof/Safety.lean ====
section
/-! DEFINITION. The words that the claims use: what a step that does not stop the machine is, when an instruction reaches its own
effect, and what such an effect leaves as it was. -/

namespace Sys2Proof.Safety

open Sys2Proof.Machine

/-- The machine goes on. -/
def runs (s : State) : Prop := ∃ t, step s = .next t

/-- DRAM is in canonical form. -/
def memOk (s : State) : Prop := Memory.wf s.mem = true

/-! ## When an instruction reaches its own effect -/

/-- The executing split of `s` is that of `fr`, and nothing comes before the instruction's own effect: it passes the decode checks
(R70), waits for no operand (R73), reads no uncorrectable word (R357), triggers no recorded fault (R187), and breaks no stall
contract that the checking scoreboard checks (R75). -/
structure Reaches (s : State) (h : Head) (u : Use) (fr : Fr) : Prop where
  executor : s.frame? h = some fr
  decodes : decodeCause fr.g u = none
  operands : fr.operandsPending u = false
  storage : fr.badOperand u = false
  faults : fr.deferredHit u = false
  stall : fr.undersized u = false

/-! ## What stays as it was -/

/-- The state registers and modes of a group that only system instructions, traps and returns write (R197 to R201, R206). -/
def special (g : Group) :=
  ((g.cause, g.epc, g.epc2, g.eregion, g.ecount, g.tvec), (g.scheck, g.role, g.hdepth, g.trapSplit, g.domain, g.privileged),
    (g.core, g.slot, g.launch, g.crew, g.gidx, g.nv, g.ns), g.absent, g.status)

/-- Nothing but the groups and what issuing an instruction notes down has changed: all of memory, the buffers, every other unit and
every launch are as before. -/
def onlyGroups (s t : State) : Prop :=
  t = { s with groups := t.groups, issued := t.issued, walkFails := t.walkFails, free := t.free, fresh := t.fresh }

/-- Every group but one is as it was. -/
def othersKept (s t : State) (key : Nat) : Prop := ∀ k, k ≠ key → t.group? k = s.group? k

/-- What a transfer, a wait or a register write leaves of a split's record (R89). -/
def splitKept (a b : Split) : Prop :=
  b.idx = a.idx ∧ b.mask = a.mask ∧ b.age = a.age ∧ b.tokens = a.tokens ∧ b.falls = a.falls ∧ b.region = a.region ∧ b.ecount = a.ecount

/-! ## Registers after writes -/

/-- A vector register of a lane after register writes. -/
def vecAfter (ws : List Wr) (r l : Nat) (old : Word) : Word :=
  ws.foldl (fun w x => match x with
    | .v q vals => if q = r then vals.foldl (fun w e => if e.1 = l then e.2 else w) w else w
    | _ => w) old

/-- A scalar register after register writes. -/
def scalAfter (ws : List Wr) (r : Nat) (old : Word) : Word :=
  ws.foldl (fun w x => match x with | .s q v => if q = r then v else w | _ => w) old

/-- A predicate trit of a lane after register writes. -/
def predAfter (ws : List Wr) (r l : Nat) (old : Trit) : Trit :=
  ws.foldl (fun w x => match x with
    | .p q vals => if q = r then vals.foldl (fun w e => if e.1 = l then e.2 else w) w else w
    | _ => w) old

/-- A group after the register writes `ws` and the flags `fl` of its split `fr.sp`, whose record is now `x`: every register that
`ws` does not name, every other split and every state register are as they were (R61, R48). -/
def GroupAfter (fr : Fr) (ws : List Wr) (fl : Flags) (x : Split) (g : Group) : Prop :=
  g.split? fr.sp.idx = some x ∧ (∀ j, j ≠ fr.sp.idx → g.split? j = fr.g.split? j) ∧
  (∀ r l, r < 80 → l < 32 → g.vreg r l = vecAfter ws r l (fr.g.vreg r l)) ∧
  (∀ r, r < 80 → g.sreg r = scalAfter ws r (fr.g.sreg r)) ∧
  (∀ r l, l < 32 → g.preg r l = predAfter ws r l (fr.g.preg r l)) ∧
  g.allFlags = fr.g.allFlags.or fl ∧ special g = special fr.g

/-- The whole effect of an instruction that writes registers, transfers control or begins a wait: where its split goes on, what it
waits for, its register writes and its flags; and nothing else. -/
def Effect (fr : Fr) (pc : Addr) (wait : Wait) (ws : List Wr) (fl : Flags) (t : State) : Prop :=
  (∃ g x, t.group? fr.key = some g ∧ GroupAfter fr ws fl x g ∧ x.pc = pc ∧ x.wait = wait ∧ splitKept fr.sp x) ∧
  othersKept fr.s t fr.key ∧ onlyGroups fr.s t

/-- The PC past an instruction of `n` words (R55). -/
def past (fr : Fr) (n : Int) : Addr := pcAdd fr.sp.pc n

/-- The flags of several lanes together (R48). -/
def orFlags (fs : List Flags) : Flags := fs.foldr Flags.or .none

/-- What an instruction does whose lanes each compute one word (R116 to R118): with no active lane nothing but the PC changes; where
every lane has a result, all are written, and their flags are added; where one has none, the lowest such lane traps precisely, and
nothing is written. -/
def ComputesAt (i : Instr) (s : State) (fr : Fr) (len : Int) (vec : Bool) (d : Nat)
    (lane : Fr → Nat → Except Cause (Word × Flags)) : Prop :=
    (fr.any = false → ∃ t, exec i s = .next t ∧ Effect fr (past fr len) .none [] .none t) ∧
    (∀ (x : Nat → Word) (fl : Nat → Flags), fr.any = true → (∀ l ∈ fr.formLanes vec, lane fr l = .ok (x l, fl l)) →
      ∃ t, exec i s = .next t ∧ Effect fr (past fr len) .none
        [formWr vec d ((fr.formLanes vec).map (fun l => (l, x l)))] (orFlags ((fr.formLanes vec).map fl)) t) ∧
    (∀ pre l post c, fr.any = true → fr.formLanes vec = pre ++ l :: post → (∀ k ∈ pre, ∃ r, lane fr k = .ok r) →
      lane fr l = .error c → exec i s = .next (fr.s.takeTrap fr.key fr.sp.idx (fr.trap c l)))

/-- An instruction computes so in every state in which it reaches its own effect. -/
def Computes (i : Instr) (h : Head) (u : Use) (len : Int) (vec : Bool) (d : Nat)
    (lane : Fr → Nat → Except Cause (Word × Flags)) : Prop :=
  ∀ s fr, Reaches s h u fr → ComputesAt i s fr len vec d lane

/-- An instruction that reads the lanes `named` of register `r` across the split (R130): it traps where one of those words is
uncorrectable (R357) or is read too early under the checking scoreboard (R75), and computes otherwise. -/
def ComputesAcross (i : Instr) (h : Head) (u : Use) (vec : Bool) (d r : Nat) (named : Fr → List Nat)
    (lane : Fr → Nat → Except Cause (Word × Flags)) : Prop :=
  ∀ s fr, Reaches s h u fr →
    (∀ c, fr.acrossCause r (named fr) = some c → exec i s = .next (fr.s.takeTrap fr.key fr.sp.idx (fr.trap c))) ∧
    (fr.acrossCause r (named fr) = none → ComputesAt i s fr 1 vec d lane)

/-- What an instruction does that gives each active lane of a predicate register a trit (R117). -/
def SetsPredicate (i : Instr) (h : Head) (u : Use) (d : Nat) (trit : Fr → Nat → Int) : Prop :=
  ∀ s fr, Reaches s h u fr → ∃ t, exec i s = .next t ∧
    Effect fr (past fr 1) .none [.p d (fr.lanes.map (fun l => (l, Tern.ofInt 1 (trit fr l))))] .none t

/-- What a lane of a block -3 form computes from the elements of A, B and D (R115, R116). -/
def byElement (f : RFmt) (op : Nat → Int → Int → Int → ElemRes) (fr : Fr) (l : Nat) : Except Cause (Word × Flags) :=
  let n := shapeBits f.shape
  let vec := f.src != 0
  mapWord n (shapeCount f.shape) fun j => op n (el (fr.readForm vec 1 f.a.index l n) j n)
    (el (fr.readForm (f.src == -1) 2 f.b.index l n) j n) (el (fr.readForm vec 0 f.d.index l n) j n)

/-- What a lane of an immediate form computes from the elements of A and the immediate (R136, R137). -/
def byImmediate (f : IFmt) (op : Nat → Int → Int → ElemRes) (fr : Fr) (l : Nat) : Except Cause (Word × Flags) :=
  mapWord (kBits f.k) (kCount f.k) fun j => op (kBits f.k) (el (fr.readForm (kVec f.k) 1 f.a.index l (kBits f.k)) j (kBits f.k)) f.imm7

/-- The words of a float result in several lanes as register writes. -/
def floatWrites (f : RFmt) (n : Nat) (lanes : List Nat) (x : Nat → List Word) : List Wr :=
  partWr (f.src != 0) (wordParts f.d.index n (lanes.map (fun l => (l, x l))))

/-- What a float instruction of fixed latency does (R145): as `Computes`, with results of `n` words. -/
def ComputesF (i : Instr) (f : RFmt) (u : Use) (n : Nat) (lane : Fr → Nat → Except Cause (List Word × Flags)) : Prop :=
  ∀ s fr, Reaches s f.h u fr →
    let lanes := fr.formLanes (f.src != 0)
    (fr.any = false → ∃ t, exec i s = .next t ∧ Effect fr (past fr 1) .none [] .none t) ∧
    (∀ (x : Nat → List Word) (fl : Nat → Flags), fr.any = true → (∀ l ∈ lanes, lane fr l = .ok (x l, fl l)) →
      ∃ t, exec i s = .next t ∧ Effect fr (past fr 1) .none (floatWrites f n lanes x) (orFlags (lanes.map fl)) t) ∧
    (∀ pre l post c, fr.any = true → lanes = pre ++ l :: post → (∀ k ∈ pre, ∃ r, lane fr k = .ok r) → lane fr l = .error c →
      exec i s = .next (fr.s.takeTrap fr.key fr.sp.idx (fr.trap c l)))

/-- What an instruction of a long-latency unit does (R119, R146): where the unit is free and every lane has a result, the results wait
in the unit, which accepts nothing for `busy` cycles, and no register changes yet; a lane without one traps precisely; with no active
lane nothing but the PC changes. -/
def GoesToUnit (i : Instr) (f : RFmt) (u : Use) (unit_ busy : Nat) (lane : Fr → Nat → Except Cause (List Word × Flags)) : Prop :=
  ∀ s fr, Reaches s f.h u fr →
    let vec := f.src != 0
    let lanes := fr.formLanes vec
    (fr.any = false → ∃ t, exec i s = .next t ∧ Effect fr (past fr 1) .none [] .none t) ∧
    (∀ (x : Nat → List Word) (fl : Nat → Flags), fr.any = true → fr.unitFree unit_ = true → (∀ l ∈ lanes, lane fr l = .ok (x l, fl l)) →
      ∃ t g, exec i s = .next t ∧ t.group? fr.key = some g ∧
        g.longs.getLast? = some { split := fr.sp.idx, lanes := fr.sp.ownLanes, vec := vec, flags := orFlags (lanes.map fl), float := unit_ == 1
                                  parts := wordParts f.d.index (if unit_ = 1 then fmtWords f.shape else 1) (lanes.map (fun l => (l, x l))) } ∧
        t.units = mapInsert (unitKey fr.g.issueSlot unit_) (fr.s.now + busy) fr.s.units ∧
        Effect fr (past fr 1) .none [] .none { t with units := fr.s.units }) ∧
    (∀ pre l post c, fr.any = true → fr.unitFree unit_ = true → lanes = pre ++ l :: post → (∀ k ∈ pre, ∃ r, lane fr k = .ok r) →
      lane fr l = .error c → exec i s = .next (fr.s.takeTrap fr.key fr.sp.idx (fr.trap c l)))

/-! ## Traps, splits and groups -/

/-- Every register, flag and predicate of a group as it was, and every state register (R61, R86). -/
def regsKept (g g' : Group) : Prop :=
  g'.v = g.v ∧ g'.s = g.s ∧ g'.p = g.p ∧ g'.allFlags = g.allFlags ∧ special g' = special g

/-- A split record but for the results that a later instruction of the split may not yet read (R71). -/
def settledSplit (x : Split) : Split := { x with pend := [] }

/-- Group `key` enters its handler for a trap of split `i` (R205 step 2, R97): the saved registers hold the cause, the EPC and the
region state, the split goes on at TVEC, and everything else stands. -/
def EntersHandler (s t : State) (key i : Nat) (ti : TrapInfo) : Prop :=
  ∃ g sp g' x, s.group? key = some g ∧ g.split? i = some sp ∧ t.group? key = some g' ∧ g'.split? i = some x ∧
    x.pc = g.tvec ∧ x.mask = sp.mask ∧ x.region = none ∧ x.tokens = sp.tokens ∧ x.falls = sp.falls ∧ x.wait = .none ∧
    g'.hdepth = 1 ∧ g'.trapSplit = some i ∧ g'.status = g.status ∧
    g'.cause = causeWord ti.cause.code ti.lane i 0 ti.info 0 ∧ g'.epc = ti.epc ∧ g'.epc2 = azero ∧
    g'.eregion = sp.region.getD azero ∧ g'.ecount = (if sp.region.isSome then sp.ecount else wzero) ∧
    g'.tvec = g.tvec ∧ g'.scheck = g.scheck ∧ g'.role = g.role ∧ g'.domain = g.domain ∧ g'.privileged = g.privileged ∧
    g'.v = g.v ∧ g'.s = g.s ∧ g'.p = g.p ∧ g'.fstat = g.allFlags ∧ g'.late = [] ∧
    (∀ j, (∃ x, g.split? j = some x) → j ≠ i → j ∈ g'.heldSplits) ∧ i ∉ g'.heldSplits ∧ (∀ j ∈ g'.heldSplits, g'.holds j = true) ∧
    (∀ j, j ≠ i → (g'.split? j).map settledSplit = (g.split? j).map settledSplit) ∧
    othersKept s t key ∧ onlyGroups s t

/-- A group that enters its handler when a trap of cause `c` reaches it: it is no walker, the cause goes to the group, it is outside a
handler and not stopped for a machine cause, and a handler address is set (R205, R353, R355). -/
def takesToHandler (s : State) (g : Group) (c : Cause) : Prop :=
  g.isWalker = false ∧ g.machineStopped = false ∧ s.toHandler g.launch c = true ∧ g.hdepth = 0 ∧ g.tvec ≠ azero

/-- A split's wait ends and nothing else changes. -/
def Released (s t : State) (key i : Nat) : Prop :=
  ∃ g x g', s.group? key = some g ∧ g.split? i = some x ∧ t.group? key = some g' ∧ g'.split? i = some { x with wait := .none } ∧
    (∀ j, j ≠ i → g'.split? j = g.split? j) ∧ regsKept g g' ∧ othersKept s t key ∧ onlyGroups s t

/-- The group of a state keeps its registers while its splits change as `P` says; nothing else changes. -/
def SplitsChange (fr : Fr) (t : State) (P : Group → Prop) : Prop :=
  ∃ g, t.group? fr.key = some g ∧ regsKept fr.g g ∧ P g ∧ othersKept fr.s t fr.key ∧ onlyGroups fr.s t

/-- The side logs hold the same entries as before, but for the splits and the order that a change of splits gives them (R96). -/
def logsKept (s t : State) : Prop :=
  t.sideLog.map (fun e => { e with split := 0, before := [], joined := [] }) = s.sideLog.map (fun e => { e with split := 0, before := [], joined := [] })

/-- The splits of a group divide or merge as `P` says: as `SplitsChange`, and the side logs are kept. -/
def SplitsShift (fr : Fr) (t : State) (P : Group → Prop) : Prop :=
  SplitsChange fr { t with sideLog := fr.s.sideLog } P ∧ logsKept fr.s t

/-! ## Stores -/

/-- The DRAM bytes in which the tryte of a place lies (R168, R169). -/
def locBytes : Loc → List Nat
  | .packed f pos =>
    let i := pos % 243
    (List.range ((9 * i + 8) / 5 - 9 * i / 5 + 1)).map (fun k => tileAddr f (pos / 243) + 9 * i / 5 + k)
  | .binary f pos => [frameAddr f + pos]
  | _ => []

/-- The DRAM bytes that a write to a place may change: its own, the TAG bytes of a packed tile where a key is or was in force for it, and
the STATUS byte of one whose tag had failed (R168, R414). -/
def writtenBytes (s : State) (l : Loc) : List Nat :=
  locBytes l ++ (match l with
    | .packed f pos =>
      (if s.frameKeyId f = 0 ∧ mapGet 0 s.sealed (tileCoord f (pos / 243)) = 0 then [] else (List.range 8).map (fun k => tileAddr f (pos / 243) + 438 + k)) ++
        (if s.sealOk f (pos / 243) then [] else [tileAddr f (pos / 243) + 446])
    | _ => [])

/-- The buffer word and the tryte of it that a place is. -/
def bufTryte : Loc → Option (Nat × Nat)
  | .buf core path idx => some (bufKey core path (idx / 3), idx % 3)
  | _ => none

/-- Every byte of DRAM, every tryte of a buffer, every byte of host memory and every tryte of another device is as before, but for those
of the places `locs`. -/
def storesOnly (s t : State) (locs : List Loc) : Prop :=
  (∀ a, (∀ l ∈ locs, a ∉ writtenBytes s l) → memByte t.mem a = memByte s.mem a) ∧
  (∀ k j, j < 3 → (∀ l ∈ locs, bufTryte l ≠ some (k, j)) →
    (mapGet wzero t.bufs k).field (9 * j) 9 = (mapGet wzero s.bufs k).field (9 * j) 9) ∧
  (∀ a, (∀ l ∈ locs, ∀ p, l ≠ .host p a) → mapFind a t.hostMem = mapFind a s.hostMem) ∧
  (∀ k, (∀ l ∈ locs, ∀ d x, l = .peer d x → d * 3 ^ 54 + x ≠ k) → mapFind k t.peerMem = mapFind k s.peerMem)

/-- A place in a packed frame of DRAM or in a typed buffer. -/
def plain : Loc → Prop
  | .packed f pos => f < frameCount ∧ pos < 59049
  | .buf core path idx => core < 256 ∧ path < 3 ∧ idx < 177147
  | _ => False

/-- Places of `n` trytes, each once, in packed DRAM or in buffer words without an uncorrectable error. -/
def placed (s : State) (locs : List Loc) (n : Nat) : Prop :=
  locs.Nodup ∧ locs.length = n ∧ ∀ l ∈ locs, plain l ∧ ∀ k, l.bufWordKey = some k → mapGet 0 s.badBufs k < 2

/-- A state with the stores of memory and the caches of an earlier one: what is compared where an instruction also stores. -/
def unstored (t s : State) : State :=
  { t with mem := s.mem, hostMem := s.hostMem, peerMem := s.peerMem, bufs := s.bufs, badBufs := s.badBufs, sealed := s.sealed
           l1 := s.l1, l2 := s.l2, l2tags := s.l2tags, badL2 := s.badL2, moved := s.moved }

/-! ## Accesses -/

/-- A state with the translation buffers, the side logs and the requests to the processors and to this device itself of an earlier one:
what is compared where an access is issued. -/
def unissued (t s : State) : State :=
  { t with tlbs := s.tlbs, sideLog := s.sideLog, asks := s.asks, inbound := s.inbound, nextReq := s.nextReq }

/-- The issue of a load, store or atomic (R176, R177, R184): no active lane changes nothing but the PC; a failing check traps; otherwise
the access is in flight with the places and the data that its checks computed, the lanes whose page is absent are in the side log, and no
register and no byte of memory has changed. A store or reduction all of whose lanes are in the side log has returned. -/
def Issues (i : Instr) (h : Head) (u : Use) (m : MemOp) (len : Nat) (pre : Fr → Prop) (check : Fr → Except Cause (Option Rec))
    (rq : Option Rec → Req) : Prop :=
  ∀ s fr, Reaches s h u fr →
    let lanes := if m.vec then fr.lanes else [0]
    let traps := fun (ti : TrapInfo) => exec i s = .next (fr.s.takeTrap fr.key fr.sp.idx ti)
    (fr.any = false → ∃ t, exec i s = .next t ∧ Effect fr (past fr (len : Int)) .none [] .none t) ∧
    (∀ c, fr.any = true → pre fr → check fr = .error c → traps (fr.trap c)) ∧
    (∀ r ti, fr.any = true → pre fr → check fr = .ok r → checkLanes fr (fr.g.agent fr.sp.idx) m r (rq r) lanes = .error (.trap ti) → traps ti) ∧
    (∀ r ls, fr.any = true → pre fr → check fr = .ok r → checkLanes fr (fr.g.agent fr.sp.idx) m r (rq r) lanes = .ok ls →
      let here := ls.filter (fun x => (placeLocs x.run x.places).isSome)
      let logged := (ls.filter (fun x => (placeLocs x.run x.places).isNone)).flatMap (fun x => x.entries fr.s fr.g fr.sp m fr.g.nextSeq)
      let counters := ls.flatMap (fun x => x.addrs.map (fun a => pathCounter (addrPath a) (ownBuf a && !fr.g.isSeq) m.kind.logs))
      (∀ c ∈ counters, fr.g.inflight c < 81) → (fr.s.sideLog.filter (fun e => e.core == fr.g.core)).length + logged.length ≤ 729 →
      (m.kind.logs = true → here = [] →
        ∃ t w g, exec i s = .next t ∧ t.sideLog = fr.s.sideLog ++ logged ∧ t.group? fr.key = some g ∧
          (∀ a ∈ g.infl, a.seq = fr.g.nextSeq → a.done = true) ∧ (w = .none ∨ ∃ k, w = .watched k) ∧
          ((∀ x ∈ ls, x.events = []) → Effect fr (past fr (len : Int)) w [] .none { unissued t fr.s with l1 := fr.s.l1 })) ∧
      ((m.kind.logs = true → here ≠ []) →
       ∃ t w g a, exec i s = .next t ∧ Effect fr (past fr (len : Int)) w [] .none (unissued t fr.s) ∧
        (w = .none ∨ w = .held fr.g.nextSeq) ∧ t.sideLog = fr.s.sideLog ++ logged ∧ (here = ls → t.asks = fr.s.asks) ∧
        ((∀ x ∈ a.lanes, x.own fr.s = false) → t.inbound = fr.s.inbound) ∧ t.group? fr.key = some g ∧ a ∈ g.infl ∧
        a.seq = fr.g.nextSeq ∧ a.kind = m.kind ∧ a.pc = fr.sp.pc ∧ a.split = fr.sp.idx ∧ a.done = false ∧ (∀ c ∈ counters, c ∈ a.counters) ∧
        a.dest = (if m.kind.loads then some ⟨m.vec, m.d, if m.size = 6 then 2 else 1⟩ else none) ∧
        a.lanes.map (fun x => (x.lane, x.locs, x.data)) = here.map (fun x => (x.lane, (placeLocs x.run x.places).getD [], x.data))))

/-- The register writes of a returned access: the words of each lane that no later instruction has written (R74, R191). -/
def returnWrites (a : Access) (vals : List (Nat × List Word)) : List Wr :=
  match a.dest with
  | none => []
  | some d => (List.range d.words).flatMap fun i =>
    let xs := (vals.filter (fun e => a.writable (d.reg + i) e.1)).map (fun e => (e.1, e.2.getD i wzero))
    if d.vec then [.v (d.reg + i) xs] else (xs.take 1).map (fun e => .s (d.reg + i) e.2)

/-- Access `a` of group `g` has returned with the register writes `ws`: its counters fall and its split is released where it was held
(R184), and nothing else of any group changes. -/
def Returned (s t : State) (g : Group) (a : Access) (ws : List Wr) : Prop :=
  ∃ g', t.group? g.key = some g' ∧
    (∀ r l, r < 80 → l < 32 → g'.vreg r l = vecAfter ws r l (g.vreg r l)) ∧ (∀ r, r < 80 → g'.sreg r = scalAfter ws r (g.sreg r)) ∧
    g'.p = g.p ∧ g'.allFlags = g.allFlags ∧ special g' = special g ∧ g'.faults = g.faults ∧ g'.infl = (g.finish a).infl ∧
    g'.splits.map settledSplit = (g.finish a).splits.map settledSplit ∧ othersKept s t g.key

/-- Nothing but groups, memory and caches has changed, and what group `key` is charged for the tiles that it has moved (R399). -/
def onlyMemory (s t : State) (key : Nat) : Prop :=
  ∃ (u : State) (n : Nat), t = u.chargeTiles key n ∧
    u = { s with groups := t.groups, mem := t.mem, hostMem := t.hostMem, peerMem := t.peerMem, bufs := t.bufs, badBufs := t.badBufs
                 sealed := t.sealed, l1 := t.l1, l2 := t.l2, l2tags := t.l2tags, badL2 := t.badL2, free := t.free
                 moved := u.moved }

/-- The lanes of a load look their tiles up alike and do not meet one tile as two (R171), and its L1 keeps each copy that it finds: there
is room, or it finds none (R172). -/
def l1Steady (s : State) (core : Nat) (las : List LaneAcc) : Prop :=
  (∀ x ∈ las, ∀ y ∈ las, x.l1 = y.l1) ∧
  (∀ x ∈ las, ∀ y ∈ las, ∀ e ∈ tilesOf x.locs, ∀ e' ∈ tilesOf y.locs, tileCoord e.1 e.2.1 = tileCoord e'.1 e'.2.1 → e = e') ∧
  ((s.l1.filter (fun x => x.core == core)).length + (las.map (fun la => (tilesOf la.locs).length)).sum ≤ l1Tiles ∨
    ∀ la ∈ las, ∀ e ∈ tilesOf la.locs, ∀ x ∈ s.l1, x.core = core → x.tile ≠ tileCoord e.1 e.2.1)

/-! ## Words -/

/-- A word from its trits as the spec writes them, trit 26 first (R4). -/
def wordOf (ts : List Int) : Word := Tern.ofIndex 27 (ts.foldl (fun n t => 3 * n + (t + 1).toNat) 0)

/-- The bytes of an instruction's words as memory holds them: six P5 bytes a word, the first word first (R53, R168). -/
def codeBytes (ws : List Word) : List (BitVec 8) := ws.flatMap Machine.p5enc

/-- The words of a tryte barrier (R275, R276): COUNT is the low 26 trits; an arrival takes trytes off a COUNT that has as many, marks
BARRIER_UNDERFLOW in one that has not, and a fault its code; a negative COUNT, which is such a mark, stays, and PHASE always stays. -/
def BarrierWords : Prop :=
  ∀ (w : Word) (n code : Nat), code ≤ 96 →
    w.val = barrierCount w + 3 ^ 26 * w.trit 26 ∧
    (arriveWord w n).trit 26 = w.trit 26 ∧ (faultWord w code).trit 26 = w.trit 26 ∧
    (barrierCount w < 0 → arriveWord w n = w ∧ faultWord w code = w) ∧
    (0 ≤ barrierCount w → barrierCount (faultWord w code) = -(code : Int) ∧
      barrierCount (arriveWord w n) = if (n : Int) ≤ barrierCount w then barrierCount w - n else -50)

/-! ## Exact values and rounding -/

/-- An integer nearest to a real number, the one of smaller magnitude where two are as near (`trunc` of R32, R41). -/
def Nearest (m : Int) (y : ℝ) : Prop := 2 * |y - m| ≤ 1 ∧ (2 * |y - m| = 1 → |(m : ℝ)| ≤ |y|)

/-- The exponent of a nonzero real number: 0.5 · 3^e < |x| ≤ 1.5 · 3^e (R40, R316). -/
def ExpOf (x : ℝ) (e : Int) : Prop := (3 : ℝ) ^ e < 2 * |x| ∧ 2 * |x| ≤ (3 : ℝ) ^ (e + 1)

/-- A float value is the real number `x`. -/
def IsReal (v : FVal) (x : ℝ) : Prop := ∃ m k, v = .fin m k ∧ x = m * (3 : ℝ) ^ k

/-- What `fpack` answers for the exact value `x` (R40, R41, R45): the exponent of `x`, the nearest significand at that exponent, and the
flags; the ends of the exponent range as the overflow mode says. -/
def Packs (F : Fmt) (o : OvfMode) (x : ℝ) (r : Except Cause (Int × Flags)) : Prop :=
  (x = 0 → r = .ok (0, .none)) ∧
  ∀ (e m : Int) (neg inexact : Bool), ExpOf x e → Nearest m (x / (3 : ℝ) ^ (e - (F.f : Int))) → (neg = true ↔ x < 0) →
    (inexact = true ↔ m * (3 : ℝ) ^ (e - (F.f : Int)) ≠ x) →
    let l : Int := if neg then -1 else 1
    (F.emax < e → r = match o with
      | .trap => .error .floatOverflow
      | .saturate => .ok (maxFinite F neg, ⟨false, true, false, true⟩)
      | .toInf => .ok (infCode F neg, ⟨false, true, false, true⟩)) ∧
    (e < -F.emax → r = .ok (0, ⟨false, false, true, true⟩)) ∧
    (-F.emax ≤ e → e ≤ F.emax → r = .ok (mkCode F l e (m - l * 3 ^ F.f), ⟨false, false, false, inexact⟩))

/-- An operation yields the exact value `x`: packing its result packs `x`. -/
def Yields (r : FRes) (x : ℝ) : Prop := ∀ F o, Packs F o x (r.pack F o)

/-- The codes of the three formats (R36 to R38): what a code with given fields stands for, that every code has fields, and the codes of
the infinities, the canonical NaN and the largest finite values. -/
def FloatCodes : Prop :=
  (tf9.emax = 13 ∧ tf27.emax = 364 ∧ tf54.emax = 3280) ∧
  ∀ F ∈ [tf9, tf27, tf54],
    (∀ l e f : Int, (l = 1 ∨ l = -1) → |e| ≤ F.emax → |f| ≤ (half F.f : Int) →
      IsReal (fval F (mkCode F l e f)) ((l + f * (3 : ℝ) ^ (-(F.f : Int))) * (3 : ℝ) ^ e)) ∧
    (∀ e f : Int, |e| ≤ F.emax → |f| ≤ (half F.f : Int) →
      fval F (mkCode F 0 e f) = if e = 0 ∧ f = 0 then .fin 0 0 else if e = F.emax ∧ f = 1 then .inf false
        else if e = F.emax ∧ f = -1 then .inf true else .nan) ∧
    (∀ c, fits c F.n = true → ∃ l e f : Int, |l| ≤ 1 ∧ |e| ≤ F.emax ∧ |f| ≤ (half F.f : Int) ∧ c = mkCode F l e f) ∧
    fval F nanCode = .nan ∧ fval F (infCode F false) = .inf false ∧ fval F (infCode F true) = .inf true ∧
    IsReal (fval F (maxFinite F false)) ((half (F.f + 1) : ℝ) * (3 : ℝ) ^ (F.emax - (F.f : Int))) ∧
    IsReal (fval F (maxFinite F true)) (-((half (F.f + 1) : ℝ) * (3 : ℝ) ^ (F.emax - (F.f : Int))))

/-- Rounding (R40 to R43) of rationals and of square roots, and the table of exceptional cases (R45). -/
def FloatPacking : Prop :=
  (∀ F o (n : Int) (d : Nat) (k : Int), 0 < d → Packs F o ((n : ℝ) / d * (3 : ℝ) ^ k) (fpack F o (.rat n d k))) ∧
  (∀ F o (n d : Nat) (k : Int), 0 < d → Packs F o (Real.sqrt ((n : ℝ) / d * (3 : ℝ) ^ k)) (fpack F o (.root n d k))) ∧
  ∀ F o (neg : Bool), (FRes.inf neg).pack F o = .ok (infCode F neg, .none) ∧
    (o = .trap → FRes.nanOperand.pack F o = .error .nanConsumed ∧ FRes.invalid.pack F o = .error .floatInvalid ∧
      (FRes.divZero neg).pack F o = .error .divideByZero) ∧
    (o ≠ .trap → FRes.nanOperand.pack F o = .ok (nanCode, .none) ∧ FRes.invalid.pack F o = .ok (nanCode, .inv)) ∧
    (o = .toInf → (FRes.divZero neg).pack F o = .ok (infCode F neg, .ovf)) ∧
    (o = .saturate → (FRes.divZero neg).pack F o = .ok (maxFinite F neg, .ovf))

/-- Sums, products, fused products and scaling (R148, R154). -/
def FloatArith : Prop :=
  (∀ a b d x y z, IsReal a x → IsReal b y → IsReal d z →
    Yields (fadd a b) (x + y) ∧ Yields (fsub a b) (x - y) ∧ Yields (fmul a b) (x * y) ∧ Yields (fma a b d) (x * y + z) ∧
    ∀ n : Int, Yields (fscl a n) (x * (3 : ℝ) ^ n)) ∧
  (∀ a b d, (a = .nan ∨ b = .nan → fadd a b = .nanOperand ∧ fsub a b = .nanOperand ∧ fmul a b = .nanOperand) ∧
    (a = .nan ∨ b = .nan ∨ d = .nan → fma a b d = .nanOperand)) ∧
  (∀ (s t : Bool) a x, IsReal a x →
    fadd (.inf s) (.inf t) = (if s = t then .inf s else .invalid) ∧ fadd (.inf s) a = .inf s ∧ fadd a (.inf s) = .inf s ∧
    fsub (.inf s) (.inf t) = (if s = t then .invalid else .inf s) ∧ fsub (.inf s) a = .inf s ∧ fsub a (.inf s) = .inf (!s) ∧
    fmul (.inf s) (.inf t) = .inf (s != t) ∧ (x = 0 → fmul a (.inf s) = .invalid ∧ fmul (.inf s) a = .invalid) ∧
    (0 < x → fmul a (.inf s) = .inf s ∧ fmul (.inf s) a = .inf s) ∧ (x < 0 → fmul a (.inf s) = .inf (!s) ∧ fmul (.inf s) a = .inf (!s)) ∧
    ∀ b y, IsReal b y → fma a b (.inf s) = .inf s) ∧
  (∀ a b d, a ≠ .nan → b ≠ .nan → d ≠ .nan → (fmul a b = .invalid → fma a b d = .invalid) ∧
    ∀ s, fmul a b = .inf s → fma a b d = if d = .inf (!s) then .invalid else .inf s) ∧
  ∀ (s : Bool) (n : Int), fscl .nan n = .nanOperand ∧ fscl (.inf s) n = .inf s

/-- The order of values, the infinities at its ends; a NaN stands outside it (R150, R151). -/
def Below : FVal → FVal → Prop
  | .inf true, w => w ≠ .inf true ∧ w ≠ .nan
  | .fin _ _, .inf false => True
  | .fin m k, .fin n j => (m : ℝ) * (3 : ℝ) ^ k < n * (3 : ℝ) ^ j
  | _, _ => False

/-- Comparison, selection, inversion of every trit, exponent and class (R149 to R151, R155). What inverts a code inverts its exponent field too
(log 116). -/
def FloatSelect : Prop :=
  ∀ F ∈ [tf9, tf27, tf54], ∀ a b : Int,
    let v := fval F a
    let w := fval F b
    let zero := FVal.fin 0 0
    (v = .nan ∨ w = .nan → fcmpTrit F a b = (0, .inv)) ∧
    (v ≠ .nan → w ≠ .nan → (Below v w → fcmpTrit F a b = (-1, .none)) ∧ (Below w v → fcmpTrit F a b = (1, .none)) ∧
      (¬ Below v w → ¬ Below w v → fcmpTrit F a b = (0, .none))) ∧
    (∀ least : Bool, (v = .nan → w = .nan → fsel F least a b = a) ∧ (v = .nan → w ≠ .nan → fsel F least a b = b) ∧
      (v ≠ .nan → w = .nan → fsel F least a b = a) ∧ (Below v w → fsel F least a b = if least then a else b) ∧
      (Below w v → fsel F least a b = if least then b else a) ∧ (a = b → fsel F least a b = a)) ∧
    (v ≠ .nan → fneg F a = -a) ∧ (v = .nan → fneg F a = a) ∧ (Below v zero → fabs F a = -a) ∧ (¬ Below v zero → fabs F a = a) ∧
    (fits a F.n = true → ∀ i, i < F.n → Tern.tritOf (-a) i = -Tern.tritOf a i) ∧
    (Below v zero → v ≠ .inf true → fcls F a = -1) ∧ (Below zero v → v ≠ .inf false → fcls F a = 1) ∧
    (v = .inf true → fcls F a = -2 ∧ fexpo F a = F.emax + 1) ∧ (v = .inf false → fcls F a = 2 ∧ fexpo F a = F.emax + 1) ∧
    (v = .nan → fcls F a = 3 ∧ fexpo F a = F.emax + 2) ∧ (IsReal v 0 → fcls F a = 0 ∧ fexpo F a = -(F.emax + 1)) ∧
    ∀ x e, IsReal v x → ExpOf x e → fexpo F a = e

/-- Conversions to integers, integral values and other formats (R156 to R158); FTOI narrows as R35 says. -/
def FloatConvert : Prop :=
  ∀ F ∈ [tf9, tf27, tf54], ∀ a : Int,
    let v := fval F a
    (∀ x m, IsReal v x → Nearest m x → (∀ o, ftoi F o a = narrow o F.n m) ∧
      ∃ d, ∃ inexact : Bool, frnd F a = (d, if inexact then .inx else .none) ∧ IsReal (fval F d) m ∧ (inexact = true ↔ (m : ℝ) ≠ x)) ∧
    (∀ s, v = .inf s → frnd F a = (infCode F s, .none) ∧ ftoi F 1 a = .error .intOverflow ∧
      ∀ o, o ≠ 1 → ftoi F o a = .ok (if s then -(half F.n : Int) else (half F.n : Int), .ovf)) ∧
    (v = .nan → frnd F a = (nanCode, .none) ∧ ftoi F 1 a = .error .nanConsumed ∧ ∀ o, o ≠ 1 → ftoi F o a = .ok (0, .inv)) ∧
    ∀ G o, (∀ x, IsReal v x → Packs G o x (fcvt G F o a)) ∧ (∀ s, v = .inf s → fcvt G F o a = .ok (infCode G s, .none)) ∧
      (v = .nan → fcvt G F o a = .ok (nanCode, .none))

/-- What the float operations of fixed latency compute (R36 to R45, R148 to R159). -/
def FloatMeaning : Prop := FloatCodes ∧ FloatPacking ∧ FloatArith ∧ FloatSelect ∧ FloatConvert

/-- One part of a complex product (R160): formed exactly from its products and addend; with an infinite term it is that infinity, and with
none defined, or with both infinities, it is invalid. -/
def ComplexMeaning : Prop :=
  ∀ (a b c d : FVal) (minus : Bool) (e : Option FVal), a ≠ .nan → b ≠ .nan → c ≠ .nan → d ≠ .nan → e ≠ some .nan →
    let c' := if minus then c.neg else c
    (∀ x y z w u, IsReal a x → IsReal b y → IsReal c z → IsReal d w → (e = none → u = 0) → (∀ f, e = some f → IsReal f u) →
      Yields (cpart a b c d minus e) (if minus then x * y - z * w + u else x * y + z * w + u)) ∧
    (fmulV a b = none ∨ fmulV c' d = none → cpart a b c d minus e = .invalid) ∧
    ∀ p q, fmulV a b = some p → fmulV c' d = some q →
      let terms := p :: q :: e.toList
      (.inf true ∈ terms → .inf false ∈ terms → cpart a b c d minus e = .invalid) ∧
      ∀ s, .inf s ∈ terms → .inf (!s) ∉ terms → cpart a b c d minus e = .inf s

/-- Quotients, roots, powers and logarithms (R152, R153). -/
def FloatUnitMeaning : Prop :=
  (∀ a b x y, IsReal a x → IsReal b y →
    (y ≠ 0 → Yields (fdiv a b) (x / y)) ∧ (y = 0 → x = 0 → fdiv a b = .invalid) ∧ (y = 0 → 0 < x → fdiv a b = .divZero false) ∧
    (y = 0 → x < 0 → fdiv a b = .divZero true)) ∧
  (∀ (s t : Bool) a x, IsReal a x →
    fdiv (.inf s) (.inf t) = .invalid ∧ Yields (fdiv a (.inf s)) 0 ∧ (0 ≤ x → fdiv (.inf s) a = .inf s) ∧ (x < 0 → fdiv (.inf s) a = .inf (!s)) ∧
    (x ≠ 0 → Yields (frcp a) (1 / x)) ∧ (x = 0 → frcp a = .divZero false ∧ frsq a = .divZero false) ∧
    (0 ≤ x → Yields (fsqrt a) (Real.sqrt x)) ∧ (0 < x → Yields (frsq a) (1 / Real.sqrt x)) ∧ (x < 0 → fsqrt a = .invalid ∧ frsq a = .invalid) ∧
    Yields (fexp3 a) ((3 : ℝ) ^ x) ∧ (x ≤ 0 → flog3 a = .invalid)) ∧
  (∀ s, Yields (frcp (.inf s)) 0) ∧ fsqrt (.inf false) = .inf false ∧ fsqrt (.inf true) = .invalid ∧ Yields (frsq (.inf false)) 0 ∧
  frsq (.inf true) = .invalid ∧ Yields (fexp3 (.inf true)) 0 ∧ fexp3 (.inf false) = .inf false ∧ flog3 (.inf false) = .inf false ∧
  flog3 (.inf true) = .invalid ∧
  (∀ a, fdiv .nan a = .nanOperand ∧ fdiv a .nan = .nanOperand) ∧ frcp .nan = .nanOperand ∧ fsqrt .nan = .nanOperand ∧ frsq .nan = .nanOperand ∧
  fexp3 .nan = .nanOperand ∧ flog3 .nan = .nanOperand ∧
  ∀ F ∈ [tf9, tf27, tf54], ∀ c x, IsReal (fval F c) x → 0 < x → Yields (flog3 (fval F c)) (Real.logb 3 x)

/-! ## The numbers of the arrays -/

/-- The value of `fpack` of `x` in an array, and the event that it counts (R305, R316). -/
def PacksTally (F : Fmt) (toInf : Bool) (x : ℝ) (r : Int × Tally) : Prop :=
  ∃ c fl, Packs F (if toInf then .toInf else .saturate) x (.ok (c, fl)) ∧
    r = (c, if fl.overflow then (if toInf then Tally.ovfs 1 else Tally.sats 1) else if fl.flush then Tally.flushes 1 else Tally.zero)

/-- `wround` (R316) at precision `p`. -/
def WRound (p : Nat) (x y : ℝ) : Prop :=
  (x = 0 → y = 0) ∧ ∀ e q : Int, ExpOf x e → Nearest q (x / (3 : ℝ) ^ (e - p - 5)) → y = q * (3 : ℝ) ^ (e - p - 5)

/-- The windowed accumulation of chunks of products from a running value to the last (R316): a chunk's products are aligned at its largest
exponent and summed exactly, and each sum with the running value is rounded; a chunk of zeros is passed over. -/
def Windowed (p : Nat) : ℝ → List (List ℝ) → ℝ → Prop
  | r, [], y => y = r
  | r, c :: cs, y =>
    ((∀ x ∈ c, x = 0) → Windowed p r cs y) ∧
    ∀ (e : Int) (ts : List Int), (∃ x ∈ c, ExpOf x e) → (∀ x ∈ c, 2 * |x| ≤ (3 : ℝ) ^ (e + 1)) →
      List.Forall₂ (fun (t : Int) (x : ℝ) => Nearest t (x / (3 : ℝ) ^ (e - p - 5))) ts c →
      ∃ r', WRound p (r + ts.sum * (3 : ℝ) ^ (e - p - 5)) r' ∧ Windowed p r' cs y

/-- The sums of the arrays: chunks of 27 in list order, the windowed sum of one array, and the sums of several in rank order (R316,
R318). -/
def WindowMeaning : Prop :=
  (∀ l : List (Int × Int), (chunks27 l).flatten = l ∧ ∀ j c, (chunks27 l)[j]? = some c →
    c ≠ [] ∧ c.length ≤ 27 ∧ (j + 1 < (chunks27 l).length → c.length = 27)) ∧
  (∀ (p : Nat) (l : List (Int × Int)) (xs : List (List ℝ)),
    List.Forall₂ (List.Forall₂ (fun (a : Int × Int) (x : ℝ) => IsReal (.fin a.1 a.2) x)) (chunks27 l) xs →
    ∃ y, IsReal (.fin (windowSum p l).1 (windowSum p l).2) y ∧ Windowed p 0 xs y ∧ windowAll p [l] = windowSum p l) ∧
  (∀ (p : Nat) (ls : List (List (Int × Int))) (l : List (Int × Int)) (x y : ℝ), ls ≠ [] →
    IsReal (.fin (windowAll p ls).1 (windowAll p ls).2) x → IsReal (.fin (windowSum p l).1 (windowSum p l).2) y →
    ∃ z, IsReal (.fin (windowAll p (ls ++ [l])).1 (windowAll p (ls ++ [l])).2) z ∧ WRound p (x + y) z)

/-- One float element (R316): the special cases in their order, and otherwise the packed sum of the window and the incoming element. -/
def AccMeaning : Prop :=
  (∀ F p toInf (lists : List (List (Option FVal))) (c : Option FVal),
    let terms := lists.flatten ++ c.toList.map some
    let out := floatAcc F p toInf lists c
    let bad := none ∈ terms ∨ some .nan ∈ terms ∨ (some (.inf true) ∈ terms ∧ some (.inf false) ∈ terms)
    let w := windowAll p (lists.map (fun l => l.map finPart))
    (bad → out = (nanCode, Tally.nans 1)) ∧ (∀ s, ¬ bad → some (.inf s) ∈ terms → out = (infCode F s, Tally.zero)) ∧
    (¬ bad → (∀ s, some (.inf s) ∉ terms) → ∀ r z, IsReal (.fin w.1 w.2) r → (c = none → z = 0) → (∀ v, c = some v → IsReal v z) →
      PacksTally F toInf (r + z) out)) ∧
  ∀ F toInf (a b : FVal) x y, (a = .nan ∨ b = .nan → floatSum F toInf a b = (nanCode, Tally.nans 1)) ∧
    (IsReal a x → IsReal b y → PacksTally F toInf (x + y) (floatSum F toInf a b)) ∧
    ∀ s, (floatSum F toInf (.inf s) (.inf (!s)) = (nanCode, Tally.nans 1)) ∧ floatSum F toInf (.inf s) (.inf s) = (infCode F s, Tally.zero) ∧
      (IsReal a x → floatSum F toInf a (.inf s) = (infCode F s, Tally.zero) ∧ floatSum F toInf (.inf s) a = (infCode F s, Tally.zero))

/-- The elements that the matrix instructions write: `MMA` and `MMAC` from a row of A and a column of B on each array (R315 to R318), `MACC`
(R330), `MOUT` (R331), and the smoothing of `MLDW` (R319). -/
def MatrixMeaning : Prop :=
  (mxFmt (-1) = tf9 ∧ mxFmt (-2) = tf27 ∧ mxFmt (-3) = tf54 ∧ mxFmt (-4) = tf54) ∧ WindowMeaning ∧ AccMeaning ∧
  (∀ (ta tres : Int) prec fovf (rows cols : List (List (List Int))) (c : Option (List Int)),
    let pairs := rows.zip cols
    let out := mmaElem ta tres prec fovf rows cols c
    let old : Int := match c with | some x => x.getD 0 0 | none => 0
    let sums := pairs.map (fun p => ((p.1.zip p.2).map (fun q => q.1.getD 0 0 * q.2.getD 0 0)).sum)
    (0 < ta → (∀ x, sums = [x] → out = ([sat (old + x) 27], if fits (old + x) 27 then Tally.zero else Tally.sats 1)) ∧
      (sums.length ≠ 1 → out.1 = [sat (old + (sums.map (fun x => sat x 27)).sum) 27])) ∧
    (ta < 0 → ta ≠ -4 →
      let F := mxFmt ta
      let lists := pairs.map (fun p => (p.1.zip p.2).map (fun q => fmulV (fval F (q.1.getD 0 0)) (fval F (q.2.getD 0 0))))
      let r := floatAcc (mxFmt tres) prec (fovf == -1) lists (c.map (fun x => fval (mxFmt tres) (x.getD 0 0)))
      out = ([r.1], r.2)) ∧
    (ta = -4 → tres = -4 →
      let part := fun (x : List Int) (i : Nat) => fval tf54 (x.getD i 0)
      let full := fun (x : List Int) => x.length = 2
      (∀ p ∈ pairs, (∀ x ∈ p.1, full x) ∧ ∀ x ∈ p.2, full x) → (∀ x, c = some x → full x) →
      let isNan := fun (x : List Int) => part x 0 = .nan ∨ part x 1 = .nan
      let bad := (∃ p ∈ pairs, (∃ x ∈ p.1, isNan x) ∨ ∃ x ∈ p.2, isNan x) ∨ ∃ x, c = some x ∧ isNan x
      let lists := fun (f : List Int → List Int → List (Option FVal)) => pairs.map (fun p => (p.1.zip p.2).flatMap (fun q => f q.1 q.2))
      let re := floatAcc tf54 prec (fovf == -1)
        (lists (fun a b => [fmulV (part a 0) (part b 0), (fmulV (part a 1) (part b 1)).map FVal.neg])) (c.map (fun x => part x 0))
      let im := floatAcc tf54 prec (fovf == -1)
        (lists (fun a b => [fmulV (part a 0) (part b 1), fmulV (part a 1) (part b 0)])) (c.map (fun x => part x 1))
      (bad → out = ([nanCode, nanCode], Tally.nans 1)) ∧ (¬ bad → out = ([re.1, im.1], re.2.add im.2)))) ∧
  (∀ (fovf : Int) (d s : Int), accElem 4 fovf [d] [s] = ([sat (d + s) 27], if fits (d + s) 27 then Tally.zero else Tally.sats 1)) ∧
  (∀ (t fovf : Int) (d s : List Int), t < 0 → (accElem t fovf d s).1 =
    (d.zip s).map (fun p => (floatSum (mxFmt t) (fovf == -1) (fval (mxFmt t) p.1) (fval (mxFmt t) p.2)).1)) ∧
  (∀ (tc tout shift ovf code : Int) (neg : Bool),
    let v : FVal := if tc < 0 then fval (mxFmt tc) code else .fin code 0
    let out := moutPart tc tout shift neg ovf code
    let n := if tout = 3 then 9 else 27
    (∀ x, IsReal v x → let y := (if neg then -x else x) * (3 : ℝ) ^ (-shift)
      (tout < 0 → PacksTally (mxFmt tout) (ovf == -1) y out) ∧
      (0 < tout → ∀ q, Nearest q y → (fits q n = true → out = (q, Tally.zero)) ∧
        (fits q n = false → out = if ovf = -1 then (wrap q n, Tally.ovfs 1) else (sat q n, Tally.sats 1)))) ∧
    (∀ s : Bool, v = .inf s → (tout < 0 → out = (infCode (mxFmt tout) (s != neg), Tally.zero)) ∧
      (0 < tout → out = (if s != neg then -(half n : Int) else (half n : Int), Tally.ovfs 1))) ∧
    (v = .nan → out = if tout < 0 then (nanCode, Tally.zero) else (0, Tally.nans 1))) ∧
  (∀ F (factor : Word) (code : Int) x y, IsReal (fval F code) x → IsReal (fval tf27 factor.val) y → PacksTally F false (x * y) (smoothPart F factor code))

/-- The trits of one part of an element of a region (R311). -/
def partWidth (ty : Int) : Nat := if ty = -3 ∨ ty = -4 then 54 else (mxShape ty).2.2.1

/-- The words of a region's tiles (R311, R312). -/
def regionWords (r : MxRegion) : List Nat := (List.range (81 * r.tiles)).map (fun w => bufKey r.core r.path (81 * r.tile + w))

/-! ## Conversions -/

/-- A value to the fate that a range policy gives what does not fit (R50): flush, fault or saturate. -/
def byPolicy {α : Type} (pol : Int) (flush sat : α) : Except Cause α := if pol = -1 then .ok flush else if pol = 0 then .error .convertRange else .ok sat

/-- A binary value is the real number `x`. -/
def IsBin (v : BVal) (x : ℝ) : Prop := ∃ (n : Int) (d : Nat), v = .fin n d ∧ 0 < d ∧ x = n / d

/-- What an integer range makes of a value times `s` (R51, R52): the nearest integer where it is in range; 0 a saturation, 1 a flush, 2 a
NaN or infinity. -/
def IntoInt (lo hi pol : Int) (s : ℝ) (v : BVal) (r : Except Cause (Int × List Nat)) : Prop :=
  (∀ x q, IsBin v x → Nearest q (x * s) →
    r = if lo ≤ q ∧ q ≤ hi then .ok (q, []) else byPolicy pol (0, [1]) (if q < lo then lo else hi, [0])) ∧
  (∀ neg : Bool, v = .inf neg → r = byPolicy pol (0, [1]) (if neg then lo else hi, [0])) ∧
  (v = .nan → r = if pol = 0 then .error .convertRange else .ok (0, [2]))

/-- What a ternary float format makes of a value times `s` (R51). -/
def IntoFloat (F : Fmt) (pol : Int) (s : ℝ) (v : BVal) (r : Except Cause (Int × List Nat)) : Prop :=
  (∀ x (neg : Bool), IsBin v x → (neg = true ↔ x * s < 0) → ∃ p, Packs F .trap (x * s) p ∧ r = match p with
    | .ok (c, fl) => .ok (c, if fl.flush then [1] else [])
    | .error _ => byPolicy pol (infCode F neg, [2]) (maxFinite F neg, [0])) ∧
  (∀ neg : Bool, v = .inf neg → r = .ok (infCode F neg, [2])) ∧ (v = .nan → r = .ok (nanCode, [2]))

/-- What a ternary element of `n` trits makes of a value times `s` (R51, R180). -/
def IntoTern (float : Bool) (n : Nat) (pol : Int) (s : ℝ) (v : BVal) (r : Except Cause (Int × List Nat)) : Prop :=
  (float = true → IntoFloat (fmtBits n) pol s v r) ∧ (float = false → IntoInt (-(half n : Int)) (half n : Int) pol s v r)

/-- What a binary float encoding of `ew` exponent bits and `fw` fraction bits makes of a nonzero value (R52): the nearest of its codes, ties to
even, subnormals produced; a zero is a flush, and what passes the largest finite code follows the policy (log 99). -/
def IntoBin (ew fw size : Nat) (pol : Int) (x : ℝ) (r : Except Cause (List (BitVec 8) × List Nat)) : Prop :=
  let emin : Int := 2 - 2 ^ (ew - 1)
  ∀ (e m : Int) (neg : Bool), (neg = true ↔ x < 0) → emin ≤ e → |x| < (2 : ℝ) ^ (e + 1) → ((2 : ℝ) ^ e ≤ |x| ∨ e = emin) →
    2 * |(|x| / (2 : ℝ) ^ (e - (fw : Int))) - m| ≤ 1 → (2 * |(|x| / (2 : ℝ) ^ (e - (fw : Int))) - m| = 1 → m % 2 = 0) →
    let code := ((e - emin) * 2 ^ fw + m).toNat
    let sign := if neg then 2 ^ (ew + fw) else 0
    let inf := (2 ^ ew - 1) * 2 ^ fw
    r = if code < inf then .ok (leBytes size (sign + code), if code = 0 then [1] else [])
      else byPolicy pol (leBytes size (sign + inf), [2]) (leBytes size (sign + inf - 1), [0])

/-- The exponent and fraction bits and the size of the binary float encodings (R49). -/
def binFloats : List (Nat × Nat × Nat × Nat) := [(10, 5, 10, 2), (11, 8, 7, 2), (12, 8, 23, 4), (13, 11, 52, 8)]

/-- The scale of a record (R178). -/
def ScaleIs (w : Word) (s : ℝ) : Prop := (w = wzero ∧ s = 1) ∨ (w ≠ wzero ∧ s ≠ 0 ∧ IsReal (fval tf27 w.val) s)

/-- The binary encodings (R49), and the conversions of one element on a load and on a store (R51, R52, R180, R181, R442). -/
def ConvMeaning : Prop :=
  ([1, 2, 3, 4, 5, 6, 7, 8, 9].map (fun enc => (encSize enc 0, encSigned enc)) =
    [(1, false), (1, false), (1, true), (2, false), (2, true), (4, false), (4, true), (8, false), (8, true)]) ∧
  (∀ enc bs, 1 ≤ enc → enc ≤ 9 → bs.length = encSize enc 0 →
    let w := ((List.range bs.length).map (fun i => (bs.getD i 0#8).toNat * 256 ^ i)).sum
    binDecode enc bs = .fin (if encSigned enc then (BitVec.ofNat (8 * bs.length) w).toInt else (w : Int)) 1) ∧
  (∀ x ∈ binFloats, ∀ (neg : Bool) (e f : Nat), e < 2 ^ x.2.1 → f < 2 ^ x.2.2.1 →
    let v := binDecode x.1 (leBytes x.2.2.2 ((if neg then 2 ^ (x.2.1 + x.2.2.1) else 0) + e * 2 ^ x.2.2.1 + f))
    let sign : ℝ := if neg then -1 else 1
    let bias : Int := 2 ^ (x.2.1 - 1) - 1
    (e = 2 ^ x.2.1 - 1 → v = if f = 0 then .inf neg else .nan) ∧
    (e = 0 → IsBin v (sign * (f : ℝ) * (2 : ℝ) ^ (1 - bias - (x.2.2.1 : Int)))) ∧
    (0 < e → e < 2 ^ x.2.1 - 1 → IsBin v (sign * ((2 : ℝ) ^ x.2.2.1 + f) * (2 : ℝ) ^ ((e : Int) - bias - (x.2.2.1 : Int))))) ∧
  (∀ (float : Bool) n x, let v := ternValue float n x
    (float = false → IsBin v x) ∧ (float = true → (∀ y, IsReal (fval (fmtBits n) x) y → IsBin v y) ∧
      (∀ s, fval (fmtBits n) x = .inf s → v = .inf s) ∧ (fval (fmtBits n) x = .nan → v = .nan))) ∧
  (∀ enc (float : Bool) pol scale s n, pol = -1 ∨ pol = 0 ∨ pol = 1 → ScaleIs scale s →
    (∀ bs, 1 ≤ enc → enc ≤ 13 → IntoTern float n pol s (binDecode enc bs) (convLoad enc float pol scale n bs)) ∧
    (∀ bs, (p5dec n bs = none → convLoad 14 float pol scale n bs = .error .badByteCode) ∧
      ∀ t, p5dec n bs = some t → (scale = wzero → convLoad 14 float pol scale n bs = .ok (t.val, [])) ∧
        (scale ≠ wzero → IntoTern float n pol s (ternValue float n t.val) (convLoad 14 float pol scale n bs))) ∧
    ∀ u, let v := ternValue float n u
      (scale = wzero → convStore 14 float pol scale n u = .ok (p5enc (Tern.ofInt n u), [])) ∧
      (scale ≠ wzero → ∃ r, IntoTern float n pol (1 / s) v r ∧
        convStore 14 float pol scale n u = match r with | .ok (y, ev) => .ok (p5enc (Tern.ofInt n y), ev) | .error c => .error c) ∧
      (1 ≤ enc → enc ≤ 9 → ∃ r, IntoInt (encRange enc).1 (encRange enc).2 pol (1 / s) v r ∧
        convStore enc float pol scale n u = match r with
          | .ok (y, ev) => .ok (leBytes (encSize enc n) (y % 2 ^ (8 * encSize enc n)).toNat, ev)
          | .error c => .error c) ∧
      ∀ x ∈ binFloats, x.1 = enc →
        (∀ y, IsBin v y → (y = 0 → convStore enc float pol scale n u = .ok (leBytes x.2.2.2 0, [])) ∧
          (y ≠ 0 → IntoBin x.2.1 x.2.2.1 x.2.2.2 pol (y / s) (convStore enc float pol scale n u))) ∧
        (∀ neg : Bool, v = .inf neg → convStore enc float pol scale n u =
          .ok (leBytes x.2.2.2 ((2 ^ x.2.1 - 1) * 2 ^ x.2.2.1 + (if neg then 2 ^ (x.2.1 + x.2.2.1) else 0)), [2])) ∧
        (v = .nan → convStore enc float pol scale n u = .ok (leBytes x.2.2.2 ((2 ^ x.2.1 - 1) * 2 ^ x.2.2.1 + 2 ^ (x.2.2.1 - 1)), [2])))

/-- A converted load makes its elements in order and counts the events of each; the lowest element that fails gives the fault (R50, R179,
R180). -/
def LoadMeaning : Prop :=
  ∀ (c : Conv) (size cnt n : Nat) (ts : List Tryte), recShape size c.count = some (cnt, n) →
    let elem := fun (k : Nat) => loadElem c n ((ts.drop (encSize c.enc n * k)).take (encSize c.enc n))
    (∀ (x : Nat → Int) (ev : Nat → List Nat), (∀ k, k < cnt → elem k = .ok (x k, ev k)) →
      loadValue (some c) size ts = (.ok (elemWords size cnt ((List.range cnt).map x)), (List.range cnt).flatMap ev)) ∧
    (∀ k f, k < cnt → (∀ j, j < k → ∃ r, elem j = .ok r) → elem k = .error f → (loadValue (some c) size ts).1 = .error f)

/-- A converting store makes the bytes of its elements in order and counts the events of each; the lowest element that fails gives the cause
(R50, R179, R181). -/
def StoreMeaning : Prop :=
  ∀ (c : Rec) (size cnt n : Nat) (ws : List Word), c.enc ≠ 0 → recShape size c.count = some (cnt, n) →
    let xs := storeElems size cnt ws
    let elem := fun (k : Nat) => convStore c.enc c.float c.policy c.scale n (xs.getD k 0)
    (∀ (b : Nat → List (BitVec 8)) (ev : Nat → List Nat), (∀ k, k < xs.length → elem k = .ok (b k, ev k)) →
      storeData (some c) size ws =
        .ok ((List.range xs.length).flatMap (fun k => (b k).map byteTryte), (List.range xs.length).flatMap ev)) ∧
    (∀ k f, k < xs.length → (∀ j, j < k → ∃ r, elem j = .ok r) → elem k = .error f → storeData (some c) size ws = .error f)

/-- The eight read-modify-writes (R194), element by element, and the trytes that they leave. -/
def AtomMeaning : Prop :=
  (∀ (op : AtomOp) (old b cmp : Word) (j : Nat),
    let n := shapeBits op.shape.val
    let x := el old j n
    let y := el b j n
    let at_ := fun (k : AtomKind) => atomWord ({ op with kind := k }) old b cmp
    (j < 27 / n →
      el (at_ .add) j n = (if op.ovf.val = -1 then wrap (x + y) n else sat (x + y) n) ∧ el (at_ .min) j n = min x y ∧ el (at_ .max) j n = max x y) ∧
    at_ .xchg = b ∧ at_ .cas = (if old = cmp then b else old) ∧ (∀ i, i < 27 → (at_ .tadd).trit i = wrap (old.trit i + b.trit i) 1) ∧
    (op.shape.val = -1 ∨ op.shape.val = 0 →
      let F := fmtOf op.shape.val
      j < 27 / F.n → op.ovf.val = -1 ∨ op.ovf.val = 0 → ∃ c fl, (fadd (fval F (el old j F.n)) (fval F (el b j F.n))).pack F (ovfMode op.ovf.val) = .ok (c, fl) ∧
        el (at_ .fadd) j F.n = c)) ∧
  (∀ (op : AtomOp) (old : List Tryte) (b cmp : Addr), op.kind ≠ .add54 →
    atomTrytes op old b cmp = trytesOfWord (atomWord op (wordOfTrytes old) (pairLo b) (pairLo cmp))) ∧
  (∀ (op : AtomOp) (old b cmp : Addr), op.kind = .add54 →
    ∃ r : Addr, atomTrytes op (trytesOfWord (pairLo old) ++ trytesOfWord (pairHi old)) b cmp = trytesOfWord (pairLo r) ++ trytesOfWord (pairHi r) ∧
      r.val = if op.ovf.val = -1 then wrap (old.val + b.val) 54 else sat (old.val + b.val) 54)

/-! ## The shell -/

/-- No request of a port is inside the inbound ordering point, and request numbers are fresh (R409). -/
def portQuiet (s : State) (port : Nat) : Prop := ∀ r ∈ s.inbound, r.port ≠ port ∧ r.id < s.nextReq

/-- A split stops for the debugger outside a handler (R206, R353, R434): the saved registers hold the cause and the PC, and with no debugger the
region state too; nothing else of the group's registers changes. -/
def StopsAt (s t : State) (key i : Nat) (c : Cause) (info : Int) (pc : Addr) : Prop :=
  ∃ g g', s.group? key = some g ∧ t.group? key = some g' ∧ g'.status = .stopped c i ∧ g'.cause = causeWord c.code 0 i 0 info 0 ∧
    g'.epc = pc ∧ g'.epc2 = azero ∧ g'.hdepth = 0 ∧ g'.v = g.v ∧ g'.s = g.s ∧ g'.p = g.p ∧ g'.allFlags = g.allFlags ∧ othersKept s t key ∧
    t.mem = s.mem ∧ t.bufs = s.bufs ∧ (∃ x, t.stops = s.stops ++ [x] ∧ x.launch = g.launch ∧ x.cause = c) ∧
    (s.attached g.launch = true → g'.eregion = g.eregion ∧ g'.ecount = g.ecount) ∧
    (s.attached g.launch = false → ∃ x y, g.split? i = some x ∧ g'.split? i = some y ∧ y.region = none ∧ g'.eregion = x.region.getD azero ∧
      g'.ecount = if x.region.isSome then x.ecount else wzero)

end Sys2Proof.Safety
end

