-- ==== Sys2Proof/Certificates/Slice0/Obligations.lean ====
section
/-! DEFINITION. The statements for the provers. -/

open Sys2Proof Sys2Proof.Machine Sys2Proof.Safety

/-! ## Registers: the integer, immediate, predicate and float forms -/

/-- For ADD, SUB, NEG, ABS, SGN, MIN, MAX, MUL, MAD and for MULH, SHL, SHR, ROT, TCNT, TBAL and LEAD, in every shape, source form and
overflow mode: where the decode checks pass and the instruction issues, exec answers a next state in which each active lane of D
holds the stated value of each element, narrowed as OVF says, the flags are added to FSTAT, and every other register, special
register, byte of memory and group is as before; where an element traps, the lowest lane's and element's cause is taken and
nothing is written. (R116 to R122, R127, R128) -/
def Obligations.IntegerForms : Prop :=
  ∀ f : RFmt,
    let vec := f.src != 0
    let go := fun (i : Instr) (hasB dRead shape ovf : Bool) (op : Nat → Int → Int → Int → ElemRes) =>
      Computes i f.h (elemUse f hasB dRead shape ovf) 1 vec f.d.index (byElement f op)
    go (.add f) true false true true (fun n a b _ => narrow f.ovf n (a + b)) ∧
    go (.sub f) true false true true (fun n a b _ => narrow f.ovf n (a - b)) ∧
    go (.mul f) true false true true (fun n a b _ => narrow f.ovf n (a * b)) ∧
    go (.mad f) true true true true (fun n a b d => narrow f.ovf n (a * b + d)) ∧
    go (.neg f) false false true false (fun _ a _ _ => .ok (-a, .none)) ∧
    go (.abs f) false false true false (fun _ a _ _ => .ok (if a < 0 then -a else a, .none)) ∧
    go (.sgn f) false false true false (fun _ a _ _ => .ok (if a < 0 then -1 else if 0 < a then 1 else 0, .none)) ∧
    go (.mulh f) true false true false (fun n a b _ => .ok (truncInt (a * b) n, .none)) ∧
    go (.min f) true false true false (fun _ a b _ => .ok (if a ≤ b then a else b, .none)) ∧
    go (.max f) true false true false (fun _ a b _ => .ok (if a ≤ b then b else a, .none)) ∧
    go (.shl f) true false true true
      (fun n a k _ => if 0 ≤ k ∧ k ≤ (n : Int) then narrow f.ovf n (a * ((3 ^ k.toNat : Nat) : Int)) else .error .shiftRange) ∧
    go (.shr f) true false true false
      (fun n a k _ => if 0 ≤ k ∧ k ≤ (n : Int) then .ok (truncInt a k.toNat, .none) else .error .shiftRange) ∧
    go (.rot f) true false true false (fun n a k _ => .ok (rotEl a n k, .none)) ∧
    go (.tcnt f) false false true false (fun n a _ _ => .ok (tcnt a n, .none)) ∧
    go (.tbal f) false false true false (fun n a _ _ => .ok (tbal a n, .none)) ∧
    go (.lead f) false false true false (fun n a _ _ => .ok (lead a n, .none))

/-- The four tritwise forms act on each of the 27 trits alone, and MOV copies a whole word; exec answers a next state that holds the
result in the active lanes of D and is otherwise as before. (R126, R129) -/
def Obligations.TritwiseForms : Prop :=
  ∀ f : RFmt,
    let vec := f.src != 0
    let trits := fun (i : Instr) (op : Int → Int → Int) =>
      Computes i f.h (elemUse f true false false false) 1 vec f.d.index (fun fr l =>
        .ok (tritwise op (fr.readForm vec 1 f.a.index l 27) (fr.readForm (f.src == -1) 2 f.b.index l 27), .none))
    trits (.tadd f) tadd1 ∧ trits (.tmul f) (fun p q => p * q) ∧
    trits (.tmin f) (fun p q => if p ≤ q then p else q) ∧ trits (.tmax f) (fun p q => if p ≤ q then q else p) ∧
    Computes (.mov f) f.h
      { vector := vec
        resv := resvPred f.h || f.shape != 0 || f.ovf != 0 || (if f.src == 1 then resvReg f.a else resvReg f.b)
          || reuseBad f (!(f.src == 1)) (f.src == 1)
        opds := [regOpd vec f.d.index false true,
          if f.src == 1 then regOpd false f.b.index true false else regOpd vec f.a.index true false] }
      1 vec f.d.index (fun fr l => .ok (if f.src == 1 then fr.readS 2 f.b.index else fr.readForm vec 1 f.a.index l 27, .none))

/-- Each cross-lane form completes with the word its rule gives each active lane: SHUF the lane that B names or 0 for a lane outside 0
to 31, BCAST the lowest active lane, RSUM, RMIN and RMAX the reduction and SCAN the prefix of each element, narrowed once, and
VOTE the sum of the predicate trits; nothing else changes. A SHUF that names a lane whose word is uncorrectable, or read too early
under the checking scoreboard, traps. What SHUF reads of another split's lanes, a free value among those that the register has
held since, is the model's reading in log 25. (R130 to R134, R75, R357; log 25) -/
def Obligations.CrossLaneForms : Prop :=
  ∀ f : RFmt,
    let n := shapeBits f.shape
    let els := fun (fr : Fr) (ls : List Nat) (j : Nat) => ls.map (fun k => el (fr.readV 1 f.a.index k n) j n)
    let go := fun (i : Instr) (shape ovf hasB : Bool) (lane : Fr → Nat → Except Cause (Word × Flags)) =>
      Computes i f.h (crossUse f shape ovf hasB) 1 true f.d.index lane
    let from_ := fun (fr : Fr) (l : Nat) => (fr.readForm (f.src == -1) 2 f.b.index l 27).val
    ComputesAcross (.shuf f) f.h
      { crossUse f false false true with
        opds := [regOpd true f.d.index false true, { regOpd true f.a.index true false with across := true }, regOpd (f.src == -1) f.b.index true false] }
      true f.d.index f.a.index
      (fun fr => (fr.lanes.map (from_ fr)).filterMap (fun k => if 0 ≤ k ∧ k ≤ 31 then some k.toNat else none))
      (fun fr l => .ok (if 0 ≤ from_ fr l ∧ from_ fr l ≤ 31 then fr.readAcross (maskOf (· == l)) 1 f.a.index (from_ fr l).toNat else wzero, .none)) ∧
    Computes (.bcast f) f.h
      { crossUse f false false false with
        opds := [regOpd true f.d.index false true, { regOpd true f.a.index true false with elected := true }] }
      1 true f.d.index (fun fr _ => .ok (fr.readV 1 f.a.index (fr.lanes.headD 0), .none)) ∧
    go (.rsum f) true true false (fun fr _ => mapWord n (shapeCount f.shape) fun j => narrow f.ovf n (els fr fr.lanes j).sum) ∧
    go (.rmin f) true false false (fun fr _ => mapWord n (shapeCount f.shape) fun j =>
      .ok ((els fr fr.lanes j).foldl min ((els fr fr.lanes j).headD 0), .none)) ∧
    go (.rmax f) true false false (fun fr _ => mapWord n (shapeCount f.shape) fun j =>
      .ok ((els fr fr.lanes j).foldl max ((els fr fr.lanes j).headD 0), .none)) ∧
    go (.scan f) true true false (fun fr l => mapWord n (shapeCount f.shape) fun j =>
      narrow f.ovf n (els fr (fr.lanes.filter (fun k => decide (k ≤ l))) j).sum) ∧
    Computes (.vote f) f.h
      { vector := true
        resv := resvPred f.h || resvReg f.b || f.shape != 0 || f.ovf != 0 || f.src != -1 || reuseBad f true false
        opds := [regOpd true f.d.index false true, predOpd f.a.index true false] }
      1 true f.d.index (fun fr _ => .ok (Tern.ofInt 27 (fr.lanes.map (fun k => fr.readP f.a.index k)).sum, .none))

/-- ADDI, MULI, MINI, MAXI, SHLI, SHRI, ROTI, MOVI, EXTR, INSR, WIDEN, NARROW, LIMM, LANE, IDS, MVS, CTO and MSV complete with the
stated value in the active lanes of D, or in the one lane that MSV names, and change nothing else; an MVS that names a lane whose
word is uncorrectable, or read too early, traps. What MVS reads of another split's lane, a free value among those that the
register has held since, is the model's reading in log 25, and the zeros that IDS answers in the walker's group are the model's
choice in log 95. (R136 to R143; log 25, 95) -/
def Obligations.ImmediateForms : Prop :=
  ((∀ f : IFmt,
      let vec := kVec f.k
      let word := fun (fr : Fr) (l : Nat) => fr.readForm vec 1 f.a.index l 27
      let go := fun (i : Instr) (u : Use) (op : Nat → Int → Int → ElemRes) => Computes i f.h u 1 vec f.d.index (byImmediate f op)
      go (.addi f) (immUse f true) (fun n a i => narrow 0 n (a + i)) ∧
      go (.muli f) (immUse f true) (fun n a i => narrow 0 n (a * i)) ∧
      go (.mini f) (immUse f true) (fun _ a i => .ok (if a ≤ i then a else i, .none)) ∧
      go (.maxi f) (immUse f true) (fun _ a i => .ok (if a ≤ i then i else a, .none)) ∧
      go (.shli f) (immUse f true false (immCount f)) (fun n a k => narrow 0 n (a * ((3 ^ k.toNat : Nat) : Int))) ∧
      go (.shri f) (immUse f true false (immCount f)) (fun _ a k => .ok (truncInt a k.toNat, .none)) ∧
      go (.roti f) (immUse f true) (fun n a k => .ok (rotEl a n k, .none)) ∧
      Computes (.movi f) f.h (immUse f false) 1 vec f.d.index (fun _ _ => mapWord (kBits f.k) (kCount f.k) fun _ => narrow 0 (kBits f.k) f.imm7) ∧
      Computes (.extr f) f.h (fieldUse f false) 1 vec f.d.index (fun fr l =>
        .ok (Tern.ofInt 27 ((word fr l).field (IFmtPos f) (IFmtWidth f)).val, .none)) ∧
      Computes (.insr f) f.h (fieldUse f true) 1 vec f.d.index (fun fr l =>
        match narrow 0 (IFmtWidth f) (word fr l).val with
        | .ok (x, fl) => .ok ((fr.readForm vec 0 f.d.index l 27).setField (IFmtPos f) (Tern.ofInt (IFmtWidth f) x), fl)
        | .error c => .error c) ∧
      Computes (.widen f) f.h (subUse f false) 1 vec f.d.index (fun fr l =>
        .ok (Tern.ofInt 27 (el (fr.readForm vec 1 f.a.index l 9) f.imm7.toNat 9), .none)) ∧
      Computes (.narrow f) f.h (subUse f true) 1 vec f.d.index (fun fr l =>
        match Machine.narrow 0 9 (word fr l).val with
        | .ok (x, fl) => .ok (setEl (fr.readForm vec 0 f.d.index l 9) f.imm7.toNat 9 x, fl)
        | .error c => .error c)) ∧
    (∀ f : LFmt,
      Computes (.limm f) f.r.h
        { vector := f.r.src == -1
          resv := resvPred f.r.h || resvReg f.r.a || resvReg f.r.b || f.r.shape != 0 || f.r.ovf != 0 || f.r.src == 1 || f.r.reuse.val != 0
          opds := [regOpd (f.r.src != 0) f.r.d.index false true] }
        2 (f.r.src != 0) f.r.d.index (fun _ _ => .ok (f.ext, .none))) ∧
    (∀ f : RFmt,
      Computes (.lane f) f.h
        { vector := true, resv := resvPred f.h || resvReg f.a || resvReg f.b || plainR f, opds := [regOpd true f.d.index false true] }
        1 true f.d.index (fun _ l => .ok (Tern.ofInt 27 (l : Int), .none)) ∧
      Computes (.ids f) f.h
        { resv := resvPred f.h || resvReg f.b || plainR f || decide (15 ≤ f.a.index), opds := [regOpd false f.d.index false true] }
        1 false f.d.index (fun fr _ => .ok (Tern.ofInt 27 (fr.identity f.a.index), .none)) ∧
      ComputesAcross (.mvs f) f.h
        { vector := true, resv := resvPred f.h || plainR f
          opds := [regOpd false f.d.index false true, { regOpd true f.a.index true false with across := true }, regOpd false f.b.index true false] }
        false f.d.index f.a.index (fun fr => if fr.any then [((fr.readS 2 f.b.index).val % 32).toNat] else [])
        (fun fr _ => .ok (fr.readAcross fr.act 1 f.a.index ((fr.readS 2 f.b.index).val % 32).toNat, .none)) ∧
      Computes (.cto f) f.h
        { vector := true, resv := resvPred f.h || resvReg f.b || plainR f
          opds := [regOpd true f.d.index false true, predOpd f.a.index true false] }
        1 true f.d.index (fun fr l => .ok (Tern.ofInt 27 (fr.readP f.a.index l), .none)))) ∧
  (∀ (f : RFmt) s fr,
      Reaches s f.h
        { vector := true, resv := resvPred f.h || plainR f
          opds := [regOpd true f.d.index false true, regOpd false f.a.index true false, regOpd false f.b.index true false] } fr →
      let k := ((fr.readS 2 f.b.index).val % 32).toNat
      ∃ t, exec (.msv f) s = .next t ∧
        Effect fr (past fr 1) .none (if fr.act.getLsbD k then [.v f.d.index [(k, fr.readS 1 f.a.index)]] else []) .none t)

/-- CMP, CMPI, CFROM, CMIN, CMAX, CNEG, CSETI and FCMP complete with the stated trit in the active lanes of the predicate register;
SEL takes A where the predicate times PSENSE is +1, B where it is −1, and leaves D where it is 0. (R124, R125, R137, R143, R151) -/
def Obligations.PredicateForms : Prop :=
  ((∀ f : RFmt,
      let vec := f.src != 0
      SetsPredicate (.cmp f) f.h
        { vector := vec
          resv := resvPred f.h || f.shape != 0 || f.ovf != 0 || reuseBad f true true
          opds := [predOpd f.d.index false true, regOpd vec f.a.index true false, regOpd (f.src == -1) f.b.index true false] }
        f.d.index (fun fr l => sgn ((fr.readForm vec 1 f.a.index l 27).val - (fr.readForm (f.src == -1) 2 f.b.index l 27).val)) ∧
      SetsPredicate (.cfrom f) f.h
        { vector := f.src == -1
          resv := resvPred f.h || resvReg f.b || f.shape != 0 || f.ovf != 0 || f.src == 1 || f.reuse.val != 0
          opds := [predOpd f.d.index false true, regOpd vec f.a.index true false] }
        f.d.index (fun fr l => sgn (fr.readForm vec 1 f.a.index l 27).val) ∧
      SetsPredicate (.cmin f) f.h (predUse f true) f.d.index (fun fr l => min (fr.readP f.a.index l) (fr.readP f.b.index l)) ∧
      SetsPredicate (.cmax f) f.h (predUse f true) f.d.index (fun fr l => max (fr.readP f.a.index l) (fr.readP f.b.index l)) ∧
      SetsPredicate (.cneg f) f.h (predUse f false) f.d.index (fun fr l => -fr.readP f.a.index l) ∧
      (∀ s fr,
        let t := f.shape
        let r := fun l => fcmpTrit (fmtOf t) ((fr.readF vec 1 f.a.index l t).headD 0) ((fr.readF (f.src == -1) 2 f.b.index l t).headD 0)
        Reaches s f.h
          { vector := vec
            resv := resvPred f.h || f.ovf != 0 || reuseBad f true true
            opds := [predOpd f.d.index false true, fOpd vec t f.a.index true false, fOpd (f.src == -1) t f.b.index true false]
            cost := fmtCost t } fr →
        ∃ u, exec (.fcmp f) s = .next u ∧
          Effect fr (past fr 1) .none [.p f.d.index (fr.lanes.map (fun l => (l, Tern.ofInt 1 (r l).1)))] (orFlags (fr.lanes.map (fun l => (r l).2))) u)) ∧
    (∀ f : IFmt,
      SetsPredicate (.cmpi f) f.h
        { vector := f.k == -1, resv := resvPred f.h || f.k == 1
          opds := [predOpd f.d.index false true, regOpd (kVec f.k) f.a.index true false] }
        f.d.index (fun fr l => sgn ((fr.readForm (kVec f.k) 1 f.a.index l 27).val - f.imm7)) ∧
      SetsPredicate (.cseti f) f.h
        { resv := resvPred f.h || resvReg f.a || decide (f.imm.val < -1) || decide (1 < f.imm.val), opds := [predOpd f.d.index false true] }
        f.d.index (fun _ _ => f.imm.val))) ∧
  (∀ (f : RFmt) s fr,
      let vec := f.src != 0
      let pr := f.h.pred.index
      Reaches s { f.h with pred := Tern.ofIndex 2 8, psense := Tern.zero 1 }
        { vector := vec
          resv := resvPred f.h || (pr != 8 && f.h.psense.val == 0) || f.shape != 0 || f.ovf != 0 || reuseBad f true true
          opds := [regOpd vec f.d.index true true, regOpd vec f.a.index true false, regOpd (f.src == -1) f.b.index true false]
            ++ (if pr = 8 then [] else [predOpd pr true false])
          every := true } fr →
      let cond := fun l => if pr = 8 then 1 else fr.readP pr l * f.h.psense.val
      let a := fun l => fr.readForm vec 1 f.a.index l 27
      let b := fun l => fr.readForm (f.src == -1) 2 f.b.index l 27
      ∃ t, exec (.sel f) s = .next t ∧ Effect fr (past fr 1) .none
        (if vec then [.v f.d.index (((fr.lanes.filter (fun l => cond l == 1)).map (fun l => (l, a l))) ++
            ((fr.lanes.filter (fun l => cond l == -1)).map (fun l => (l, b l))))]
          else match fr.lanes with
            | [] => []
            | l :: _ => if cond l = 1 then [.s f.d.index (a 0)] else if cond l = -1 then [.s f.d.index (b 0)] else []) .none t)

/-- FADD, FSUB, FMUL, FMA, FNEG, FABS, FMIN, FMAX, FEXPO, FCLS, FTOI, ITOF, FRND, FSCL and FCVT complete with the packed result of
each element in the active lanes of D and with its flags, or trap as their overflow mode says. What the operations are is stated
first: the value of a code, the packing of a value (a nearest code, the two limits, overflow and underflow in each mode), the
operations on infinities, NaN and zero, selection, comparison and the conversions. The free values of roundings that the spec
leaves open, what FNEG does with a NaN code and whether FCVT reads D, and the exponent of an inverted code are the readings of
logs 20, 86, 88 and 116. (R36 to R43, R45, R47, R144 to R151, R154 to R159; log 20, 86, 88, 116) -/
def Obligations.FloatForms : Prop :=
  FloatMeaning ∧
  (∀ f : RFmt,
      let F := fmtOf f.shape
      let vec := f.src != 0
      let o := ovfMode f.ovf
      let go := fun (i : Instr) (hasB dRead ovf : Bool) (op : Int → Int → Int → ElemRes) =>
        ComputesF i f (floatUse f hasB dRead ovf) (fmtWords f.shape) (fun fr l => fr.floatLane f hasB dRead op l)
      go (.fadd f) true false true (fun a b _ => (fadd (fval F a) (fval F b)).pack F o) ∧
      go (.fsub f) true false true (fun a b _ => (fsub (fval F a) (fval F b)).pack F o) ∧
      go (.fmul f) true false true (fun a b _ => (fmul (fval F a) (fval F b)).pack F o) ∧
      go (.fma f) true true true (fun a b d => (fma (fval F a) (fval F b) (fval F d)).pack F o) ∧
      go (.fneg f) false false false (fun a _ _ => .ok (fneg F a, .none)) ∧
      go (.fabs f) false false false (fun a _ _ => .ok (fabs F a, .none)) ∧
      go (.fmin f) true false false (fun a b _ => .ok (fsel F true a b, .none)) ∧
      go (.fmax f) true false false (fun a b _ => .ok (fsel F false a b, .none)) ∧
      go (.fexpo f) false false false (fun a _ _ => .ok (fexpo F a, .none)) ∧
      go (.fcls f) false false false (fun a _ _ => .ok (fcls F a, .none)) ∧
      go (.ftoi f) false false true (fun a _ _ => ftoi F f.ovf a) ∧
      go (.itof f) false false false (fun a _ _ => fpack F .saturate (exactOf a 0)) ∧
      go (.frnd f) false false false (fun a _ _ => .ok (frnd F a)) ∧
      ComputesF (.fscl f) f { floatUse f true false true with
          opds := [fOpd vec f.shape f.d.index false true, fOpd vec f.shape f.a.index true false, regOpd (f.src == -1) f.b.index true false] }
        (fmtWords f.shape) (fun fr l =>
          match zipElems (fun a k _ => (fscl (fval F a) k).pack F o) (fr.readF vec 1 f.a.index l f.shape)
            (fr.readScale (f.src == -1) f.b.index l f.shape) [] with
          | .ok (xs, fl) => .ok (fWords f.shape xs, fl)
          | .error c => .error c)) ∧
  (∀ f : RFmt,
      let vec := f.src != 0
      let t := f.shape
      let sf := (f.b.field 2 2).val
      let j := (f.b.field 0 2).val
      ComputesF (.fcvt f) f
        { vector := vec
          resv := resvPred f.h || f.src == 1 || decide (sf < -1) || decide (1 < sf) || sf == t || decide (j < 0) || decide (2 < j)
            || (j != 0 && t != -1 && sf != -1) || reuseBad f true false
          opds := [fOpd vec t f.d.index (t == -1) true, fOpd vec sf f.a.index true false]
          cost := fmtCost t }
        (fmtWords t) (fun fr l =>
          match fcvt (fmtOf t) (fmtOf sf) (ovfMode f.ovf) ((fr.readF vec 1 f.a.index l sf).getD (if sf = -1 then j.toNat else 0) 0) with
          | .error c => .error c
          | .ok (x, fl) => if t = -1 then .ok ([setEl (fr.readForm vec 0 f.d.index l 9) j.toNat 9 x], fl) else .ok (fWords t [x], fl)))

/-- The complex product, with and without accumulation, writes the real and imaginary results to the registers of D; FRSUM writes the
sum over the active lanes in the order of its tree. What the parts of a product and the steps of the tree are is stated first.
(R39, R160, R161) -/
def Obligations.ComplexForms : Prop :=
  ComplexMeaning ∧
  ∀ f : RFmt,
    let t := f.shape
    let vec := f.src != 0
    let F := fmtOf t
    let n := if t = -1 then 3 else 1
    let cx := fun (acc : Bool) => { floatUse f true acc true with
      opds := [cOpd vec t f.d.index acc true, cOpd vec t f.a.index true false, cOpd (f.src == -1) t f.b.index true false] }
    let lane := fun (acc : Bool) (fr : Fr) (l : Nat) =>
      let rd := fun (v : Bool) fld r => fr.readF v fld r l t
      match cmulElems F (ovfMode f.ovf) (rd vec 1 f.a.index) (rd vec 1 (imReg t f.a.index)) (rd (f.src == -1) 2 f.b.index)
          (rd (f.src == -1) 2 (imReg t f.b.index)) (rd vec 0 f.d.index) (rd vec 0 (imReg t f.d.index)) acc (List.range n) with
      | .error c => (.error c : Except Cause (List Word × Flags))
      | .ok ((re, im), fl) => .ok (fWords t re ++ fWords t im, fl)
    ComputesF (.cmul f) f (cx false) (2 * fmtWords t) (lane false) ∧
    ComputesF (.cfma f) f (cx true) (2 * fmtWords t) (lane true) ∧
    ComputesF (.frsum f) f { floatUse f false false true with
        vector := true, resv := resvPred f.h || resvReg f.b || f.src != -1 || reuseBad f true false }
      (fmtWords t) (fun fr _ =>
        let rows := (List.range 32).map (fun l => if fr.act.getLsbD l then some (fr.readF true 1 f.a.index l t) else none)
        match elemWord 0 (fun j => frsumElem F (ovfMode f.ovf) (rows.map (fun x => x.map (fun e => e.getD j 0)))) (List.range n) with
        | .error c => .error c
        | .ok (xs, fl) => .ok (fWords t xs, fl))

/-- DIV, REM, FDIV, FSQRT, FRCP, FRSQ, FEXP3 and FLOG3 complete by handing the stated result to the unit of their issue slot; the
delivery of a result writes its registers and flags and changes nothing else. What the quotient, roots, exponential and logarithm
are is stated first. That a unit stays busy for the cycles of R119 and R146 is the model's reading of figures (log 6). (R39 to
R43, R119, R123, R146, R152, R153; log 6) -/
def Obligations.LongLatencyForms : Prop :=
  FloatUnitMeaning ∧
  (∀ f : RFmt,
      let one := fun (op : Nat → Int → Int → ElemRes) (fr : Fr) (l : Nat) =>
        match byElement f (fun n a b _ => op n a b) fr l with
        | .ok (w, fl) => (.ok ([w], fl) : Except Cause (List Word × Flags))
        | .error c => .error c
      GoesToUnit (.div f) f (elemUse f true false true true) 0 8 (one (fun n a b =>
        if b = 0 then (if f.ovf = 1 then .error .divideByZero else .ok (sgn a * (half n : Int), .ovf)) else .ok (divNear a b, .none))) ∧
      GoesToUnit (.rem f) f (elemUse f true false true true) 0 8 (one (fun _ a b =>
        if b = 0 then (if f.ovf = 1 then .error .divideByZero else .ok (a, .ovf)) else .ok (a - b * divNear a b, .none)))) ∧
  (∀ f : RFmt,
      let F := fmtOf f.shape
      let go := fun (i : Instr) (hasB : Bool) (op : FVal → FVal → FRes) =>
        GoesToUnit i f (floatUse f hasB false true) 1 (fmtBusy f.shape)
          (fun fr l => fr.floatLane f hasB false (fun a b _ => (op (fval F a) (fval F b)).pack F (ovfMode f.ovf)) l)
      go (.fdiv f) true fdiv ∧ go (.fsqrt f) false (fun a _ => fsqrt a) ∧ go (.frcp f) false (fun a _ => frcp a) ∧
      go (.frsq f) false (fun a _ => frsq a) ∧ go (.fexp3 f) false (fun a _ => fexp3 a) ∧ go (.flog3 f) false (fun a _ => flog3 a)) ∧
  (∀ (core slot k : Nat) (s : State) (g : Group) (r : LongRes), s.group? (gkey core slot) = some g → g.longs[k]? = some r → (∀ q ∈ r.parts, ∀ e ∈ q.2, e.1 < 32) →
      ∃ t g', exec (.longLatencyUnitResult core slot k) s = .next t ∧ t.group? (gkey core slot) = some g' ∧
        (∀ reg l, reg < 80 → l < 32 → g'.vreg reg l = vecAfter (if r.vec then r.parts.map (fun q => Wr.v q.1 q.2) else []) reg l (g.vreg reg l)) ∧
        (∀ reg, reg < 80 → g'.sreg reg =
          scalAfter (if r.vec then [] else r.parts.flatMap (fun q => (q.2.take 1).map (fun e => Wr.s q.1 e.2))) reg (g.sreg reg)) ∧
        g'.p = g.p ∧ g'.fstat = g.fstat.or r.flags ∧ special g' = special g ∧ g'.splits.map settledSplit = g.splits.map settledSplit ∧
        g'.longs = dropAt g.longs k ∧ othersKept s t (gkey core slot) ∧ onlyGroups s t)

/-! ## Long-latency results -/

/-! ## Control -/

/-- NOP, JMP, BRALL, BRANY, CALL, JMPR, CALLR, RET and LOOP complete with the PC and the link or counter that their rules give; a
target of an indirect form that is no multiple of 3 traps MISALIGNED and writes no link. (R103 to R107) -/
def Obligations.Transfers : Prop :=
  (∀ (f : RFmt) s fr,
    Reaches s { f.h with pred := Tern.ofIndex 2 8, psense := Tern.zero 1 }
      { resv := resvPred f.h || resvReg f.d || resvReg f.a || resvReg f.b || plainR f } fr →
    ∃ t, exec (.nop f) s = .next t ∧ Effect fr (past fr 1) .none [] .none t) ∧
  (∀ (f : BFmt) s fr,
    let target := pcAdd fr.sp.pc f.disp.val
    (Reaches s f.h (branchUse f) fr →
      (∃ t, exec (.jmp f) s = .next t ∧ Effect fr (if fr.any then target else past fr 1) .none [] .none t) ∧
      (∃ t, exec (.brany f) s = .next t ∧ Effect fr (if fr.any then target else past fr 1) .none [] .none t) ∧
      (∃ t, exec (.brall f) s = .next t ∧ Effect fr (if fr.act = fr.sp.mask then target else past fr 1) .none [] .none t)) ∧
    (Reaches s f.h { branchUse f with opds := [pairOpd 78 false true] } fr →
      ∃ t, exec (.call f) s = .next t ∧
        Effect fr (if fr.any then target else past fr 1) .none (if fr.any then wrPair 78 (past fr 1) else []) .none t)) ∧
  (∀ (f : RFmt) s fr,
    let target := fr.readS2 1 f.a.index
    let go := fun (i : Instr) (link : Bool) =>
      Reaches s f.h (indirectUse f link) fr →
      (fr.any = false ∨ target.trit 0 = 0 →
        ∃ t, exec i s = .next t ∧
          Effect fr (if fr.any then target else past fr 1) .none (if fr.any && link then wrPair 78 (past fr 1) else []) .none t) ∧
      (fr.any = true → target.trit 0 ≠ 0 → exec i s = .next (fr.s.takeTrap fr.key fr.sp.idx (fr.trap .misaligned)))
    go (.jmpr f) false ∧ go (.ret f) false ∧ go (.callr f) true) ∧
  (∀ (f : IFmt) s fr,
    let c := Tern.ofInt 27 ((fr.readS 0 f.d.index).val - 1)
    Reaches s f.h { resv := resvPred f.h || resvReg f.a, opds := [regOpd false f.d.index true true] } fr →
    ∃ t, exec (.loop f) s = .next t ∧
      Effect fr (if fr.any ∧ c ≠ wzero then pcAdd fr.sp.pc f.imm.val else past fr 1) .none
        (if fr.any then [.s f.d.index c] else []) .none t)

/-- BR goes on at the target with all lanes, falls through with none, divides the split between a free record and itself, pushes the
smaller part on the fallback stack where no record is free, and traps SPLIT_OVERFLOW where that stack is full. (R89, R90, R93) -/
def Obligations.Branch : Prop :=
  ∀ (f : BFmt) s fr, Reaches s f.h (branchUse f) fr →
    let target := pcAdd fr.sp.pc f.disp.val
    let rest := fr.sp.mask &&& ~~~ fr.act
    -- the smaller part moves, the taken one where both are equal
    let small := laneCount fr.act ≤ laneCount rest
    let goesOn := fun (x : Split) => x.mask = (if small then rest else fr.act) ∧ x.pc = (if small then past fr 1 else target)
    (rest = 0#32 → ∃ t, exec (.br f) s = .next t ∧ Effect fr target .none [] .none t) ∧
    (rest ≠ 0#32 → fr.act = 0#32 → ∃ t, exec (.br f) s = .next t ∧ Effect fr (past fr 1) .none [] .none t) ∧
    (∀ i, rest ≠ 0#32 → fr.act ≠ 0#32 → freeSplit fr.g = some i →
      ∃ t, exec (.br f) s = .next t ∧ SplitsShift fr t (fun g =>
        ∃ x y, g.split? fr.sp.idx = some x ∧ goesOn x ∧ x.falls = fr.sp.falls ∧ x.tokens = fr.sp.tokens ∧
          g.split? i = some y ∧ y.mask = (if small then fr.act else rest) ∧ y.pc = (if small then target else past fr 1) ∧
          y.falls = [] ∧ y.tokens = fr.sp.tokens ∧ y.region = fr.sp.region ∧ y.ecount = fr.sp.ecount ∧ y.age = fr.g.nextAge ∧
          ∀ j, j ≠ i → j ≠ fr.sp.idx → (g.split? j).map settledSplit = (fr.g.split? j).map settledSplit)) ∧
    (rest ≠ 0#32 → fr.act ≠ 0#32 → freeSplit fr.g = none → fr.sp.falls.length < 9 →
      ∃ t, exec (.br f) s = .next t ∧ SplitsChange fr t (fun g =>
        ∃ x, g.split? fr.sp.idx = some x ∧ goesOn x ∧ x.tokens = fr.sp.tokens ∧
          x.falls = ⟨if small then target else past fr 1, if small then fr.act else rest, false⟩ :: fr.sp.falls)) ∧
    (rest ≠ 0#32 → fr.act ≠ 0#32 → freeSplit fr.g = none → 9 ≤ fr.sp.falls.length →
      exec (.br f) s = .next (fr.s.takeTrap fr.key fr.sp.idx (fr.trap .splitOverflow)))

/-- JOIN.arm pushes its token; JOIN waits while another split carries the token, goes on where none does, and turns to the fallback
stack first; two splits that wait at one JOIN, and two equal splits, become one that holds the lanes of both; a JOIN that
completes orders the loads of its splits, so that the L1 copies of its core are dropped. What a merged split keeps beside the
lanes, PC and tokens is the reading of log 27, and that a JOIN drops the copies that of log 91. (R91 to R94, R96, R108; log 27,
91) -/
def Obligations.JoinsAndMerges : Prop :=
  (∀ (f : IFmt) s fr, Reaches s { f.h with pred := Tern.ofIndex 2 8, psense := Tern.zero 1 } (joinUse f) fr →
      let t0 := f.imm.val
      (fr.sp.tokens.length < 9 →
        ∃ t, exec (.joinArm f) s = .next t ∧ SplitsChange fr t (fun g => ∃ x, g.split? fr.sp.idx = some x ∧
          x.pc = past fr 1 ∧ x.tokens = t0 :: fr.sp.tokens ∧ x.mask = fr.sp.mask ∧ x.falls = fr.sp.falls)) ∧
      (9 ≤ fr.sp.tokens.length → exec (.joinArm f) s = .next (fr.s.takeTrap fr.key fr.sp.idx (fr.trap .splitOverflow))) ∧
      -- another split still carries the token: the split waits
      (fr.sp.falls = [] → fr.sp.tokens.head? = some t0 →
        (∃ y ∈ fr.g.splits, y.idx ≠ fr.sp.idx ∧ y.carries t0 = true ∧ y.wait = .none) →
        ∃ t, exec (.join f) s = .next t ∧ Effect fr fr.sp.pc (.join t0) [] .none t) ∧
      -- the only split of the group carries it: the wait completes at once
      (fr.sp.falls = [] → fr.sp.tokens.head? = some t0 → fr.g.splits = [fr.sp] →
        ∃ t, exec (.join f) s = .next t ∧ SplitsShift fr t (fun g => ∃ x, g.splits = [x] ∧ x.idx = fr.sp.idx ∧
          x.pc = past fr 1 ∧ x.tokens = fr.sp.tokens.tail ∧ x.mask = fr.sp.mask ∧ x.region = fr.sp.region ∧ x.wait = .none)) ∧
      -- lanes that wait in the fallback stack take their turn
      (∀ e rest, fr.sp.falls = e :: rest → (e.parked = false ∨ e.pc = fr.sp.pc) →
        ∃ t, exec (.join f) s = .next t ∧ SplitsChange fr t (fun g => ∃ x, g.split? fr.sp.idx = some x ∧
          x.pc = e.pc ∧ x.mask = e.mask ∧ x.falls = ⟨fr.sp.pc, fr.sp.mask, true⟩ :: rest ∧ x.tokens = fr.sp.tokens)) ∧
      (fr.sp.falls = [] → fr.sp.tokens.head? ≠ some t0 →
        exec (.join f) s = .next (fr.s.takeTrap fr.key fr.sp.idx (fr.trap .joinMismatch)))) ∧
  (∀ (core slot : Nat) (s : State) (g : Group) (x y : Split), s.group? (gkey core slot) = some g → g.splits = [x, y] → x.idx ≠ y.idx → g.trapSplit = none → g.heldSplits = [] → g.status = .running →
      let one := fun (t : State) (pc : Addr) (tokens : List Int) (l1 : List L1Line) => ∃ g' z, t.group? (gkey core slot) = some g' ∧ regsKept g g' ∧
        g'.splits = [z] ∧ z.idx = x.idx ∧ z.mask = x.mask ||| y.mask ∧ z.pc = pc ∧ z.tokens = tokens ∧ z.wait = .none ∧
        z.age = min x.age y.age ∧ t.l1 = l1 ∧ othersKept s t (gkey core slot) ∧ onlyGroups s { t with sideLog := s.sideLog, l1 := s.l1 } ∧ logsKept s t
      (∀ tok : Tern 8, x.wait = .join tok.val → y.wait = .join tok.val → x.pc = y.pc →
        ∃ t, exec (.joinMerge core slot tok) s = .next t ∧ one t (pcAdd x.pc 1) x.tokens.tail (s.l1.filter (fun c => c.core != g.core))) ∧
      (g.canMerge x.idx y.idx = true →
        ∃ t, exec (.splitImplicitMerge core slot x.idx y.idx) s = .next t ∧ one t x.pc x.tokens s.l1))

/-- EXIT makes its lanes absent, goes on with the fallback stack, waits while accesses of the group are outstanding, and ends the
group; YIELD, ROLE and the two modes of REGION complete as their rules say and trap on what they forbid. (R91, R109 to R112) -/
def Obligations.ExitsAndRoles : Prop :=
  ((∀ (f : RFmt) s fr,
      Reaches s f.h { resv := resvPred f.h || resvReg f.d || resvReg f.a || resvReg f.b || plainR f } fr → fr.any = true →
      let left := fr.sp.mask &&& ~~~ fr.act
      let regs := fun (g : Group) => g.v = fr.g.v ∧ g.s = fr.g.s ∧ g.p = fr.g.p ∧ g.fstat = fr.g.fstat ∧ g.absent = fr.g.absent ||| fr.act
      (left ≠ 0#32 →
        ∃ t g x, exec (.exit f) s = .next t ∧ t.group? fr.key = some g ∧ regs g ∧ g.split? fr.sp.idx = some x ∧ x.mask = left ∧
          x.pc = past fr 1 ∧ x.falls = fr.sp.falls ∧ othersKept fr.s t fr.key ∧ onlyGroups fr.s t) ∧
      (∀ e rest, left = 0#32 → fr.sp.falls = e :: rest →
        ∃ t g x, exec (.exit f) s = .next t ∧ t.group? fr.key = some g ∧ regs g ∧ g.split? fr.sp.idx = some x ∧ x.mask = e.mask ∧
          x.pc = e.pc ∧ x.falls = rest ∧ othersKept fr.s t fr.key ∧ onlyGroups fr.s t) ∧
      (fr.g.lastExit fr.sp fr.act = true → fr.g.isWalker = false → fr.g.isSeq = false → fr.s.quiet fr.g = false →
        ∃ t, exec (.exit f) s = .next t ∧ Effect fr fr.sp.pc .ending [] .none t) ∧
      (fr.g.lastExit fr.sp fr.act = true → fr.g.isWalker = false → fr.g.isSeq = false → fr.s.quiet fr.g = true → fr.g.faults = [] →
        fr.g.key = fr.key → ∃ t, exec (.exit f) s = .next t ∧ t.group? fr.key = none ∧ t.mem = fr.s.mem)) ∧
    (∀ (core slot : Nat) (s : State) (g : Group) (x : Split), s.group? (gkey core slot) = some g → g.key = gkey core slot → g.splits.find? (fun x => x.wait == .ending) = some x →
      g.status = .running → g.parked = false → g.isSeq = false → s.quiet g = true → g.faults = [] →
      ∃ t, exec (.groupEnd core slot) s = .next t ∧ t.group? (gkey core slot) = none ∧ t.mem = s.mem)) ∧
  ((∀ (f : RFmt) s fr,
      Reaches s f.h { resv := resvPred f.h || resvReg f.d || resvReg f.a || resvReg f.b || plainR f } fr → fr.any = true →
      fr.g.isSeq = false → ∃ t, exec (.yield f) s = .next t ∧ SplitsChange fr t (fun g => ∃ x, g.split? fr.sp.idx = some x ∧
        x.age = fr.g.nextAge ∧ x.waitCount = 0 ∧ x.pc = past fr 1 ∧ x.mask = fr.sp.mask)) ∧
    (∀ (f : IFmt) s fr, Reaches s f.h { resv := resvPred f.h || resvReg f.d || resvReg f.a } fr → fr.any = true →
      (fr.g.isSeq = false → -1 ≤ f.imm.val → f.imm.val ≤ 1 →
        ∃ t g, exec (.role f) s = .next t ∧ t.group? fr.key = some g ∧ g.role = f.imm.val ∧
          Effect fr (past fr 1) .none [] .none (t.modGroup fr.key (fun g => { g with role := fr.g.role }))) ∧
      (fr.g.isSeq = true ∨ f.imm.val < -1 ∨ 1 < f.imm.val →
        exec (.role f) s = .next (fr.s.takeTrap fr.key fr.sp.idx (fr.trap .roleIllegal)))) ∧
    (∀ (f : IFmt) s fr, Reaches s f.h (regionUse f) fr → fr.any = true →
      (fr.sp.region = none → ∃ t, exec (.regionOpen f) s = .next t ∧ SplitsChange fr t (fun g => ∃ x, g.split? fr.sp.idx = some x ∧
        x.pc = past fr 1 ∧ x.region = some fr.sp.pc ∧ x.ecount = Tern.ofInt 27 (fr.sp.ecount.val + 1))) ∧
      (fr.sp.region.isSome = true →
        (exec (.regionOpen f) s = .next (fr.s.takeTrap fr.key fr.sp.idx (fr.trap .regionNesting))) ∧
        ((∀ a ∈ fr.g.infl, a.split = fr.sp.idx → a.done = true) → (∀ d ∈ fr.g.faults, d.split ≠ fr.sp.idx) →
          ∃ t, exec (.regionClose f) s = .next t ∧ SplitsChange fr t (fun g => ∃ x, g.split? fr.sp.idx = some x ∧
            x.pc = past fr 1 ∧ x.region = none ∧ x.ecount = fr.sp.ecount))) ∧
      (fr.sp.region = none → exec (.regionClose f) s = .next (fr.s.takeTrap fr.key fr.sp.idx (fr.trap .regionNesting)))))

/-! ## Traps and the return from them -/

/-- The word of CAUSE holds code, lane, split, deferral, INFO and CODE2 in the fields of its rule; a trap of a group with a handler
saves CAUSE, EPC, EREGION and ECOUNT, sets HDEPTH 1, holds the other splits and goes on at TVEC, and no register, flag or memory
changes. (R97, R200, R205, R206) -/
def Obligations.TrapEntry : Prop :=
  (∀ code lane split defer : Nat, ∀ info : Int, ∀ code2 : Nat,
      code ≤ 96 → lane ≤ 31 → split ≤ 3 → defer ≤ 1 → -3280 ≤ info → info ≤ 3280 → code2 ≤ 96 →
      let w := causeWord code lane split defer info code2
      (w.field 0 5).val = code ∧ (w.field 5 5).val = lane ∧ (w.field 10 2).val = split ∧ w.trit 12 = defer ∧ w.trit 13 = 0 ∧
        (w.field 14 8).val = info ∧ (w.field 22 5).val = code2) ∧
  (∀ (s : State) (key i : Nat) (ti : TrapInfo) (g : Group) (sp : Split), s.group? key = some g → g.split? i = some sp → ti.deferred = none → takesToHandler s g ti.cause →
      EntersHandler s (s.takeTrap key i ti) key i ti)

/-- With HDEPTH 1 the code goes to CODE2 and HDEPTH becomes 2; with TVEC 0, or for a debugger's trap where none is attached, CAUSE,
EPC, EREGION and ECOUNT are written and the split is outside any region; in both the group stops, its other registers, its other
splits, the other groups and memory stay. (R205, R206, R353) -/
def Obligations.TrapWithoutHandler : Prop :=
  ∀ (s : State) (key i : Nat) (ti : TrapInfo) (g : Group) (sp : Split), s.group? key = some g → g.split? i = some sp → ti.deferred = none → g.isWalker = false →
    g.machineStopped = false →
    (s.toHandler g.launch ti.cause = true ∨ ti.cause.delivery = .debugger ∧ s.attached g.launch = false) →
    let stops := fun (P : Group → Prop) => ∃ g' x, (s.takeTrap key i ti).group? key = some g' ∧ g'.split? i = some x ∧ P g' ∧
      g'.status = .stopped ti.cause i ∧ g'.v = g.v ∧ g'.s = g.s ∧ g'.p = g.p ∧ g'.fstat = g.allFlags ∧ g'.tvec = g.tvec ∧ g'.scheck = g.scheck ∧
      g'.role = g.role ∧ g'.domain = g.domain ∧ g'.privileged = g.privileged ∧ g'.trapSplit = g.trapSplit ∧ g'.heldSplits = g.heldSplits ∧
      (x.pc, x.mask, x.wait, x.tokens, x.falls) = (sp.pc, sp.mask, sp.wait, sp.tokens, sp.falls) ∧
      (x.region, x.ecount) = ((if g.hdepth = 0 then none else sp.region), sp.ecount) ∧
      (∀ j, j ≠ i → (g'.split? j).map settledSplit = (g.split? j).map settledSplit) ∧ othersKept s (s.takeTrap key i ti) key ∧
      ∃ records, (s.takeTrap key i ti) = { s with
        groups := (s.takeTrap key i ti).groups, walkFails := (s.takeTrap key i ti).walkFails, fresh := (s.takeTrap key i ti).fresh, records := records
        stops := s.stops ++ [⟨g.launch, ti.cause, some ⟨key, i, g'.epc, sp.mask⟩⟩] }
    (g.hdepth = 1 → stops (fun g' => g'.hdepth = 2 ∧
      (g'.cause.field 22 5).val = ti.cause.code ∧ g'.cause.field 0 22 = g.cause.field 0 22 ∧
      g'.epc = g.epc ∧ g'.epc2 = g.epc2 ∧ g'.eregion = g.eregion ∧ g'.ecount = g.ecount)) ∧
    (g.hdepth = 0 → g.tvec = azero ∨ s.toHandler g.launch ti.cause = false → stops (fun g' => g'.hdepth = 0 ∧
      g'.cause = causeWord ti.cause.code ti.lane i 0 ti.info 0 ∧ g'.epc = ti.epc ∧ g'.epc2 = azero ∧
      g'.eregion = sp.region.getD azero ∧ g'.ecount = (if sp.region.isSome then sp.ecount else wzero)))

/-- Each enters the handler with its cause, with its code as INFO where it has one, and with the EPC of its rule; nothing else
changes. (R69, R70, R113, R205, R207) -/
def Obligations.TrapInstructions : Prop :=
  (∀ (f : IFmt) s fr, Reaches s f.h { resv := sysI f false false } fr → fr.any = true → takesToHandler fr.s fr.g .softwareTrap →
    ∃ t, exec (.trap f) s = .next t ∧ EntersHandler fr.s { t with issued := fr.s.issued, free := fr.s.free } fr.key fr.sp.idx
      { cause := .softwareTrap, info := f.imm.val, epc := past fr 1 }) ∧
  (∀ (f : IFmt) s fr, Reaches s f.h { resv := resvPred f.h || resvReg f.d || resvReg f.a } fr → fr.any = true →
    takesToHandler fr.s fr.g .breakpoint →
    ∃ t, exec (.bkpt f) s = .next t ∧ EntersHandler fr.s { t with issued := fr.s.issued, free := fr.s.free } fr.key fr.sp.idx
      { cause := .breakpoint, info := f.imm.val, epc := past fr 1 }) ∧
  (∀ (w : Word) s fr, s.frame? ⟨Tern.ofIndex 2 0, Tern.ofIndex 2 8, Tern.zero 1⟩ = some fr →
    (takesToHandler fr.s fr.g .zeroWord → ∃ t, exec (.ztrap w) s = .next t ∧
      EntersHandler fr.s t fr.key fr.sp.idx { cause := .zeroWord, epc := fr.sp.pc }) ∧
    (takesToHandler fr.s fr.g .illegalOpcode → ∃ t, exec (.illegalOpcode w) s = .next t ∧
      EntersHandler fr.s t fr.key fr.sp.idx { cause := .illegalOpcode, epc := fr.sp.pc }))

/-- ERET goes on at EPC with the region state of EREGION and ECOUNT, ERET.region at EREGION outside any region; both set HDEPTH 0,
release the held splits and change no other register; outside a handler both trap RESERVED_FIELD. (R208) -/
def Obligations.ReturnFromTrap : Prop :=
  ∀ (f : RFmt) s fr, Reaches s f.h (eretUse f) fr → fr.any = true →
    let back := fun (i : Instr) (pc : Addr) (region : Option Addr) (count : Word) =>
      ∃ t g x, exec i s = .next t ∧ t.group? fr.key = some g ∧ g.split? fr.sp.idx = some x ∧ x.pc = pc ∧ x.region = region ∧ x.ecount = count ∧
        x.mask = fr.sp.mask ∧ g.hdepth = 0 ∧ g.trapSplit = none ∧ g.heldSplits = [] ∧ (∀ j, g.holds j = false) ∧
        g.cause = fr.g.cause ∧ g.epc = fr.g.epc ∧ g.epc2 = fr.g.epc2 ∧ g.eregion = fr.g.eregion ∧ g.ecount = fr.g.ecount ∧ g.tvec = fr.g.tvec ∧
        g.v = fr.g.v ∧ g.s = fr.g.s ∧ g.p = fr.g.p ∧ g.fstat = fr.g.allFlags ∧ g.scheck = fr.g.scheck ∧ g.role = fr.g.role ∧
        (∀ j, j ≠ fr.sp.idx → (g.split? j).map settledSplit = (fr.g.split? j).map settledSplit) ∧ othersKept fr.s t fr.key ∧ onlyGroups fr.s t
    (fr.g.hdepth ≠ 0 →
      (fr.g.eregion = azero → back (.eret f) fr.g.epc none fr.sp.ecount) ∧
      (fr.g.eregion ≠ azero → back (.eret f) fr.g.epc (some fr.g.eregion) fr.g.ecount) ∧
      (fr.g.eregion ≠ azero → back (.eretRegion f) fr.g.eregion none fr.g.ecount) ∧
      (fr.g.eregion = azero → exec (.eretRegion f) s = .next (fr.s.takeTrap fr.key fr.sp.idx (fr.trap .regionNesting)))) ∧
    (fr.g.hdepth = 0 →
      exec (.eret f) s = .next (fr.s.takeTrap fr.key fr.sp.idx (fr.trap .reservedField)) ∧
      exec (.eretRegion f) s = .next (fr.s.takeTrap fr.key fr.sp.idx (fr.trap .reservedField)))

/-! ## State registers -/

/-- RDST completes with the value of the state register in the scalar or pair D, for FSTAT, CAUSE, EPC, EREGION, ECOUNT, TVEC, SCHECK,
ROLEST, SPLITST, ENERGYCR, INFL, LAUNCHID, ARGPTR, HDEPTH, EPC2, WVADDR, WINFO and SLOGST, and changes nothing else. (R95, R185,
R197 to R199, R204) -/
def Obligations.ReadStateRegister : Prop :=
  ∀ (f : IFmt) s fr,
    let i := f.imm.val
    let reads := fun (pair : Bool) (v : Addr) =>
      Reaches s f.h { priv := decide (i < 0), resv := sysI f true false || (stPair i).isNone
                      opds := [if pair then pairOpd f.d.index false true else regOpd false f.d.index false true] } fr →
      fr.any = true → ∃ t, exec (.rdst f) s = .next t ∧
        Effect fr (past fr 1) .none (if pair then wrPair f.d.index v else [.s f.d.index (pairLo v)]) .none t
    let word := fun (w : Word) => reads false (mkPair w wzero)
    let number := fun (n : Int) => word (Tern.ofInt 27 n)
    (i = 1 → (∀ r ∈ fr.g.longs, r.split ≠ fr.sp.idx) → (∀ r ∈ fr.g.late, r.split ≠ fr.sp.idx) → word fr.g.fstat.word) ∧ (i = 2 → word fr.g.cause) ∧ (i = 3 → reads true fr.g.epc) ∧
    (i = 4 → reads true fr.g.eregion) ∧ (i = 5 → word fr.g.ecount) ∧ (i = 6 → reads true fr.g.tvec) ∧
    (i = 7 → number (if fr.g.scheck then 1 else 0)) ∧ (i = 8 → fr.g.isSeq = false → number fr.g.role) ∧
    (i = 9 → word (splitst fr.g fr.sp)) ∧ (i = 11 → word (fr.s.energycr fr.g)) ∧ (i = 12 → word (inflWord fr.g)) ∧
    (i = 13 → number (fr.g.launch : Int)) ∧
    (∀ l, fr.s.launch? fr.g.launch = some l → i = 14 → reads true l.argptr) ∧
    (i = 15 → number (fr.g.hdepth : Int)) ∧ (i = 16 → reads true fr.g.epc2) ∧
    (∀ m, fr.g.walk = some m → (i = -2 → reads true m.va) ∧ (i = -4 → word (winfo m))) ∧
    (i = -5 → number ((fr.s.sideLog.filter (fun e => e.core == fr.g.core)).length : Int))

/-- WRST completes with the register's new value and changes nothing else, for every register that a program may write; a value that
the register cannot hold traps RESERVED_FIELD and writes nothing. A write of FSTAT sets it, and the flags of a result that is
written later are added then. The clause on DOMAIN speaks only of values that its trits hold (log 31). (R48, R197 to R202, R204;
log 15, 31) -/
def Obligations.WriteStateRegister : Prop :=
  ∀ (f : IFmt) s fr,
    let i := f.imm.val
    let w := fr.readS 1 f.a.index
    let p := fr.readS2 1 f.a.index
    let reaches := fun (pair : Bool) =>
      Reaches s f.h { priv := decide (i < 0), resv := sysI f false true || (stPair i).isNone || !stWritable i
                      opds := [if pair then pairOpd f.a.index true false else regOpd false f.a.index true false] } fr ∧ fr.any = true
    let sets := fun (holds : Group → Prop) (old : Group → Group) =>
      ∃ t g, exec (.wrst f) s = .next t ∧ t.group? fr.key = some g ∧ holds g ∧ Effect fr (past fr 1) .none [] .none (t.modGroup fr.key old)
    let refuses := exec (.wrst f) s = .next (fr.s.takeTrap fr.key fr.sp.idx (fr.trap .reservedField))
    (∀ fl, i = 1 → reaches false → Flags.ofWord w = some fl → sets (fun g => g.fstat = fl ∧ g.late = fr.g.late) (fun g => { g with fstat := fr.g.fstat })) ∧
    (i = 1 → reaches false → Flags.ofWord w = none → refuses) ∧
    (i = 2 → reaches false → causeLegal w = true → sets (fun g => g.cause = w) (fun g => { g with cause := fr.g.cause })) ∧
    (i = 2 → reaches false → causeLegal w = false → refuses) ∧
    (i = 3 → reaches true → p.trit 0 = 0 → sets (fun g => g.epc = p) (fun g => { g with epc := fr.g.epc })) ∧
    (i = 3 → reaches true → p.trit 0 ≠ 0 → refuses) ∧
    (i = 4 → reaches true → p.trit 0 = 0 → sets (fun g => g.eregion = p) (fun g => { g with eregion := fr.g.eregion })) ∧
    (i = 4 → reaches true → p.trit 0 ≠ 0 → refuses) ∧
    (i = 5 → reaches false → sets (fun g => g.ecount = w) (fun g => { g with ecount := fr.g.ecount })) ∧
    (i = 6 → reaches true → p.trit 0 = 0 → sets (fun g => g.tvec = p) (fun g => { g with tvec := fr.g.tvec })) ∧
    (i = 6 → reaches true → p.trit 0 ≠ 0 → refuses) ∧
    (i = 7 → reaches false → w.val = 0 ∨ w.val = 1 → sets (fun g => g.scheck = (w.val == 1)) (fun g => { g with scheck := fr.g.scheck })) ∧
    (i = 7 → reaches false → w.val ≠ 0 → w.val ≠ 1 → refuses) ∧
    (i = 8 → reaches false → fr.g.isSeq = true → exec (.wrst f) s = .next (fr.s.takeTrap fr.key fr.sp.idx (fr.trap .roleIllegal))) ∧
    (i = 8 → reaches false → fr.g.isSeq = false → (w.val < -1 ∨ 1 < w.val) → refuses) ∧
    (i = 8 → reaches false → fr.g.isSeq = false → -1 ≤ w.val → w.val ≤ 1 → sets (fun g => g.role = w.val) (fun g => { g with role := fr.g.role })) ∧
    (i = 16 → reaches true → p.trit 0 = 0 → sets (fun g => g.epc2 = p) (fun g => { g with epc2 := fr.g.epc2 })) ∧
    (i = 16 → reaches true → p.trit 0 ≠ 0 → refuses) ∧
    -- with no active lane, and for every value that the register can hold, the instruction completes
    (∀ pair, Reaches s f.h { priv := decide (i < 0), resv := sysI f false true || (stPair i).isNone || !stWritable i
                             opds := [if pair then pairOpd f.a.index true false else regOpd false f.a.index true false] } fr →
      pair = (stPair i).getD false →
      (fr.any = false → ∃ t, exec (.wrst f) s = .next t ∧ Effect fr (past fr 1) .none [] .none t) ∧
      (∀ g1, fr.any = true → (fr.g.isSeq = true → i ≠ 8) → fr.g.stWrite i (if pair then p else mkPair w wzero) = some g1 →
        ∃ t, exec (.wrst f) s = .next t ∧ othersKept fr.s t fr.key ∧ onlyGroups fr.s t)) ∧
    (i = -6 → reaches false → (w.field 9 18).val = 0 →
      sets (fun g => g.domain = (w.field 0 9).index) (fun g => { g with domain := fr.g.domain }))

/-- In a group without privilege, TLBFILL, the three TLBINV forms, and RDST and WRST of a register with a negative index trap
PRIVILEGED. (R70, R198, R219) -/
def Obligations.Privilege : Prop :=
  ∀ s, ∀ h : Head, ∀ fr, s.frame? h = some fr → fr.g.priv = false →
    let traps := fun (i : Instr) => exec i s = .next (fr.s.takeTrap fr.key fr.sp.idx (fr.trap .privileged))
    (∀ f : RFmt, f.h = h → traps (.tlbfill f) ∧ traps (.tlbinv f) ∧ traps (.tlbinvDom f) ∧ traps (.tlbinvAll f)) ∧
    (∀ f : IFmt, f.h = h → f.imm.val < 0 → traps (.rdst f) ∧ traps (.wrst f))

/-! ## Fences and caches -/

/-- Where what a fence waits for is done, its split goes on, and the L1 copies and dirty tiles are as its fields say; CFLUSH writes
back or drops the tiles that its lanes name, in its three modes; ICINV drops the fetched words of the core, or of the rectangle.
That a fence holds its split until then is log 30. (R209, R210, R220, R221; log 30) -/
def Obligations.FencesAndCaches : Prop :=
  (∀ (f : IFmt) s fr, Reaches s f.h (fenceUse f) fr → fr.any = true → fr.g.faults = [] →
      let scope := (f.imm.field 0 2).index
      let go := fun (i : Instr) (rel acq : Bool) =>
        (∀ a ∈ fr.g.infl, fr.sp.idx ∈ a.before → a.done = true) → (∀ e ∈ fr.s.sideLog, ¬ (e.key = fr.key ∧ fr.sp.idx ∈ e.before)) →
        ∃ t, exec i s = .next t ∧ Effect fr (past fr 1) .none [] .none { t with l1 := fr.s.l1, l2 := fr.s.l2 } ∧
          (acq = true → 2 ≤ scope → ∀ x ∈ t.l1, x.core = fr.g.core → x.ro = true) ∧
          (f.imm.trit 4 = 1 → ∀ x ∈ t.l1, x.core ≠ fr.g.core) ∧ (∀ x ∈ t.l1, x ∈ fr.s.l1) ∧
          (rel = true → scope = 4 → ∀ e ∈ fr.g.stored, e.1 = fr.sp.idx → mapFind e.2 t.l2 ≠ some true)
      go (.fenceFull f) true true ∧ go (.fenceAcq f) false true ∧ go (.fenceRel f) true false) ∧
  ((∀ (f : MFmt) s fr locs r,
      let m := mOp f true 1 .load
      Reaches s f.h { vector := true, resv := resvPred f.h || decide (f.d.index < 40) || decide (42 < f.d.index)
                      opds := [if f.recd.index = 8 then regOpd true f.a.index true false 2 2 else regOpd true f.a.index true false] } fr →
      fr.any = true → fr.g.inflight 1 < 81 →
      (f.recd.index = 8 ∧ r = none ∨ f.recd.index ≠ 8 ∧ r.isSome = true ∧
        parseRec (fr.s.nslot fr.g.launch) ((fr.s.records_ fr.g).getD f.recd.index []) = r) →
      cflushLanes fr m r fr.lanes = .ok locs →
      let go := fun (i : Instr) (l1 : Bool) (after : Option Bool → Prop) =>
        ∃ t u n, exec i s = .next t ∧ Effect fr (past fr 1) .none [] .none u ∧
          { t with l1 := fr.s.l1, l2 := fr.s.l2, l2tags := fr.s.l2tags } = u.chargeTiles fr.key n ∧
          ∀ e ∈ tilesOf locs, after (mapFind (tileCoord e.1 e.2.1) t.l2) ∧
            (l1 = true → ∀ x ∈ t.l1, x.core = fr.g.core → x.tile ≠ tileCoord e.1 e.2.1)
      go (.cflushL1 f) true (fun _ => True) ∧ go (.cflushWb f) false (fun d => d ≠ some true) ∧ go (.cflushInv f) true (fun d => d = none)) ∧
    (∀ (f : RFmt) s fr, Reaches s f.h (icinvUse f) fr → fr.any = true →
      let own := [fr.g.core, 256 + clusterOf fr.g.core]
      (∃ t, exec (.icinv f) s = .next t ∧ Effect fr (past fr 1) .none [] .none { t with icache := fr.s.icache, badIc := fr.s.badIc } ∧
        ∀ e ∈ t.icache, e.1 / 2 ^ 40 ∉ own) ∧
      (∀ l, fr.s.launch? fr.g.launch = some l →
        ∃ t, exec (.icinvRect f) s = .next t ∧ Effect fr (past fr 1) .none [] .none { t with icache := fr.s.icache, badIc := fr.s.badIc } ∧
          ∀ e ∈ t.icache, ∀ x y, x < 2 ^ l.logw → y < 2 ^ l.logh →
            e.1 / 2 ^ 40 ≠ coreOf (l.x + x) (l.y + y) ∧ e.1 / 2 ^ 40 ≠ 256 + clusterOf (coreOf (l.x + x) (l.y + y)))))

/-- TLBFILL puts a legal leaf into the translation buffers of the core and its cluster and traps TABLE_FORMAT on any other word, a
leaf of the reserved TILING included; TLBINV removes the entries its mode names and no other. (R218, R219, R366) -/
def Obligations.TranslationInstructions : Prop :=
  (∀ (f : RFmt) s fr,
    Reaches s f.h { priv := true, resv := resvPred f.h || plainR f || (f.d.index != 40 && f.d.index != 41)
                    opds := [pairOpd f.a.index true false, regOpd false f.b.index true false] } fr →
    fr.any = true →
    let pte := fr.readS 2 f.b.index
    let page := pageNum (fr.readS2 1 f.a.index)
    let large := f.d.index == 41
    let dom := match fr.g.walk with | some m => if fr.g.domain = 0 then m.domain else fr.g.domain | none => fr.g.domain
    let last := if large then pteFrame pte + 19682 else pteFrame pte
    (pteType pte = 1 → pte.trit 0 = 0 → pteTiling pte ≠ -1 → 0 ≤ pteFrame pte → last < (frameCount : Int) → fr.g.walkStale = false → fr.g.isSeq = false →
      fr.g.core < 256 →
      ∃ t, exec (.tlbfill f) s = .next t ∧ Effect fr (past fr 1) .none [] .none { t with tlbs := fr.s.tlbs } ∧
        ∀ u ∈ [fr.g.core, 256 + clusterOf fr.g.core], ∃ e ∈ t.tlbs, e.unit_ = u ∧ e.domain = dom ∧ e.pte = pte ∧ e.large = large ∧
          e.page = (if large then page / 19683 * 19683 else page)) ∧
    (pteType pte ≠ 1 ∨ pte.trit 0 ≠ 0 ∨ pteTiling pte = -1 ∨ pteFrame pte < 0 ∨ (frameCount : Int) ≤ last →
      exec (.tlbfill f) s = .next (fr.s.takeTrap fr.key fr.sp.idx (fr.trap .tableFormat)))) ∧
  (∀ (f : RFmt) s fr, Reaches s f.h (tlbinvUse f) fr → fr.any = true →
    let drops := fun (i : Instr) (gone : TlbEntry → Prop) =>
      ∃ t g, exec i s = .next t ∧ t.group? fr.key = some g ∧ regsKept fr.g g ∧ t.mem = fr.s.mem ∧
        (∀ e ∈ t.tlbs, e ∈ fr.s.tlbs ∧ ¬ gone e) ∧ (∀ e ∈ fr.s.tlbs, ¬ gone e → e ∈ t.tlbs) ∧
        ∀ k, k ≠ fr.key → (t.group? k).map (fun g => { g with walkStale := false }) = (fr.s.group? k).map (fun g => { g with walkStale := false })
    let mine := fun (e : TlbEntry) => e.unit_ = fr.g.core ∨ e.unit_ = 256 + clusterOf fr.g.core
    drops (.tlbinv f) (fun e => mine e ∧ e.covers fr.g.domain (pageNum (fr.readS2 1 f.a.index)) = true) ∧
    drops (.tlbinvDom f) (fun e => e.domain = fr.g.domain) ∧ drops (.tlbinvAll f) mine)

/-! ## Waits -/

/-- WAITP, SLEEP, BAR, RBAR, XBAR, WAITGE and BWAIT complete with their split waiting for what the instruction names, and go past it;
WAITP goes on at once where its counter allows. The order of the checks of WAITGE and of a fault at WAITP are the readings of logs
28 and 29. (R211 to R217, R222; log 28, 29) -/
def Obligations.WaitsBegin : Prop :=
  (∀ (f : IFmt) s fr,
    let n := f.imm.val.toNat
    let bound := (fr.readS 1 f.a.index).val.toNat
    (Reaches s f.h { resv := sysI f false true || decide (f.imm.val < 0) || decide (4 < f.imm.val), opds := [regOpd false f.a.index true false] } fr →
      fr.any = true → (∀ d ∈ fr.g.faults, d.path ≠ n) →
      ∃ t, exec (.waitp f) s = .next t ∧ Effect fr (past fr 1) (if fr.g.inflight n ≤ bound then .none else .waitp n bound) [] .none t) ∧
    (Reaches s f.h { resv := sysI f false false || decide (f.imm.val < 0) } fr → fr.any = true →
      ∃ t, exec (.sleep f) s = .next t ∧ Effect fr (past fr 1) (.sleep (fr.s.now + 27 * n)) [] .none t) ∧
    -- BAR, where no group of the crew waits at another barrier
    (Reaches s f.h { vector := true, resv := sysI f false false || decide (f.imm.val < 0) || decide (8 < f.imm.val) } fr → fr.any = true →
      fr.g.resp = none → (∀ e ∈ fr.s.groups, e.2.launch = fr.g.launch → ∀ m ∈ e.2.bars, m = n) →
      ∃ t, exec (.bar f) s = .next t ∧ Effect fr (past fr 1) (.bar n) [] .none t) ∧
    -- RBAR, within the launch's sides and with no clash
    (∀ l, Reaches s f.h { vector := true, resv := sysI f false false || (f.imm.field 6 2).val != 0 } fr → fr.any = true →
      fr.s.launch? fr.g.launch = some l → rbarW f.imm ≤ 4 → rbarH f.imm ≤ 4 → rbarW f.imm ≤ l.logw → rbarH f.imm ≤ l.logh →
      (∀ e ∈ fr.s.groups, e.2.launch = fr.g.launch → ∀ x ∈ e.2.splits, ∀ i, x.wait = .rbar i → i = f.imm) →
      (∀ g ∈ fr.s.savedOf fr.g.launch, ∀ x ∈ g.splits, ∀ i, x.wait = .rbar i → i = f.imm) →
      ∃ t, exec (.rbar f) s = .next t ∧ Effect fr (past fr 1) (.rbar f.imm) [] .none t)) ∧
  (∀ (f : LFmt) s fr l,
    Reaches s f.r.h { vector := true
                      resv := resvPred f.r.h || resvReg f.r.a || resvReg f.r.b || plainR f.r || decide (xbarMembers f.ext < 1)
                        || decide (384 < xbarMembers f.ext) || decide (xbarTimeoutUs f.ext < 0) || (f.ext.field 0 6).val != 0
                      opds := [regOpd false f.r.d.index false true] } fr →
    fr.any = true → fr.s.launch? fr.g.launch = some l → l.memberLost = false → (xbarMembers f.ext ≤ 1 ∨ l.gang.isSome = true) →
    ∃ t, exec (.xbar f) s = .next t ∧
      Effect fr (past fr 2) (.xbar (xbarMembers f.ext).toNat (xbarTimeoutUs f.ext).toNat f.r.d.index fr.s.now) [] .none t) ∧
  (∀ (f : RFmt) s fr ps locs,
    let a := fr.readS2 1 f.a.index
    let v := (fr.readS2 2 f.b.index).val
    Reaches s f.h { resv := resvPred f.h || plainR f
                    opds := [pairOpd f.d.index false true, pairOpd f.a.index true false, pairOpd f.b.index true false] } fr →
    fr.any = true → laneCheck fr.s (fr.g.agent fr.sp.idx) counterReq false [a] = .ok ps →
    placeLocs [0, 1, 2, 3, 4, 5, 6, 7] ps = some locs → 0 ≤ v → v < 2 ^ 64 → fr.s.logged fr.key fr.sp.idx a = false →
    ∃ t, exec (.waitge f) s = .next t ∧
      Effect fr (past fr 1) (.waitge locs v.toNat f.d.index fr.s.now 0) [] .none { t with tlbs := fr.s.tlbs }) ∧
  (∀ (f : MFmt) s fr a locs,
    Reaches s f.h { resv := resvPred f.h, opds := scalarOpds f true true } fr → fr.any = true →
    fr.wordPlace f (barrierReq false) = .ok (a, locs) →
    ∃ t, exec (.bwait f) s = .next t ∧
      Effect fr (past fr 1) (.bwait locs ((fr.readS 0 f.d.index).trit 26) f.d.index fr.s.now wzero) [] .none t)

/-- The events of WAITP, SLEEP, WAITGE and BWAIT end the wait when its condition holds and deliver the value read; a WAITGE on this
device's own number goes through its own IMPORT and traps what that refuses; a BWAIT that reads a negative count traps the cause
that the count names; a wait past its time traps WAIT_TIMEOUT or BARRIER_TIMEOUT at its instruction. (R165, R211 to R213, R216,
R217, R222, R275 to R277, R374) -/
def Obligations.WaitsEnd : Prop :=
  (∀ (core slot i : Nat) (s : State) (g : Group) (x : Split), s.waiter core slot i = some (g, x) →
      let key := gkey core slot
      let delivers := fun (e : Instr) (ws : List Wr) =>
        ∃ t g', exec e s = .next t ∧ t.group? key = some g' ∧ (g'.split? i).map settledSplit = some (settledSplit { x with wait := .none }) ∧
          (∀ r, r < 80 → g'.sreg r = scalAfter ws r (g.sreg r)) ∧ g'.v = g.v ∧ g'.p = g.p ∧ g'.fstat = g.fstat ∧ special g' = special g ∧
          (∀ y ∈ t.l1, y ∈ s.l1) ∧ othersKept s t key ∧ onlyGroups s { t with l1 := s.l1 }
      (∀ path bound, x.wait = .waitp path bound → g.inflight path ≤ bound →
        ∃ t, exec (.waitpComplete core slot i) s = .next t ∧ Released s t key i) ∧
      (∀ u, x.wait = .sleep u → u ≤ s.now → ∃ t, exec (.sleepEnd core slot i) s = .next t ∧ Released s t key i) ∧
      (∀ locs v d since last ts, x.wait = .waitge locs v d since last → s.readFree g i locs = true → s.ownKey g.domain false locs = none →
        (∀ at_, (s.reachRead g.domain locs).2 = .ok at_ → s.readLocs at_ = .ok ts → v ≤ counterValue ts →
          delivers (.waitgeComplete core slot i) (wrPair d (Tern.ofInt 54 (counterValue ts : Int)))) ∧
        (∀ c, (s.reachRead g.domain locs).2 = .error c →
          exec (.waitgeComplete core slot i) s = .next ((s.reachRead g.domain locs).1.trapWaiter key i 1 c))) ∧
      (∀ locs phase d since last ts, x.wait = .bwait locs phase d since last → s.readFree g i locs = true → s.readLocs locs = .ok ts →
        0 ≤ barrierCount (wordOfTrytes ts) → ((wordOfTrytes ts).trit 26 ≠ phase ∨ barrierCount (wordOfTrytes ts) = 0) →
        delivers (.bwaitComplete core slot i) [.s d (wordOfTrytes ts)])) ∧
  (∀ (core slot i : Nat) (s : State) (g : Group) (x : Split), s.waiter core slot i = some (g, x) →
      let key := gkey core slot
      let traps := fun (e : Instr) (c : Cause) (len : Int) =>
        takesToHandler s g c → ∃ t, exec e s = .next t ∧ EntersHandler s t key i { cause := c, epc := pcAdd x.pc (-len) }
      (∀ locs v d since last, x.wait = .waitge locs v d since last → s.passed (s.waitLimit g.launch) since = true →
        traps (.waitTimeout core slot i) .waitTimeout 1) ∧
      (∀ locs phase d since last, x.wait = .bwait locs phase d since last → s.passed (s.waitLimit g.launch) since = true →
        traps (.barrierTimeout core slot i) .barrierTimeout 1) ∧
      -- a negative count traps with the cause that it names
      (∀ locs phase d since last ts, x.wait = .bwait locs phase d since last → s.readFree g i locs = true → s.readLocs locs = .ok ts →
        (∀ c : Cause, barrierCount (wordOfTrytes ts) = -(c.code : Int) → c.code ≠ 0 → traps (.bwaitComplete core slot i) c 1) ∧
        (barrierCount (wordOfTrytes ts) < -96 → traps (.bwaitComplete core slot i) .barrierUnderflow 1)) ∧
      (∀ m us d since l, x.wait = .xbar m us d since → s.launch? g.launch = some l → l.xbarAbsent = [] →
        (∀ sh ∈ l.shares, sh.state = .resident) → s.passed (us * usCycles) since = true →
        traps (.xbarTimeout core slot i) .barrierTimeout 2))

/-- Where every group of a crew, every crew of a sub-rectangle, or every crew of the launch and every other member has arrived, the
event frees their splits, and XBAR gives each its number; after RBAR and XBAR no older L1 copy of their cores is left; a lost
member is remembered, and traps the splits that wait. That waiters which name different MEMBERS do not complete is log 106. (R214
to R216, R231; log 106) -/
def Obligations.BarriersComplete : Prop :=
  (∀ (s : State) (launch core crew : Nat),
      let freed := fun (t : State) (g : Group) => t.group? g.key = some { g with splits := g.splits.map (fun x => { x with wait := .none }) }
      (∀ n, s.crewGroups launch core crew ≠ [] →
        (∀ g ∈ s.crewGroups launch core crew, g.arrived (fun w => w == .bar n) = true ∧ s.settled g = true) →
        ∃ t, exec (.barComplete launch core crew n) s = .next t ∧ onlyGroups s t ∧
          ∀ g ∈ s.crewGroups launch core crew, s.group? g.key = some g → freed t g) ∧
      (∀ x y imm l, s.launch? launch = some l →
        let cores := subRect x y (rbarW imm) (rbarH imm)
        let here := fun (g : Group) => g.launch = launch ∧ g.core ∈ cores ∧ g.isSeq = false ∧ g.arrived (fun w => w == .rbar imm) = true
        (∀ c ∈ cores, ∀ k, k < l.crewsPer → s.crewArrived l c k (fun w => w == .rbar imm) = true) →
        ∃ t, exec (.rbarComplete launch x y imm) s = .next t ∧ onlyGroups s { t with l1 := s.l1, launches := s.launches } ∧
          (∀ m, m ≠ launch → t.launch? m = s.launch? m) ∧ ∀ g, s.group? g.key = some g → here g → freed t g ∧ ∀ z ∈ t.l1, z.core = g.core → z.ro = true) ∧
      (∀ l others, s.launch? launch = some l → l.xbarAbsent = [] → l.savedNone = true → l.memberLost = false →
        (∀ i, i < 2 ^ l.logw → ∀ j, j < 2 ^ l.logh → ∀ k, k < l.crewsPer → s.crewArrived l (coreOf (l.x + i) (l.y + j)) k atXbar = true) →
        (∀ e ∈ s.groups, e.2.launch = launch → ∀ x ∈ e.2.splits, ∀ m u d since, x.wait = .xbar m u d since → m = others + 1) →
        (∃ e ∈ s.groups, e.2.launch = launch ∧ e.2.isSeq = false ∧ e.2.arrived atXbar = true) →
        mapSorted s.groups = true → (∀ e ∈ s.groups, e.2.key = e.1) →
        let number := Tern.ofInt 27 ((l.xbarGen + 1 : Nat) : Int)
        let waits := fun (g : Group) => g.launch = launch ∧ g.isSeq = false ∧ g.arrived atXbar = true
        ∃ t l', exec (.xbarComplete launch others) s = .next t ∧ t.launch? launch = some l' ∧ l' = { l with xbarGen := l.xbarGen + 1 } ∧
          (∀ m, m ≠ launch → t.launch? m = s.launch? m) ∧ onlyGroups s { t with l1 := s.l1, launches := s.launches } ∧
          (∀ k g, s.group? k = some g → ¬ waits g → t.group? k = some g) ∧
          -- each waiting split goes on past its instruction with the number in its register, and nothing else of its group changes
          ∀ k g, s.group? k = some g → waits g → (g.splits.map (·.idx)).Nodup → ∃ g', t.group? k = some g' ∧
            (∀ x ∈ g.splits, (g'.split? x.idx).map settledSplit = some (settledSplit { x with wait := .none })) ∧
            (∀ r, r < 80 → g'.sreg r = if g.splits.any (fun x => match x.wait with | .xbar _ _ d _ => d == r | _ => false) then number else g.sreg r) ∧
            g'.v = g.v ∧ g'.p = g.p ∧ g'.allFlags = g.allFlags ∧ special g' = special g ∧ ∀ z ∈ t.l1, z.core = g.core → z.ro = true)) ∧
  (∀ (s : State) (launch : Nat) (l : Launch), s.launch? launch = some l → mapSorted s.groups = true →
      ∃ t l', exec (.xbarMemberLost launch) s = .next t ∧ t.launch? launch = some l' ∧ l' = { l with memberLost := true } ∧ t.mem = s.mem ∧
        (∀ k g, s.group? k = some g → (∀ x ∈ g.splits, atXbar x.wait = false) → t.group? k = some g) ∧
        -- one that waits traps at its instruction
        ∀ k g x, s.group? k = some g → g.launch = launch → takesToHandler s g .xbarMemberLost →
          g.splits.find? (fun x => atXbar x.wait && g.awake x.idx) = some x → (g.splits.map (·.idx)).Nodup →
          ∃ g', t.group? k = some g' ∧ g'.cause = causeWord Cause.xbarMemberLost.code 0 x.idx 0 0 0 ∧ g'.epc = pcAdd x.pc (-2) ∧
            g'.hdepth = 1 ∧ g'.trapSplit = some x.idx ∧ g'.v = g.v ∧ g'.s = g.s ∧ g'.p = g.p)

/-! ## Time and observation -/

/-- CLOCK reads the cycle count, CLOCK.ns the time base and PERF a counter of the group; MARK makes its record where a session takes
it and the stream has room. That a core may read up to 8 cycles ahead is the form in which log 7 takes the skew that the spec
allows. (R223 to R225; log 7) -/
def Obligations.ClocksAndMarks : Prop :=
  ((∀ (f : RFmt) s fr, Reaches s f.h (clockUse f) fr → fr.any = true →
      (∃ t n, exec (.clock f) s = .next t ∧ fr.s.now ≤ n ∧ n ≤ fr.s.now + 8 ∧
        Effect fr (past fr 1) .none (wrPair f.d.index (Tern.ofInt 54 (n : Int))) .none t) ∧
      (∃ t, exec (.clockNs f) s = .next t ∧
        Effect fr (past fr 1) .none (wrPair f.d.index (Tern.ofInt 54 ((fr.s.timeBase / 10 : Nat) : Int))) .none t)) ∧
    (∀ (f : IFmt) s fr,
      Reaches s f.h { resv := sysI f true false || decide (f.imm.val < 0) || decide (7 < f.imm.val), opds := [regOpd false f.d.index false true] } fr →
      fr.any = true →
      let k := f.imm.val.toNat
      let v : Nat := if fr.g.isSeq = true ∧ k ≠ 0 ∧ k ≠ 2 ∧ k ≠ 3 then 0 else fr.g.perf.getD k 0
      ∃ t, exec (.perf f) s = .next t ∧
        Effect fr (past fr 1) .none [.s f.d.index (Tern.ofInt 27 (if (half 27 : Int) < (v : Int) then (half 27 : Int) else (v : Int)))] .none t)) ∧
  (∀ (f : IFmt) s fr, Reaches s f.h { resv := sysI f false true, opds := [regOpd false f.a.index true false] } fr → fr.any = true →
      (fr.s.traced 1 fr.g.launch = false → ∃ t, exec (.mark f) s = .next t ∧ Effect fr (past fr 1) .none [] .none t) ∧
      (fr.s.traced 1 fr.g.launch = true → (∀ r ∈ fr.s.records, r.die ≠ dieOf fr.g.core) →
        ∃ t r, exec (.mark f) s = .next t ∧ t.records = fr.s.records ++ [r] ∧ r.kind = 1 ∧ r.launch = fr.g.launch ∧ r.src = fr.key ∧
          (r.bytes.drop 48).take 2 = signedBytes 2 f.imm.val ∧ Effect fr (past fr 1) .none [] .none { t with records := fr.s.records }))

/-- STOP stops its group with HALT_REQUEST past the instruction and writes its trap registers; with reach +1 it halts every running
group of the launch. (R226, R388, R389, R434) -/
def Obligations.StopsForDebugger : Prop :=
  ∀ (f : IFmt) s fr, Reaches s f.h (stopUse f) fr → fr.any = true →
    (fr.g.isWalker = false → fr.g.machineStopped = false → fr.g.hdepth = 0 →
      ∃ t g, exec (.stop f) s = .next t ∧ t.group? fr.key = some g ∧ g.status = .stopped .haltRequest fr.sp.idx ∧
        g.cause = causeWord Cause.haltRequest.code 0 fr.sp.idx 0 (f.imm.field 1 7).val 0 ∧ g.epc = past fr 1 ∧ g.epc2 = azero ∧
        g.v = fr.g.v ∧ g.s = fr.g.s ∧ g.p = fr.g.p ∧ g.hdepth = 0 ∧ othersKept fr.s t fr.key ∧ t.mem = fr.s.mem) ∧
    (∀ l, fr.s.launch? fr.g.launch = some l → l.halted = none → l.complete = false →
      ∃ t l', exec (.stopLaunch f) s = .next t ∧ t.launch? fr.g.launch = some l' ∧ l'.halted = some .haltRequest ∧ t.mem = fr.s.mem ∧
        ∀ k g x, fr.s.group? k = some g → g.launch = fr.g.launch → g.isWalker = false → g.status = .running → g.split? g.stopSplit = some x →
          mapFind k fr.s.fresh = none →
          ∃ g', t.group? k = some g' ∧ g'.status = .halted .haltRequest)

/-! ## Loads, stores and atomics -/

/-- For every load, store, scoped access and atomic: a bad record and the first failing address check trap with their cause; an access
whose checks pass is in flight with the places, data and counters of its rule, or stands in the side log where its page is not
there yet; nothing else changes. (R176 to R194; log 39) -/
def Obligations.MemoryIssue : Prop :=
  (∀ f : MFmt,
    let go := fun (i : Instr) (vec : Bool) (size : Nat) (kind : AccKind) =>
      let m := mOp f vec size kind
      Issues i f.h (memUse f m) m 1 (fun _ => True) (fun fr => recordCheck fr.s fr.g m) m.req
    go (.ld9 f) true 1 .load ∧ go (.ld27 f) true 3 .load ∧ go (.ld54 f) true 6 .load ∧
    go (.st9 f) true 1 .store ∧ go (.st27 f) true 3 .store ∧ go (.st54 f) true 6 .store ∧
    go (.lds9 f) false 1 .load ∧ go (.lds27 f) false 3 .load ∧ go (.lds54 f) false 6 .load ∧
    go (.sts9 f) false 1 .store ∧ go (.sts27 f) false 3 .store ∧ go (.sts54 f) false 6 .store) ∧
  (∀ f : LFmt,
    let go := fun (i : Instr) (u : MemOp → Use) (m : MemOp) =>
      Issues i f.r.h (u m) m 2 (fun _ => True) (fun fr => recordCheck fr.s fr.g m) m.req
    go (.lda27 f) (scopedUse f) (scopedOp f 3 false) ∧ go (.lda54 f) (scopedUse f) (scopedOp f 6 false) ∧
    go (.stl27 f) (scopedUse f) (scopedOp f 3 true) ∧ go (.stl54 f) (scopedUse f) (scopedOp f 6 true) ∧
    go (.aadd f) (fun _ => atomicUse f .add true true) (atomicOp f .add) ∧
    go (.amin f) (fun _ => atomicUse f .min true false) (atomicOp f .min) ∧
    go (.amax f) (fun _ => atomicUse f .max true false) (atomicOp f .max) ∧
    go (.axchg f) (fun _ => atomicUse f .xchg false false) (atomicOp f .xchg) ∧
    go (.acas f) (fun _ => atomicUse f .cas false false) (atomicOp f .cas) ∧
    go (.atadd f) (fun _ => atomicUse f .tadd false false) (atomicOp f .tadd) ∧
    go (.afadd f) (fun _ => atomicUse f .fadd true true) (atomicOp f .fadd) ∧
    go (.aadd54 f) (fun _ => atomicUse f .add54 false true) (atomicOp f .add54))

/-- A load writes the words its places hold, converted, to its lanes; a store writes its data to its places and no other; an atomic
returns the old word and leaves the new one; a fault that comes with the data is recorded. What the conversions of a load and of a
store and the eight atomic operations compute is stated first. One event may read a tryte of each lane ahead, and another performs
the rest of the access: that is the model's choice of logs 2 and 80, and the counts and scales that the spec leaves open are logs
99 and 111. (R49 to R52, R180, R181, R184 to R186, R191 to R194; log 2, 26, 80, 99, 111) -/
def Obligations.AccessesReturn : Prop :=
  ConvMeaning ∧ LoadMeaning ∧ StoreMeaning ∧ AtomMeaning ∧
  ∀ (core slot k : Nat) (s : State) (g : Group) (a : Access),
    s.group? (gkey core slot) = some g → g.key = gkey core slot → g.infl.find? (fun a => a.seq == k) = some a → s.mayReturn g a = true →
    s.accessWait g a = none →
    let load := exec (.loadReturn core slot k) s
    let store := exec (.storeReturn core slot k) s
    let locs := a.lanes.flatMap (fun la => la.locs)
    let defers := fun (la : LaneAcc) (c : Cause) => a.hold = false → c.delivery ≠ .machine →
      ∃ t g', load = .next t ∧ t.group? g.key = some g' ∧ g'.faults = g.faults ++ [a.deferred c la.lane s.now] ∧ g'.v = g.v ∧ g'.s = g.s
    ((∀ la ∈ a.lanes, s.farFault la = none ∧ la.lane < 32) → (∀ c, a.conv = some c → c.cslot < 0) →
      (∀ vals : LaneAcc → List Word, a.kind = .load → l1Steady s g.core a.lanes →
        (∀ la ∈ a.lanes, ∃ ts ev, s.readLane g.core la = .ok ts ∧ loadValue a.conv a.size (a.seen la.lane ts) = (.ok (vals la), ev)) →
        ∃ t, load = .next t ∧ Returned s t g a (returnWrites a (a.lanes.map (fun la => (la.lane, vals la)))) ∧ onlyMemory s t g.key ∧
          t.mem = s.mem ∧ t.bufs = s.bufs ∧ t.hostMem = s.hostMem ∧ t.peerMem = s.peerMem) ∧
      (∀ (old : LaneAcc → List Tryte) (op : AtomOp) (toReg : Bool), a.kind = .atomic op toReg →
        (∀ la ∈ a.lanes, s.readLocs la.locs = .ok (old la) ∧ (∀ l ∈ la.locs, s.locPoisoned l = false) ∧
          placed s la.locs (atomTrytes op (old la) la.b la.cmp).length) →
        lanesApart a.lanes = true →
        ∃ t, (if toReg then load else store) = .next t ∧
          Returned s t g a (returnWrites a (a.lanes.map (fun la => (la.lane, nativeWords (old la).length (old la))))) ∧ onlyMemory s t g.key ∧
          storesOnly s t locs ∧ ∀ la ∈ a.lanes, t.readLocs la.locs = .ok (atomTrytes op (old la) la.b la.cmp)) ∧
      (∀ op toReg, a.kind = .atomic op toReg → ∃ t, (if toReg then load else store) = .next t ∧ storesOnly s t locs) ∧
      (a.kind = .store →
        ∃ t, store = .next t ∧ Returned s t g a [] ∧ onlyMemory s t g.key ∧ storesOnly s t locs ∧
          ((∀ la ∈ a.lanes, placed s la.locs la.data.length) → lanesApart a.lanes = true → ∀ la ∈ a.lanes, t.readLocs la.locs = .ok la.data)) ∧
      (a.kind = .flush → ∃ t, store = .next t ∧ Returned s t g a [] ∧ onlyGroups s t)) ∧
    -- a tryte of each element read ahead of the return
    (∀ i, a.kind = .load → ∃ t g', exec (.loadReturn core slot k (some i)) s = .next t ∧ t = { s with groups := t.groups } ∧ othersKept s t g.key ∧
      t.group? g.key = some g' ∧ g' = { g with infl := g'.infl } ∧
      g'.infl.map (fun b => { b with early := [] }) = g.infl.map (fun b => { b with early := [] }) ∧
      ∀ la ∈ a.lanes, ∀ ts x, a.early = [] → la.own s = false → s.farFault la = none → s.readLane g.core la = .ok ts → ts[i]? = some x →
        ∃ b ∈ g'.infl, b.seq = k ∧ (la.lane, i, x) ∈ b.early) ∧
    -- a fault that arrives with the data of a load of one lane
    (∀ la c, a.kind = .load → a.lanes = [la] → la.own s = false → l1Steady s g.core a.lanes →
      (s.farFault la = some c → defers la c) ∧ (s.farFault la = none → s.readLane g.core la = .error c → defers la c))

/-- The first entry of a side log is performed at its place once its page is served, asks for the key slot that its frame needs, and
becomes a deferred fault where its page cannot take it or will not be served; PREF changes nothing but caches. That a prefetch
skips a page that does not translate is log 40. (R193, R358 to R361; log 40) -/
def Obligations.SideLogAndPrefetch : Prop :=
  (∀ (core : Nat) (s : State) (e : SideEntry), s.logHead core = some e →
    (e.served = some true → (∀ g, s.group? e.key = some g → ∀ a ∈ g.infl, a.precedes e = false) →
      (∀ mk cache, s.entryPlace e = .at_ mk cache →
        let locs := e.op.span.map (fun d => mk ((pagePos e.va : Int) + d).toNat)
        let done := fun (ts : List Tryte) => ∃ t, exec (.sideLogReplay core) s = .next t ∧ t.sideLog = (s.logPop core).sideLog ∧
          storesOnly s t locs ∧ (placed s locs ts.length → t.readLocs locs = .ok ts) ∧
          t.groups = (s.modGroup e.key (fun g =>
            { g with stored := g.stored ++ (tilesOf locs).map (fun x => (e.split, tileCoord x.1 x.2.1)) })).groups
        (∀ d, e.op = .store d → badByte locs d = false → (∀ port a, Loc.host port a ∈ locs → port ∈ s.pcieUp) → done d) ∧
        (∀ op b c old, e.op = .reduce op b c → (∀ l ∈ locs, plain l) → s.readLocs locs = .ok old → done (atomTrytes op old b c))) ∧
      (∀ k, s.entryPlace e = .key k → exec (.sideLogReplay core) s = .next (s.askKey k)) ∧
      (∀ c g, s.entryPlace e = .fail c → s.group? e.key = some g →
        ∃ t, exec (.sideLogReplay core) s = .next t ∧ t.sideLog = (s.logPop core).sideLog ∧ t.mem = s.mem ∧ t.bufs = s.bufs ∧
          t.group? e.key = some { g with faults := g.faults ++ [e.deferred c s.now] } ∧ othersKept s t e.key)) ∧
    (∀ g, e.served = some false → s.group? e.key = some g →
      ∃ t, exec (.sideLogDiscard core) s = .next t ∧ t.sideLog = (s.logPop core).sideLog ∧ t.mem = s.mem ∧ t.bufs = s.bufs ∧
        t.group? e.key = some { g with faults := g.faults ++ [e.deferred .pageNotPresent s.now] } ∧ othersKept s t e.key)) ∧
  (∀ (f : MFmt) s fr, Reaches s f.h (prefUse f) fr → fr.any = true →
    (f.recd.index ≠ 8 → (parseRec (fr.s.nslot fr.g.launch) ((fr.s.records_ fr.g).getD f.recd.index [])).isSome = true) →
    let go := fun (i : Instr) => ∃ t u n, exec i s = .next t ∧ Effect fr (past fr 1) .none [] .none u ∧
      { t with l1 := fr.s.l1, l2 := fr.s.l2, l2tags := fr.s.l2tags, badL2 := fr.s.badL2, moved := fr.s.moved } =
        { u.chargeTiles fr.key n with moved := fr.s.moved } ∧
      ∀ x ∈ t.l1, x ∈ fr.s.l1 ∨ x.core = fr.g.core
    go (.pref f) ∧ go (.prefL2 f) ∧ ∀ t, exec (.prefL2 f) s = .next t → t.l1 = fr.s.l1)

/-! ## Tickets -/

/-- TKLD takes a free mooring entry and answers its handle, or answers 0 or waits where there is none; REDEEM and REDEEMB take the
entry for a delivery; TKDROP drops it; TKQ reports it; a handle of another domain traps TICKET_FOREIGN. (R245 to R261) -/
def Obligations.Tickets : Prop :=
  (∀ (lin : Bool) (f : LFmt) s fr r ps locs fm tile packed,
    let i := if lin then Instr.tkldLin f else Instr.tkld f
    let slice := homeSlice (tileCoord fm tile)
    let asked := fr.tkldAddrs f r lin (tkldLen f lin)
    Reaches s f.r.h (tkldUse f) fr → fr.any = true → nativeRecord fr.s fr.g (extRec f.ext) = .ok r →
    laneCheck fr.s (fr.g.agent fr.sp.idx) (tkldReq lin) asked.2 asked.1 = .ok ps → placeLocs (tkldRun lin) ps = some locs → (∀ a ∈ asked.1, fr.s.logged fr.key fr.sp.idx a = false) →
    locs.head?.bind Loc.tile = some (fm, tile, packed) → fr.g.inflight 0 < 81 →
    (∀ e, fr.s.tkWaiters slice = [] → fr.s.freeMoor slice = some e →
      let gen := nextGen (fr.s.moorGen slice e)
      ∃ t g m, exec i s = .next t ∧ t.group? fr.key = some g ∧ g.inflight 0 = fr.g.inflight 0 + 1 ∧
        Effect fr (past fr 2) .none [.s f.r.d.index (handleOf slice e gen)] .none { t with moor := fr.s.moor, tlbs := fr.s.tlbs } ∧
        mapFind (moorKey slice e) t.moor = some m ∧ m.state = .pending ∧ m.gen = gen ∧ m.len = tkldLen f lin ∧ m.extent = lin ∧
        m.domain = fr.g.domain ∧ m.launch = fr.g.launch ∧ ∀ k, k ≠ moorKey slice e → mapFind k t.moor = mapFind k fr.s.moor) ∧
    ((fr.s.tkWaiters slice ≠ [] ∨ fr.s.freeMoor slice = none) → f.ext.trit 15 = 1 →
      ∃ t, exec i s = .next t ∧ Effect fr (past fr 2) .none [.s f.r.d.index wzero] .none t) ∧
    ((fr.s.tkWaiters slice ≠ [] ∨ fr.s.freeMoor slice = none) → f.ext.trit 15 ≠ 1 →
      ∃ t n, exec i s = .next t ∧ Effect fr (past fr 2) (.tkld slice n) [] .none { t with tlbs := fr.s.tlbs } ∧
        ∀ w ∈ fr.s.tkWaiters slice, w.1 < n)) ∧
  (∀ (f : RFmt) s fr,
    let w := fr.elect f.src f.a.index
    let key := moorKey (handleSlice w) (handleEntry w)
    let d := f.d.index
    Reaches s f.h (redeemUse f) fr → fr.any = true → fr.g.inflight 0 < 81 →
    (∀ m, fr.s.redeemable fr.g.domain w = .ok m → (80 ≤ d ∨ (d + redeemSpan m.len ≤ 79 ∧ d + redeemSpan m.len < fr.g.nv)) →
      ¬ (m.state = .moored ∧ m.poison = true) →
      ∃ t u n m', exec (.redeem f) s = .next t ∧ { t with moor := fr.s.moor } = u.chargeTiles fr.key n ∧
        Effect fr (past fr 1) (if m.state = .pending then .redeem (handleSlice w) (handleEntry w) else .none) [] .none u ∧
        mapFind key t.moor = some m' ∧ m'.state = .redeeming ∧ m'.locked = (m.state == .pending) ∧ m'.data = m.data ∧
        m'.red = some (.regs fr.key fr.g.nextSeq d fr.act) ∧ ∀ k, k ≠ key → mapFind k t.moor = mapFind k fr.s.moor) ∧
    (∀ c, fr.s.redeemable fr.g.domain w = .error c → exec (.redeem f) s = .next (fr.s.takeTrap fr.key fr.sp.idx (fr.trap c)))) ∧
  (∀ (f : LFmt) s fr m,
    let w := fr.elect f.r.src f.r.a.index
    let key := moorKey (handleSlice w) (handleEntry w)
    let target := addrAdd (fr.readS2 2 f.r.b.index) (f.ext.field 21 6).val
    let barrier := addrAdd (fr.readS2 0 f.r.d.index) (f.ext.field 15 6).val
    let ag := fr.g.agent fr.sp.idx
    Reaches s f.r.h (redeembUse f) fr → fr.any = true → bufPairCheck fr.s ag (redeembReq false) target (redeembReq true) barrier = none →
    fr.g.storing fr.sp.idx ([-1, 0, 1].map (bufLoc fr.s ag barrier)) = false → fr.s.redeemable fr.g.domain w = .ok m →
    (m.extent = true ∨ tileAligned target = true) →
    (bufPos target : Int) + m.firstOfs + 3 * (m.len : Int) - 1 < bufLimit fr.s ag ((bufPath (addrPath target)).getD 0) target →
    ¬ (m.state = .moored ∧ m.poison = true) →
    ∃ t u n m', exec (.redeemb f) s = .next t ∧ { t with moor := fr.s.moor } = u.chargeTiles fr.key n ∧
      Effect fr (past fr 2) (if m.state = .pending then .redeem (handleSlice w) (handleEntry w) else .none) [] .none u ∧
      mapFind key t.moor = some m' ∧ m'.state = .redeeming ∧ m'.locked = (m.state == .pending) ∧ m'.data = m.data ∧
      m'.red = some (.buffer fr.key ((List.range (3 * m.len)).map (fun (i : Nat) => bufLoc fr.s ag target (m.firstOfs + (i : Int))))
        ([-1, 0, 1].map (bufLoc fr.s ag barrier)))) ∧
  (∀ (f : RFmt) s fr,
    let w := fr.elect f.src f.a.index
    let key := moorKey (handleSlice w) (handleEntry w)
    let look := fr.s.tkLook fr.g.domain w
    (Reaches s f.h (tkdropUse f) fr → fr.any = true →
      (∀ m, look = .entry m → m.state = .pending ∨ m.state = .moored →
        ∃ t, exec (.tkdrop f) s = .next t ∧ Effect fr (past fr 1) .none [] .none { t with moor := fr.s.moor } ∧
          mapFind key t.moor = some { m.drop with data := [] } ∧ ∀ k, k ≠ key → mapFind k t.moor = mapFind k fr.s.moor) ∧
      ((look = .stale ∨ look = .malformed ∨ ∃ m, look = .entry m ∧ (m.state = .redeeming ∨ m.state = .free)) →
        ∃ t, exec (.tkdrop f) s = .next t ∧ Effect fr (past fr 1) .none [] .none t) ∧
      (look = .foreign → exec (.tkdrop f) s = .next (fr.s.takeTrap fr.key fr.sp.idx (fr.trap .ticketForeign)))) ∧
    (Reaches s f.h (tkqUse f) fr → fr.any = true →
      (look ≠ .foreign → ∃ t, exec (.tkq f) s = .next t ∧ Effect fr (past fr 1) .none [.s f.d.index (tkqWord w look)] .none t) ∧
      (look = .foreign → exec (.tkq f) s = .next (fr.s.takeTrap fr.key fr.sp.idx (fr.trap .ticketForeign)))))

/-- An entry that becomes free goes to the oldest waiting TKLD; a snapshot fills a pending entry; a delivery writes the registers or
the buffer and its barrier and frees the entry; an entry past the age limit is reclaimed. (R246, R250, R254, R255, R257) -/
def Obligations.TicketEvents : Prop :=
  (∀ (slice e q key i : Nat) (s : State) (g : Group) (a : Access) (d : Dest), s.freeMoor slice = some e →
    (s.tkWaiters slice).find? (fun w => (s.tkWaiters slice).all (fun v => decide (w.1 ≤ v.1))) = some (q, key, i) → s.group? key = some g →
    g.infl.find? (fun a => a.split == i && a.kind == .snapshot slice moorEntries) = some a → a.dest = some d →
    let gen := nextGen (s.moorGen slice e)
    ∃ t g' m, exec (.tkldWaitAllocate slice) s = .next t ∧ t.group? key = some g' ∧ mapFind (moorKey slice e) t.moor = some m ∧
      m.state = .pending ∧ m.gen = gen ∧ m.launch = g.launch ∧ m.domain = g.domain ∧
      (∀ r, r < 80 → g'.sreg r = scalAfter [.s d.reg (handleOf slice e gen)] r (g.sreg r)) ∧ g'.v = g.v ∧ g'.p = g.p ∧ g'.fstat = g.fstat ∧
      special g' = special g ∧ (∀ x, g'.split? i = some x → ∀ h n, x.wait ≠ .tkld h n) ∧ othersKept s t key ∧
      onlyGroups s { t with moor := s.moor }) ∧
  (∀ (slice e : Nat) (s : State) (m : Moor) (g : Group) (a : Access), mapFind (moorKey slice e) s.moor = some m → m.state = .pending →
    m.exited = false → m.red = none → s.snapshots slice e = [(m.key, a)] → m.seq = a.seq → s.group? m.key = some g → s.mayReturn g a = true →
    ∃ t g', exec (.ticketSnapshotComplete slice e) s = .next t ∧
      mapFind (moorKey slice e) t.moor = some { m with data := (s.snapshotData m.src).1, poison := (s.snapshotData m.src).2, age := 0, src := [], state := .moored } ∧
      t.group? m.key = some g' ∧ g'.infl = (g.finish a).infl ∧ g'.v = g.v ∧ g'.s = g.s ∧ othersKept s t m.key ∧
      ∃ u n, onlyGroups s u ∧
        { t with moor := s.moor, l1 := s.l1, l2 := s.l2, l2tags := s.l2tags, badL2 := s.badL2, moved := s.moved } = { u.chargeTiles m.key n with moved := s.moved }) ∧
  (∀ (slice e : Nat) (s : State) (m : Moor), mapFind (moorKey slice e) s.moor = some m → m.state = .redeeming → m.locked = false →
    let freed := fun (t : State) =>
      mapFind (moorKey slice e) t.moor = some { m with state := .free, end_ := .redeemed, red := none, data := [] }
    (∀ key seq reg mask g a, m.red = some (.regs key seq reg mask) → s.group? key = some g → g.key = key →
      g.infl.find? (fun a => a.seq == seq && a.kind == .delivery slice e) = some a →
      ∃ t, exec (.ticketDeliveryComplete slice e) s = .next t ∧ freed t ∧ Returned s t g a (returnWrites a (m.laneWords mask)) ∧
        onlyGroups s { t with moor := s.moor }) ∧
    (∀ key target barrier old, m.red = some (.buffer key target barrier) → placed s target (3 * m.data.length) → placed s barrier 3 →
      (∀ l ∈ barrier, l ∉ target) → s.readLocs barrier = .ok old →
      ∃ t, exec (.ticketDeliveryComplete slice e) s = .next t ∧ freed t ∧ t.groups = s.groups ∧ storesOnly s t (target ++ barrier) ∧
        t.readLocs target = .ok (m.data.flatMap trytesOfWord) ∧
        t.readLocs barrier = .ok (trytesOfWord (arriveWord (wordOfTrytes old) (3 * m.len))) ∧
        ∀ x ∈ bufTiles target, mapGet 0 t.tags (tagKey x.1 x.2.1 x.2.2) = 0)) ∧
  (∀ (slice e : Nat) (s : State) (m : Moor) (l : Launch), mapFind (moorKey slice e) s.moor = some m → m.state = .moored →
    s.launch? m.launch = some l → 0 < l.tkAge → l.tkAge < m.age → s.jcbWait m.launch [1] = none →
    ∃ t, exec (.ticketAgeExpiry slice e) s = .next t ∧ mapFind (moorKey slice e) t.moor = some m.drop ∧
      (∃ l', t.launch? m.launch = some l' ∧ l'.tkReclaimed = l.tkReclaimed + 1) ∧ t.groups = s.groups ∧ (l.jcb = azero → t.mem = s.mem))

/-! ## Tensor copies, tryte barriers, queues -/

/-- TCOPY is accepted with the job that its checks find and writes its status, or traps with the failing check; each tile arrives at
the barrier with 243, or with the fault on the last; a tryte of a tile, with the element that it belongs to read once, may be
written before its tile is complete, and each is written once; the job ends when all tiles are done. The event that shows a tryte
early is log 100. (R243, R268 to R277; log 22, 44, 100) -/
def Obligations.TensorCopies : Prop :=
  (∀ (f : LFmt) s fr, Reaches s f.r.h (tcopyUse f) fr → fr.any = true →
    (∀ job status, fr.tcopyJob f = .ok (job, status) →
      (∃ t, exec (.tcopy f) s = .next t ∧
        Effect fr (past fr 2) .none [.s f.r.d.index status] .none { t with tcJobs := fr.s.tcJobs, nextJob := fr.s.nextJob } ∧
        mapFind fr.s.nextJob t.tcJobs = some { job with waits := fr.s.tcDeps job.core job.foot } ∧ t.nextJob = fr.s.nextJob + 1 ∧
        ∀ k, k ≠ fr.s.nextJob → mapFind k t.tcJobs = mapFind k fr.s.tcJobs) ∧
      job.core = fr.g.core ∧ job.launch = fr.g.launch ∧ job.domain = fr.g.domain ∧ job.done = [] ∧
      job.barrier = [-1, 0, 1].map (bufLoc fr.s (fr.g.agent fr.sp.idx) (if 80 ≤ f.r.b.index then azero else fr.readS2 2 (f.r.b.index + 2))) ∧
      (status.field 0 13).val = Tern.val (Tern.ofInt 13 ((243 * job.extent.1 * job.extent.2 : Nat) : Int))) ∧
    (∀ ti, fr.tcopyJob f = .error (.trap ti) → exec (.tcopy f) s = .next (fr.s.takeTrap fr.key fr.sp.idx ti)) ∧
    (fr.g.isSeq = true → exec (.tcopy f) s = .next (fr.s.takeTrap fr.key fr.sp.idx (fr.trap .bufferPathForbidden)))) ∧
  (∀ (job plane tile : Nat) (s : State) (j : TcJob), mapFind job s.tcJobs = some j →
    (∀ w ∈ j.waits, mapFind w s.tcJobs = none) → plane < j.extent.1 → tile < j.extent.2 → (plane, tile) ∉ j.done →
    s.copyWait j = none →
    ∀ s1 fault old, (plane = 0 ∧ s.copyWrite j tile = some (s1, fault) ∨ plane ≠ 0 ∧ (0, tile) ∈ j.done ∧ s1 = s ∧ fault = none) →
    placed s1 j.barrier 3 → s1.readLocs j.barrier = .ok old → s1.tcJobs = s.tcJobs →
    let last := j.done.length + 1 = j.extent.1 * j.extent.2
    ∃ t, exec (.tcopyTileComplete job plane tile) s = .next t ∧
      mapFind job t.tcJobs = some { j with done := (plane, tile) :: j.done, fault := firstFault j.fault fault } ∧ storesOnly s1 t j.barrier ∧
      t.tags = s1.tags ∧ t.groups = s1.groups ∧
      t.readLocs j.barrier = .ok (trytesOfWord (match firstFault j.fault fault with
        | some (_, code) => if last then faultWord (wordOfTrytes old) code else arriveWord (wordOfTrytes old) 243
        | none => arriveWord (wordOfTrytes old) 243))) ∧
  (∀ (job tile idx : Nat) (s : State) (j : TcJob), mapFind job s.tcJobs = some j → (∀ w ∈ j.waits, mapFind w s.tcJobs = none) →
    (idx ∈ mapGet [] j.early tile → exec (.tcopyTryte job tile idx) s = .next s) ∧
    (∀ (l : Layout) (o : CopyOpts) factors pages core path tile0 v s1 codes f, j.work = .tcopy l o factors pages core path tile0 →
      idx ∉ mapGet [] j.early tile → tile < o.tiles l → idx / 243 < l.planes → (0, tile) ∉ j.done → s.copyWait j = none →
      let cell := if l.n = 9 then idx % 243 else idx % 243 / 3
      -- the element is read once, and its tryte written once
      (match mapFind (243 * tile + cell) j.fixed with
        | some codes => (s, codes, none)
        | none => s.copyCell j.launch l o factors pages tile (cell / l.e) (cell % l.e)) = (s1, codes, f) →
      (planeTrytes l [codes] (idx / 243))[if l.n = 9 then 0 else idx % 3]? = some v →
      let loc := Loc.buf core path (243 * (tile0 + idx / 243 * o.tiles l + tile) + idx % 243)
      (∀ k, loc.bufWordKey = some k → mapGet 0 s1.badBufs k < 2) →
      ∃ t, exec (.tcopyTryte job tile idx) s = .next t ∧ t.readLocs [loc] = .ok [v] ∧ storesOnly s1 t [loc] ∧
        mapFind job t.tcJobs = some { j with
          fixed := mapInsert (243 * tile + cell) codes j.fixed, fault := firstFault j.fault f
          early := mapInsert tile (idx :: mapGet [] j.early tile) j.early } ∧
        t = { s1 with bufs := t.bufs, badBufs := t.badBufs, tcJobs := t.tcJobs }) ∧
    (∀ src dst a b v, j.work = .migrate src dst a b → tile = 0 → idx < 243 → idx ∉ mapGet [] j.early 0 →
      s.readLoc (.buf a.1 a.2.1 (243 * a.2.2 + idx)) = .ok v →
      let loc := Loc.buf b.1 b.2.1 (243 * b.2.2 + idx)
      (∀ k, loc.bufWordKey = some k → mapGet 0 s.badBufs k < 2) →
      ∃ t, exec (.tcopyTryte job tile idx) s = .next t ∧ t.readLocs [loc] = .ok [v] ∧ storesOnly s t [loc] ∧
        mapFind job t.tcJobs = some { j with early := mapInsert 0 (idx :: mapGet [] j.early 0) j.early })) ∧
  (∀ (job : Nat) (s : State) (j : TcJob), mapFind job s.tcJobs = some j → j.done.length = j.extent.1 * j.extent.2 → j.extent.1 ≠ 0 →
    exec (.tcopyJobComplete job) s = .next { s with tcJobs := mapErase job s.tcJobs })

/-- BINIT stores and BQRY loads a barrier word, BARRV arrives at it or traps; RECLD replaces a record, reads this device's own number
through its own IMPORT, and traps a failure of the host's memory; ENQ appends a packet and answers its index, answers −1 where a
full queue is not waited for, and traps NO_ACCESS where it may not append. That ENQ and BARRV wait for the split's accesses is log
45. (R165, R276, R278, R280, R281, R374, R410; log 45) -/
def Obligations.BarrierRecordQueue : Prop :=
  (∀ f : MFmt,
    Issues (.binit f) f.h { resv := resvPred f.h, opds := scalarOpds f true false } (barrierOp f .store) 1
      (fun fr => 0 ≤ barrierCount (fr.readS 0 f.d.index)) (fun fr => nativeRecord fr.s fr.g f.recd.index) (barrierRq true) ∧
    Issues (.bqry f) f.h { resv := resvPred f.h, opds := scalarOpds f false true } (barrierOp f .load) 1
      (fun _ => True) (fun fr => nativeRecord fr.s fr.g f.recd.index) (barrierRq false) ∧
    (∀ s fr, Reaches s f.h { resv := resvPred f.h, opds := scalarOpds f true false } fr → fr.any = true →
      let n := (fr.readS 0 f.d.index).val
      (∀ e, 0 ≤ n → fr.wordPlace f (barrierReq true) = .error (.trap e) → exec (.barrv f) s = .next (fr.s.takeTrap fr.key fr.sp.idx e)) ∧
      (barrierCount (fr.readS 0 f.d.index) < 0 →
        exec (.binit f) s = .next (fr.s.takeTrap fr.key fr.sp.idx (fr.trap .reservedField))) ∧
      (n < 0 → exec (.barrv f) s = .next (fr.s.takeTrap fr.key fr.sp.idx (fr.trap .reservedField))) ∧
      (∀ a locs old, 0 ≤ n → fr.wordPlace f (barrierReq true) = .ok (a, locs) → fr.drained = true →
        fr.g.inflight (pathCounter (addrPath a) (ownBuf a && !fr.g.isSeq) true) < 81 → placed fr.s locs 3 → fr.s.readLocs locs = .ok old →
        let c := barrierCount (wordOfTrytes old)
        (¬ (0 ≤ c ∧ c < n) → ∃ t w, exec (.barrv f) s = .next t ∧ Effect fr (past fr 1) w [] .none (unstored t fr.s) ∧
          (w = .none ∨ w = .held fr.g.nextSeq) ∧ storesOnly fr.s t locs ∧
          t.readLocs locs = .ok (trytesOfWord (arriveWord (wordOfTrytes old) n.toNat))) ∧
        (0 ≤ c → c < n → exec (.barrv f) s = .next (fr.s.takeTrap fr.key fr.sp.idx (fr.trap .barrierUnderflow))))) ∧
    (∀ s fr, Reaches s f.h { resv := resvPred f.h, opds := scalarOpds f true false } fr → fr.any = false →
      (∃ t, exec (.binit f) s = .next t ∧ Effect fr (past fr 1) .none [] .none t) ∧
      ∃ t, exec (.barrv f) s = .next t ∧ Effect fr (past fr 1) .none [] .none t)) ∧
  (∀ (f : MFmt) s fr, Reaches s f.h (recldUse f) fr →
    (fr.any = false → ∃ t, exec (.recld f) s = .next t ∧ Effect fr (past fr 1) .none [] .none t) ∧
    (∀ c, fr.any = true → nativeRecord fr.s fr.g f.recd.index = .error c → exec (.recld f) s = .next (fr.s.takeTrap fr.key fr.sp.idx (fr.trap c))) ∧
    (∀ r c, fr.any = true → nativeRecord fr.s fr.g f.recd.index = .ok r →
      laneCheck fr.s (fr.g.agent fr.sp.idx) recldReq (fr.recldAddrs f r).2 (fr.recldAddrs f r).1 = .fail c →
      exec (.recld f) s = .next (fr.s.takeTrap fr.key fr.sp.idx (fr.trap c)))) ∧
  (∀ (f : MFmt) s fr r ps, Reaches s f.h (recldUse f) fr → fr.any = true → fr.g.key = fr.key →
    nativeRecord fr.s fr.g f.recd.index = .ok r →
    laneCheck fr.s (fr.g.agent fr.sp.idx) recldReq (fr.recldAddrs f r).2 (fr.recldAddrs f r).1 = .ok ps →
    let las := recldLanes fr.g.isSeq (fr.recldAddrs f r).1 ps
    let locs := las.flatMap (fun la => la.locs)
    fr.recldWaits (fr.recldAddrs f r).1 locs = false →
    (fr.hostFails locs = true → exec (.recld f) s = .next (fr.trapAfter
      { fr.s with hostFails := fr.s.hostFails.filter (fun e => e != (fr.key, fr.sp.idx)) } .hostWindowError)) ∧
    (∀ k, fr.hostFails locs = false → fr.s.ownKey fr.g.domain false locs = some k →
      exec (.recld f) s = .next ((fr.s.askKey k).block fr.key fr.sp.idx)) ∧
    (∀ word : LaneAcc → List Tryte, fr.hostFails locs = false → fr.s.ownKey fr.g.domain false locs = none → l1Steady fr.s fr.g.core las →
      (∀ la ∈ las, ∃ at_, (fr.s.reachRead fr.g.domain la.locs).2 = .ok at_ ∧ fr.s.readLane fr.g.core { la with locs := at_ } = .ok (word la)) →
      f.d.index < (fr.s.records_ fr.g).length →
      ∃ t u n g w, exec (.recld f) s = .next t ∧ t.group? fr.key = some g ∧ Effect fr (past fr 1) w [] .none u ∧
        { unstored t fr.s with crews := fr.s.crews, tlbs := fr.s.tlbs } = { u.chargeTiles fr.key n with crews := fr.s.crews, moved := fr.s.moved } ∧
        t.mem = fr.s.mem ∧ t.bufs = fr.s.bufs ∧ t.records_ g = setAt (fr.s.records_ fr.g) f.d.index (las.map (fun la => wordOfTrytes (word la))))) ∧
  (∀ (f : LFmt) s fr img,
    let q := (fr.readS 2 f.r.b.index).val
    let i := fr.s.qReserve q.toNat
    Reaches s f.r.h { resv := resvPred f.r.h || plainR f.r || f.ext.trit 26 == -1 || (f.ext.field 0 26).val != 0
                      opds := [pairOpd f.r.d.index false true, pairOpd f.r.a.index true false, regOpd false f.r.b.index true false] } fr →
    (fr.any = false → ∃ t, exec (.enq f) s = .next t ∧ Effect fr (past fr 2) .none [] .none t) ∧
    (fr.any = true → fr.drained = false → exec (.enq f) s = .next (fr.s.block fr.key fr.sp.idx)) ∧
    (∀ c, fr.any = true → fr.drained = true → fr.enqImage (fr.readS2 1 f.r.a.index) = .error c → exec (.enq f) s = .next (fr.s.takeTrap fr.key fr.sp.idx (fr.trap c))) ∧
    (fr.any = true → fr.enqImage (fr.readS2 1 f.r.a.index) = .ok img → fr.drained = true → fr.s.mayAppend fr.g q = true →
      fr.s.qRead q.toNat + fr.s.qSlots q.toNat ≤ i → f.ext.trit 26 ≠ 1 → exec (.enq f) s = .next (fr.s.block fr.key fr.sp.idx)) ∧
    (fr.any = true → fr.enqImage (fr.readS2 1 f.r.a.index) = .ok img → fr.drained = true →
    (fr.s.mayAppend fr.g q = false → exec (.enq f) s = .next (fr.s.takeTrap fr.key fr.sp.idx (fr.trap .noAccess))) ∧
    (fr.s.mayAppend fr.g q = true → fr.s.qRead q.toNat + fr.s.qSlots q.toNat ≤ i → f.ext.trit 26 = 1 →
      ∃ t, exec (.enq f) s = .next t ∧ Effect fr (past fr 2) .none (wrPair f.r.d.index (Tern.ofInt 54 (-1))) .none t) ∧
    (∀ k, fr.s.mayAppend fr.g q = true → i < fr.s.qRead q.toNat + fr.s.qSlots q.toNat →
      fr.s.keysFor (fr.s.qDomain q.toNat) true (pagesOf (fr.s.slotAddr q.toNat i) 64) = some k →
      exec (.enq f) s = .next ((fr.s.askKey k).block fr.key fr.sp.idx)) ∧
    (∀ ls, fr.s.mayAppend fr.g q = true → i < fr.s.qRead q.toNat + fr.s.qSlots q.toNat →
      fr.s.keysFor (fr.s.qDomain q.toNat) true (pagesOf (fr.s.slotAddr q.toNat i) 64) = none →
      fr.s.byteLocs (fr.s.qDomain q.toNat) true (fr.s.slotAddr q.toNat i) 64 = .ok ls →
      ∃ t, exec (.enq f) s = .next t ∧ storesOnly fr.s t (ls ++ fr.s.queueLocs q.toNat 0 64) ∧
        -- where the slot lies beside the descriptor, it holds the packet, and the index is claimed
        (ls.Nodup → (∀ l ∈ ls, l ∉ fr.s.queueLocs q.toNat 0 64) → fr.s.ctrl.qtable + 5 ≤ frameCount → i + 1 < 2 ^ 64 →
          t.bytesAt ls = img ∧ t.qReserve q.toNat = i + 1) ∧
        Effect fr (past fr 2) .none (wrPair f.r.d.index (Tern.ofInt 54 (i : Int))) .none 
          { unstored t fr.s with kicks := fr.s.kicks, day := fr.s.day, ctrl := fr.s.ctrl } ∧
        t.ctrl = { fr.s.ctrl with qboot := t.ctrl.qboot } ∧ (fr.s.ctrl.qset = true → t.ctrl = fr.s.ctrl)))) ∧
  BarrierWords

/-! ## The matrix class -/

/-- MLDW, MMA, MMAC, MZERO, MACC and MOUT trap with the first failing check or are queued on their arrays with their footprint, units
and tags; MWAIT goes on when few enough are incomplete and raises a recorded fault; MSTAT reads; MCFG claims, releases, sets
KSPLIT and binds. The order of checks and counts above 80 are the readings of logs 47 and 51. (R305 to R308, R312, R313, R320 to
R333; log 47, 51) -/
def Obligations.MatrixIssue : Prop :=
  (∀ f : LFmt,
    let go := fun (i : Instr) (u : Use) (plan : Fr → Except Cause MxPlan) =>
      (∀ s fr, Reaches s f.r.h u fr → fr.any = false → ∃ t, exec i s = .next t ∧ Effect fr (past fr 2) .none [] .none t) ∧
      (∀ s fr, Reaches s f.r.h u fr → fr.any = true → fr.mxWaits = true → exec i s = .next (fr.s.waitFull fr.key fr.sp.idx)) ∧
      ∀ s fr, Reaches s f.r.h u fr → fr.any = true → fr.mxWaits = false →
        (∀ p c, plan fr = .ok p → c ∈ p.arrays → fr.s.mxFull c = true → exec i s = .next (fr.s.waitFull fr.key fr.sp.idx)) ∧
        (∀ p, plan fr = .ok p → (∀ c ∈ p.arrays, fr.s.mxFull c = false) →
          ∃ t j, exec i s = .next t ∧
            Effect fr (past fr 2) .none [] .none { t with mxJobs := fr.s.mxJobs, nextJob := fr.s.nextJob, tags := fr.s.tags, arrays := fr.s.arrays } ∧
            mapFind fr.s.nextJob t.mxJobs = some j ∧ t.nextJob = fr.s.nextJob + 1 ∧ j.op = p.op ∧ j.arrays = p.arrays ∧ j.foot = p.foot ∧
            j.units = p.units ∧ j.done = [] ∧ j.complete = false ∧ j.fault = none ∧ j.pc = fr.sp.pc ∧ j.barrier = p.barrier ∧
            (∀ k, k ≠ fr.s.nextJob → mapFind k t.mxJobs = mapFind k fr.s.mxJobs) ∧
            (∀ r, p.tags = [r] → ∀ k ∈ r.tagKeys, mapGet 0 t.tags k = r.ty) ∧
            ∀ k, (∀ r ∈ p.tags, k ∉ r.tagKeys) → mapGet 0 t.tags k = mapGet 0 fr.s.tags k) ∧
        (∀ c, plan fr = .error c → exec i s = .next (fr.s.takeTrap fr.key fr.sp.idx (fr.trap c)))
    go (.mldw f) (mldwUse f) (fun fr => fr.mldwPlan f) ∧ go (.mma f) (mmaUse f) (fun fr => fr.mmaPlan false f) ∧
    go (.mmac f) (mmaUse f) (fun fr => fr.mmaPlan true f) ∧ go (.mzero f) (mzeroUse f) (fun fr => fr.mzeroPlan f) ∧
    go (.macc f) (maccUse f) (fun fr => fr.maccPlan f) ∧ go (.mout f) (moutUse f) (fun fr => fr.moutPlan f)) ∧
  (∀ (f : IFmt) s fr, s.frame? f.h = some fr → f.imm.val < 0 → decodeCause fr.g (mwaitUse f) = some .reservedField →
    exec (.mwait f) s = .next (fr.s.takeTrap fr.key fr.sp.idx (fr.trap .reservedField))) ∧
  (∀ (f : IFmt) s fr, Reaches s f.h (mwaitUse f) fr →
    (fr.any = false → ∃ t, exec (.mwait f) s = .next t ∧ Effect fr (past fr 1) .none [] .none t) ∧
    (fr.any = true → (fr.s.mxIncomplete fr.g : Int) ≤ f.imm.val → fr.s.mxFaulted fr.g = none →
      ∃ t, exec (.mwait f) s = .next t ∧ Effect fr (past fr 1) .none [] .none t) ∧
    (fr.any = true → f.imm.val < (fr.s.mxIncomplete fr.g : Int) → exec (.mwait f) s = .next (fr.s.waitFull fr.key fr.sp.idx)) ∧
    (∀ id j, fr.any = true → (fr.s.mxIncomplete fr.g : Int) ≤ f.imm.val → fr.s.mxFaulted fr.g = some (id, j) →
      exec (.mwait f) s = .next (fr.s.raiseMx fr.key id j fr.sp.pc))) ∧
  (∀ (f : RFmt) s fr, Reaches s f.h (mstatUse f) fr → fr.any = false →
    ∃ t, exec (.mstat f) s = .next t ∧ Effect fr (past fr 1) .none [] .none t) ∧
  (∀ (f : RFmt) s fr c, Reaches s f.h (mstatUse f) fr → fr.any = true → fr.g.ctx = some c →
    ∃ t, exec (.mstat f) s = .next t ∧ Effect fr (past fr 1) .none [.s f.d.index (fr.s.mstat fr.g c f.a.index)] .none t) ∧
  (∀ (f : IFmt) s fr,
    -- the four operations, each with what it finds wrong with its argument
    let ops := [(Instr.mcfgClaim f, decide (3 < (f.imm.field 6 2).index) || maskBad f), (.mcfgRelease f, maskBad f), (.mcfgKsplit f, splitBad f),
      (.mcfgBind f, s.bindBad f)]
    (∀ o ∈ ops, Reaches s f.h (mcfgUse f o.2) fr →
      (fr.any = false → ∃ t, exec o.1 s = .next t ∧ Effect fr (past fr 1) .none [] .none t) ∧
      (fr.any = true → fr.s.mxOpen fr.g ≠ [] → exec o.1 s = .next (fr.s.waitFull fr.key fr.sp.idx)) ∧
      (∀ id j, fr.any = true → fr.s.mxOpen fr.g = [] → fr.s.mxFaulted fr.g = some (id, j) →
        exec o.1 s = .next (fr.s.raiseMx fr.key id j fr.sp.pc))) ∧
    (∀ c, fr.any = true → fr.g.ctx = some c → fr.s.mxOpen fr.g = [] → fr.s.mxFaulted fr.g = none →
      let sets := fun (i : Instr) (c' : CtxState) (gone : List Nat) =>
        ∃ t g, exec i s = .next t ∧ t.group? fr.key = some g ∧ g.ctx = some c' ∧ Effect fr (past fr 1) .none [] .none { t with arrays := fr.s.arrays } ∧
          (∀ r ∈ gone, t.array (fr.g.rankCore r) = MxArray.empty) ∧
          ∀ k, (∀ r ∈ gone, k ≠ fr.g.rankCore r) → t.array k = fr.s.array k
      (Reaches s f.h (mcfgUse f (decide (3 < (f.imm.field 6 2).index) || maskBad f)) fr →
        (∀ held, fr.s.claimAll fr.g c.binding c.claims (maskRanks f) = (held, none) → sets (.mcfgClaim f) { c with claims := held } []) ∧
        (∀ held e, fr.s.claimAll fr.g c.binding c.claims (maskRanks f) = (held, some e) →
          exec (.mcfgClaim f) s = .next ((fr.s.setCtx fr.key { c with claims := held }).takeTrap fr.key fr.sp.idx (fr.trap e)))) ∧
      (Reaches s f.h (mcfgUse f (maskBad f)) fr →
        let gone := (maskRanks f).filter (fun r => c.claims.contains r)
        sets (.mcfgRelease f) { c with claims := c.claims.filter (fun r => !gone.contains r) } gone) ∧
      (Reaches s f.h (mcfgUse f (splitBad f)) fr → sets (.mcfgKsplit f) { c with ksplit := 2 ^ (f.imm.field 0 2).index } c.claims) ∧
      (Reaches s f.h (mcfgUse f (s.bindBad f)) fr → sets (.mcfgBind f) { c with binding := (f.imm.field 0 6).index } [])))

/-- A unit performs its part of the instruction on the buffers and arrays and on nothing else: MZERO writes zero elements, an MMA only
words of its C region, MLDW the block of its array; each element that MMA, MMAC, MACC and MOUT write is the sum, window and
rounding of the numeric rules, which are stated first; completion arrives at the barrier; a context ends once nothing is
outstanding and releases its claims. That a unit is one event is log 46. (R305, R309, R314 to R323, R327 to R331; log 46, 49) -/
def Obligations.MatrixUnits : Prop :=
  MatrixMeaning ∧
  -- two regions share no word; the codes of an element as its trits hold them
  (let apart := fun (a b : MxRegion) => ∀ x ∈ regionWords a, x ∉ regionWords b
   let kept := fun (r : MxRegion) (xs : List Int) => xs.map (fun x => wrap x (partWidth r.ty))
   ∀ (id : Nat) (s : State) (j : MxJob), mapFind id s.mxJobs = some j → j.complete = false →
    (∀ l, s.launch? j.launch = some l → l.halted = none) →
    (∀ e ∈ s.groups, e.2.isSeq = true → e.2.launch = j.launch → clusterOf e.2.core = j.cluster → e.2.parked = false) →
    j.done.length < j.units → s.mxReady id j = true → s.mxVoid j = false → s.footBad (s.mxReads j) = false →
    let r := s.mxRun j id j.done.length
    (∃ t j', exec (.matrixUnitComplete id) s = .next t ∧ mapFind id t.mxJobs = some j' ∧ j'.done = j.done ++ [j.done.length] ∧
      j'.fault = (match j.fault with | some c => some c | none => r.2.2) ∧ j'.op = j.op ∧ j'.complete = false ∧ t.mem = s.mem ∧
      t.bufs = r.1.bufs ∧ t.arrays = r.1.arrays) ∧
    -- what the elements of a result are, and that no other buffer word changes
    (∀ d, j.op = .zero d → ∀ i n, i < d.rows → n < d.cols → ∀ x ∈ d.parts (r.1.mxWord d) i n, x = 0) ∧
    (∀ a c k beta fovf sattrap prec, j.op = .mma a c k beta fovf sattrap prec → r.1.arrays = s.arrays ∧ (sattrap = false → r.2.2 = none) ∧
      (∀ word, (∀ i n q, i < c.rows → n < c.cols → word ≠ bufKey c.core c.path (81 * (c.tile + (c.place i n q).1) + (c.place i n q).2.1)) →
        mapGet wzero r.1.bufs word = mapGet wzero s.bufs word) ∧
      (accType c.ty = true → (a.ty = -4 ↔ c.ty = -4) → a.rows = c.rows → a.cols = k * j.arrays.length → apart a c →
        ∀ i n, i ∈ unitRows j.units c.rows j.done.length → n < c.cols →
          let rows := (List.range j.arrays.length).map (fun q => (List.range k).map (fun x => a.parts (s.mxWord a) i (q * k + x)))
          let cols := j.arrays.map (fun core => (s.blockNow core).map (fun row => row.getD n []))
          c.parts (r.1.mxWord c) i n =
            kept c (mmaElem a.ty c.ty prec fovf rows cols (if beta then none else some (c.parts (s.mxWord c) i n))).1)) ∧
    (∀ d src fovf sattrap, j.op = .acc d src fovf sattrap → accType d.ty = true → src.ty = d.ty → src.rows = d.rows → src.cols = d.cols →
      (apart d src ∨ src = d) → ∀ i n, i < d.rows → n < d.cols →
        d.parts (r.1.mxWord d) i n = kept d (accElem d.ty fovf (d.parts (s.mxWord d) i n) (src.parts (s.mxWord src) i n)).1) ∧
    (∀ c o neg shift ovf, j.op = .out c o neg shift ovf → o.ty ∈ [3, 4, -1, -2, -3, -4] → (o.ty = -4 ↔ c.ty = -4) → o.rows = c.rows → o.cols = c.cols →
      apart c o → ∀ i n, i < c.rows → n < c.cols →
        o.parts (r.1.mxWord o) i n = kept o ((c.parts (s.mxWord c) i n).map (fun x => (moutPart c.ty o.ty shift neg ovf x).1))) ∧
    (∀ reg comp limit factors, j.op = .load reg comp limit factors → r.1.bufs = s.bufs ∧
      ∀ b tally, s.expand (j.desc id reg) = some (b, tally) → (r.1.array (j.arrays.headD 0)).block = some b)) ∧
  (∀ (id : Nat) (s : State) (j : MxJob), mapFind id s.mxJobs = some j → j.complete = false → j.units ≤ j.done.length →
    ∃ t, exec (.matrixInstrComplete id) s = .next t ∧
      mapFind id t.mxJobs = (match j.fault with | some _ => some { j with complete := true } | none => none) ∧ t.groups = s.groups ∧
      storesOnly s t j.barrier ∧
      (∀ old, j.op ≠ .void → placed s j.barrier 3 → s.readLocs j.barrier = .ok old →
        t.readLocs j.barrier = .ok (trytesOfWord (arriveWord (wordOfTrytes old) j.arrive))) ∧
      (j.op = .void → t.bufs = s.bufs)) ∧
  (∀ (core slot : Nat) (s : State) (g : Group) (x : Split) (c : CtxState), s.group? (gkey core slot) = some g → g.key = gkey core slot →
    g.splits.find? (fun x => x.wait == .ending) = some x → g.status = .running → g.parked = false → g.isSeq = true → g.ctx = some c →
    s.quiet g = true → s.mxOpen g = [] → s.mxFaulted g = none → g.faults = [] →
    ∃ t, exec (.contextEnd core slot) s = .next t ∧ t.group? (gkey core slot) = none ∧
      ∀ r ∈ c.claims, t.array (g.rankCore r) = MxArray.empty)

/-! ## Solicitation -/

/-- Each of the seven instructions completes with its effect on censuses and directories, waits where its entry is pinned or its
census runs, and traps on the keys, limits and operands that its rule names. (R282 to R304) -/
def Obligations.Solicitation : Prop :=
  (∀ (f : RFmt) (x : LFmt) s fr, fr.any = false →
    let idle := fun (i : Instr) (h : Head) (u : Use) (n : Int) =>
      Reaches s h u fr → ∃ t, exec i s = .next t ∧ Effect fr (past fr n) .none [] .none t
    idle (.solicit x) x.r.h (solicitUse x) 2 ∧ idle (.sreply f) f.h (sreplyUse f) 1 ∧ idle (.swait f) f.h (swaitUse f) 1 ∧
    idle (.publish x) x.r.h (publishUse x) 2 ∧ idle (.withdraw f) f.h (withdrawUse f) 1 ∧ idle (.sqry f) f.h (sqryUse f) 1 ∧
    idle (.migrate x) x.r.h (migrateUse x) 2) ∧
  (∀ (f : LFmt) s fr l,
    let tensor := fr.readS 1 f.r.a.index
    let org := fr.readS 2 f.r.b.index
    let nr := (f.ext.field 18 9).val
    let nc := (f.ext.field 9 9).val
    let bad := tensor.val ≤ 0 ∨ coordRow org < 0 ∨ coordCol org < 0 ∨ org.trit 0 ≠ 0 ∨ nr ≤ 0 ∨ nc ≤ 0
    Reaches s f.r.h (solicitUse f) fr → fr.any = true →
    (¬ bad → fr.s.censusFull fr.g.askCore = false → fr.drained = false → exec (.solicit f) s = .next (fr.s.block fr.key fr.sp.idx)) ∧
    (bad → exec (.solicit f) s = .next (fr.s.takeTrap fr.key fr.sp.idx (fr.trap .solicitKeyInvalid))) ∧
    (¬ bad → fr.s.censusFull fr.g.askCore = true → exec (.solicit f) s = .next (fr.s.takeTrap fr.key fr.sp.idx (fr.trap .solicitLimit))) ∧
    (¬ bad → fr.s.censusFull fr.g.askCore = false → fr.drained = true → fr.s.launch? fr.g.launch = some l → fr.s.freeCensus ≠ [] →
      ∃ t slot c, exec (.solicit f) s = .next t ∧ slot ∈ fr.s.freeCensus ∧
        Effect fr (past fr 2) .none [.s f.r.d.index (censusHandle slot c.gen)] .none { t with census := fr.s.census, censusGen := fr.s.censusGen } ∧
        mapFind slot t.census = some c ∧ c.gen = nextCensusGen (mapGet 0 fr.s.censusGen slot) ∧ c.tensor = tensor ∧ c.row0 = coordRow org ∧
        c.nrows = nr ∧ c.col0 = coordCol org ∧ c.ncols = nc ∧ c.launch = fr.g.launch ∧ c.domain = fr.g.domain ∧ c.arrived = [] ∧ c.resps = [] ∧
        c.complete = false ∧ ∀ k, k ≠ slot → mapFind k t.census = mapFind k fr.s.census)) ∧
  (∀ (f : RFmt) s fr r, Reaches s f.h (sreplyUse f) fr → fr.any = true → fr.g.resp = some r → r.replied = false → fr.sp.falls = [] →
    (∀ x ∈ fr.g.splits, x.idx = fr.sp.idx) → fr.drained = true →
    ∃ t g, exec (.sreply f) s = .next t ∧ t.group? fr.key = some g ∧ g.resp = some { r with replied := true } ∧
      Effect fr fr.sp.pc .ending [] .none { t with census := fr.s.census, dir := fr.s.dir } ∧
      ∀ c, mapFind r.census fr.s.census = some c → c.gen = r.gen →
        mapFind r.census t.census = some { c with
          resps := updFirst (fun x => x.core == fr.g.core && x.launch == fr.g.launch && x.crew == fr.g.crew && !x.finished)
            (fun x => { x with finished := true, reply := some (fr.readS 1 f.a.index), fault := none }) c.resps }) ∧
  (∀ (f : RFmt) s fr, Reaches s f.h (sreplyUse f) fr → fr.any = true →
    ((fr.g.resp = none ∨ ∃ r, fr.g.resp = some r ∧ r.replied = true) →
      exec (.sreply f) s = .next (fr.s.takeTrap fr.key fr.sp.idx (fr.trap .solicitKeyInvalid))) ∧
    (∀ r, fr.g.resp = some r → r.replied = false → (fr.sp.falls ≠ [] ∨ ∃ x ∈ fr.g.splits, x.idx ≠ fr.sp.idx) →
      exec (.sreply f) s = .next (fr.s.takeTrap fr.key fr.sp.idx (fr.trap .joinMismatch)))) ∧
  (∀ (f : RFmt) s fr, Reaches s f.h (swaitUse f) fr → fr.any = true →
    let slot := handleCensus (fr.readS 1 f.a.index)
    let gen := handleCensusGen (fr.readS 1 f.a.index)
    (mapFind slot fr.s.census = none ∨ (∃ c, mapFind slot fr.s.census = some c ∧ (gen = 0 ∨ c.gen ≠ gen ∨ c.launch ≠ fr.g.launch)) ∨
      (∃ r, fr.g.resp = some r ∧ r.census = slot ∧ r.gen = gen)) →
    exec (.swait f) s = .next (fr.s.takeTrap fr.key fr.sp.idx (fr.trap .solicitKeyInvalid))) ∧
  (∀ (f : RFmt) s fr c,
    let slot := handleCensus (fr.readS 1 f.a.index)
    let gen := handleCensusGen (fr.readS 1 f.a.index)
    Reaches s f.h (swaitUse f) fr → fr.any = true → mapFind slot fr.s.census = some c → gen ≠ 0 → c.gen = gen → c.launch = fr.g.launch →
    (∀ r, fr.g.resp = some r → ¬ (r.census = slot ∧ r.gen = gen)) →
    -- while the census runs the split waits, behind every earlier request at the slot
    (c.complete = false → (∀ w ∈ fr.s.censusWaiters slot, w.gen = gen) →
      ∃ t ask, exec (.swait f) s = .next t ∧ Effect fr (past fr 1) (.swait slot gen f.d.index fr.s.now ask) [] .none t ∧
        ∀ w ∈ fr.s.censusWaiters slot, w.ask < ask) ∧
    (c.complete = true → c.fault = none → fr.g.awake fr.sp.idx = true → fr.g.key = fr.key → fr.s.censusWaiters slot = [] →
      ∃ t, exec (.swait f) s = .next t ∧
        Effect fr (past fr 1) .none (wrPair f.d.index (mkPair c.word c.result)) .none { t with census := fr.s.census, l1 := fr.s.l1 } ∧
        mapFind slot t.census = none)) ∧
  (∀ (f : LFmt) s fr,
    let a := fr.readS2 1 f.r.a.index
    let ag := fr.g.agent fr.sp.idx
    let w := fr.readS 0 f.r.d.index
    let tensor := fr.readS 2 f.r.b.index
    let row := coordRow w + (f.ext.field 18 9).val
    let col := coordCol w + (f.ext.field 9 9).val
    let at_ := ag.dirAt a
    let refuses := fun (c : Cause) => exec (.publish f) s = .next (fr.s.takeTrap fr.key fr.sp.idx (fr.trap c))
    Reaches s f.r.h (publishUse f) fr → fr.any = true →
    (fr.g.isSeq = true → refuses .bufferPathForbidden) ∧
    (∀ c, fr.g.isSeq = false → bufCheck fr.s ag (tileReq true false) a = some c → refuses c) ∧
    (fr.g.isSeq = false → bufCheck fr.s ag (tileReq true false) a = none → (tensor.val ≤ 0 ∨ row < 0 ∨ col < 0 ∨ w.trit 0 ≠ 0) →
      refuses .solicitKeyInvalid) ∧
    (fr.g.isSeq = false → bufCheck fr.s ag (tileReq true false) a = none → 0 < tensor.val → 0 ≤ row →
    0 ≤ col → w.trit 0 = 0 → fr.drained = true →
    (fr.s.dirLive? at_ = none → (∀ i, i < dirEntries → mapFind (dirEntries * at_.core + i) fr.s.dir ≠ none) → refuses .solicitLimit) ∧
    (fr.s.dirPinned at_ = true →
      ∃ t, exec (.publish f) s = .next t ∧ Effect fr (past fr 2) (.pins (.publish at_ tensor row col)) [] .none t) ∧
    (∀ k e, fr.s.dirPinned at_ = false → fr.s.dirLive? at_ = some (k, e) →
      ∃ t, exec (.publish f) s = .next t ∧ Effect fr (past fr 2) .none [] .none { t with dir := fr.s.dir } ∧
        mapFind k t.dir = some { e with tensor := tensor, trow := row, tcol := col } ∧ ∀ j, j ≠ k → mapFind j t.dir = mapFind j fr.s.dir) ∧
    (fr.s.dirLive? at_ = none → (∃ i, i < dirEntries ∧ mapFind (dirEntries * at_.core + i) fr.s.dir = none) →
      ∃ t k e, exec (.publish f) s = .next t ∧ Effect fr (past fr 2) .none [] .none { t with dir := fr.s.dir } ∧ mapFind k fr.s.dir = none ∧
        k / dirEntries = at_.core ∧ mapFind k t.dir = some e ∧ e.state = .live ∧ e.pins = 0 ∧ e.tensor = tensor ∧ e.trow = row ∧ e.tcol = col ∧
        e.buf = at_.buf ∧ e.pos = at_.pos ∧ e.launch = at_.launch ∧ e.crew = at_.crew ∧ ∀ j, j ≠ k → mapFind j t.dir = mapFind j fr.s.dir))) ∧
  (∀ (f : RFmt) s fr,
    let a := fr.readS2 1 f.a.index
    let ag := fr.g.agent fr.sp.idx
    let at_ := ag.dirAt a
    let refuses := fun (c : Cause) => exec (.withdraw f) s = .next (fr.s.takeTrap fr.key fr.sp.idx (fr.trap c))
    Reaches s f.h (withdrawUse f) fr → fr.any = true →
    (fr.g.isSeq = true → refuses .bufferPathForbidden) ∧
    (∀ c, fr.g.isSeq = false → bufCheck fr.s ag (tileReq true false) a = some c → refuses c) ∧
    (∀ k e, fr.g.isSeq = false → bufCheck fr.s ag (tileReq true false) a = none → fr.s.dirLive? at_ = some (k, e) → fr.g.pinsOwn k = true →
      refuses .solicitKeyInvalid) ∧
    (fr.g.isSeq = false → bufCheck fr.s ag (tileReq true false) a = none →
    (∀ k e, fr.s.dirLive? at_ = some (k, e) → fr.g.pinsOwn k = false) → fr.drained = true →
    (fr.s.withdrawDelayed at_ = true →
      ∃ t, exec (.withdraw f) s = .next t ∧ Effect fr (past fr 1) (.pins (.withdraw at_ f.d.index)) [] .none t) ∧
    (∀ k e, fr.s.withdrawDelayed at_ = false → fr.s.dirLive? at_ = some (k, e) →
      ∃ t, exec (.withdraw f) s = .next t ∧ Effect fr (past fr 1) .none [.s f.d.index (Tern.ofInt 27 1)] .none { t with dir := fr.s.dir } ∧
        mapFind k t.dir = none ∧ ∀ j, j ≠ k → mapFind j t.dir = mapFind j fr.s.dir) ∧
    (fr.s.withdrawDelayed at_ = false → fr.s.dirLive? at_ = none →
      ∃ t, exec (.withdraw f) s = .next t ∧ Effect fr (past fr 1) .none [.s f.d.index wzero] .none t))) ∧
  (∀ (f : RFmt) s fr, Reaches s f.h (sqryUse f) fr → fr.any = true → fr.g.resp = none →
    exec (.sqry f) s = .next (fr.s.takeTrap fr.key fr.sp.idx (fr.trap .solicitKeyInvalid))) ∧
  (∀ (f : RFmt) s fr r,
    let k := (fr.readS 1 f.a.index).val
    let e := if k < 0 then none else (r.hits[k.toNat]?).bind (fun i => mapFind i fr.s.dir)
    Reaches s f.h (sqryUse f) fr → fr.any = true → fr.g.resp = some r →
    ∃ t, exec (.sqry f) s = .next t ∧ Effect fr (past fr 1) .none
      (wrPair f.d.index (match e with | some e => mkPair e.matchWord (coordWord e.trow e.tcol) | none => azero)) .none t) ∧
  (∀ (f : LFmt) s fr ks e,
    let ag := fr.g.agent fr.sp.idx
    let src := fr.readS2 1 f.r.a.index
    let dst := addrAdd (fr.readS2 0 f.r.d.index) (f.ext.field 21 6).val
    let bar := addrAdd (fr.readS2 2 f.r.b.index) (f.ext.field 15 6).val
    let tile := fun (a : Addr) => bufPath (addrPath a) = some 0 ∨ bufPath (addrPath a) = some 1
    let sa := ag.dirAt src
    let da := ag.dirAt dst
    let refuses := fun (c : Cause) => exec (.migrate f) s = .next (fr.s.takeTrap fr.key fr.sp.idx (fr.trap c))
    Reaches s f.r.h (migrateUse f) fr → fr.any = true → (fr.g.isSeq = true → refuses .bufferPathForbidden) ∧
    (fr.g.isSeq = false → tile src → tile dst → ownBuf src = true → bufPath (addrPath bar) = some 0 →
    earlyCheck fr.s ag (tileReq true false) false src = none → earlyCheck fr.s ag (tileReq false true) false dst = none →
    earlyCheck fr.s ag (tcopyReq true) false bar = none →
    (fr.s.migrateClash fr.g sa da = true → refuses .solicitKeyInvalid) ∧
    (fr.s.migrateClash fr.g sa da = false → (∀ i, i < dirEntries → mapFind (dirEntries * da.core + i) fr.s.dir ≠ none) → refuses .solicitLimit) ∧
    (fr.s.migrateClash fr.g sa da = false → (∃ i, i < dirEntries ∧ mapFind (dirEntries * da.core + i) fr.s.dir = none) → fr.s.tcFull ag.core = false → fr.drained = true →
    fr.s.dirLive? sa = some (ks, e) →
    (0 < e.pins → ∃ t, exec (.migrate f) s = .next t ∧
      Effect fr (past fr 2) (.pins (.migrate sa da ([-1, 0, 1].map (bufLoc fr.s ag bar)))) [] .none t) ∧
    (e.pins = 0 → ∃ t kd d j, exec (.migrate f) s = .next t ∧
      Effect fr (past fr 2) .none [] .none { t with dir := fr.s.dir, tcJobs := fr.s.tcJobs, nextJob := fr.s.nextJob } ∧
      mapFind ks t.dir = some { e with state := .forwarded, peer := some kd } ∧ mapFind kd fr.s.dir = none ∧ mapFind kd t.dir = some d ∧
      d.state = .incoming ∧ d.peer = some ks ∧ d.tensor = e.tensor ∧ d.trow = e.trow ∧ d.tcol = e.tcol ∧ d.pos = da.pos ∧ d.buf = da.buf ∧
      mapFind fr.s.nextJob t.tcJobs = some j ∧ j.work = .migrate ks kd (fr.s.dirTile sa) (fr.s.dirTile da)))))

/-- An instruction that waited for pins is performed when they fall; the second step of a migration moves the tile, its tag and its
entry; a key reaches a cluster; a responder starts in the start state with its handle and match count; a census completes when
every key has arrived and every responder is done. (R284 to R297, R304; log 52) -/
def Obligations.SolicitationEvents : Prop :=
  (∀ (core slot split : Nat) (s : State) (g : Group) (x : Split), s.waiter core slot split = some (g, x) →
    let key := gkey core slot
    (∀ a tensor row col k e, x.wait = .pins (.publish a tensor row col) → s.dirLive? a = some (k, e) → e.pins = 0 →
      ∃ t, exec (.directoryUnpinnedUpdate core slot split) s = .next t ∧ Released s { t with dir := s.dir } key split ∧
        mapFind k t.dir = some { e with tensor := tensor, trow := row, tcol := col }) ∧
    (∀ a d k e, x.wait = .pins (.withdraw a d) → s.withdrawDelayed a = false → s.dirLive? a = some (k, e) →
      ∃ t g', exec (.directoryUnpinnedUpdate core slot split) s = .next t ∧ mapFind k t.dir = none ∧ t.group? key = some g' ∧
        (∀ r, r < 80 → g'.sreg r = scalAfter [.s d (Tern.ofInt 27 1)] r (g.sreg r)) ∧ g'.v = g.v ∧ special g' = special g ∧
        (g'.split? split).map settledSplit = some (settledSplit { x with wait := .none }) ∧ othersKept s t key) ∧
    (∀ src dst barrier ks e kd, x.wait = .pins (.migrate src dst barrier) → s.dirLive? src = some (ks, e) → e.pins = 0 → s.tcFull core = false →
      s.migrateClash g src dst = false → s.dirFree? dst.core = some kd →
      ∃ t d, exec (.migrateFirstStep core slot split) s = .next t ∧
        Released s { t with dir := s.dir, tcJobs := s.tcJobs, nextJob := s.nextJob } key split ∧
        mapFind ks t.dir = some { e with state := .forwarded, peer := some kd } ∧ mapFind kd t.dir = some d ∧ d.state = .incoming ∧
        d.peer = some ks)) ∧
  (∀ (job : Nat) (s : State) (j : TcJob) (ks kd : Nat) (a b : Nat × Nat × Nat) (es ed : DirEntry) (ts old : List Tryte),
    mapFind job s.tcJobs = some j → j.work = .migrate ks kd a b → (∀ w ∈ j.waits, mapFind w s.tcJobs = none) → mapFind ks s.dir = some es →
    mapFind kd s.dir = some ed → es.peer = some kd → ed.peer = some ks → ks ≠ kd → s.readLocs (tileLocs a.1 a.2.1 a.2.2) = .ok ts →
    mapGet [] j.early 0 = [] → placed s (tileLocs b.1 b.2.1 b.2.2) 243 → placed s j.barrier 3 → (∀ l ∈ j.barrier, l ∉ tileLocs b.1 b.2.1 b.2.2) → s.readLocs j.barrier = .ok old →
    ∃ t, exec (.migrateSecondStep job) s = .next t ∧ mapFind kd t.dir = some { ed with state := .live, peer := none } ∧ mapFind ks t.dir = none ∧
      t.readLocs (tileLocs b.1 b.2.1 b.2.2) = .ok ts ∧ storesOnly s t (tileLocs b.1 b.2.1 b.2.2 ++ j.barrier) ∧
      mapGet 0 t.tags (tagKey b.1 b.2.1 b.2.2) = mapGet 0 s.tags (tagKey a.1 a.2.1 a.2.2) ∧
      t.readLocs j.barrier = .ok (trytesOfWord (arriveWord (wordOfTrytes old) 243)) ∧ mapFind job t.tcJobs = none ∧ t.groups = s.groups) ∧
  (∀ (slot cluster : Nat) (s : State) (c : Census), mapFind slot s.census = some c → cluster ∉ c.arrived → cluster ∈ c.clusters →
    ∃ t c', exec (.censusKeyArrival slot cluster) s = .next t ∧ mapFind slot t.census = some c' ∧ c'.arrived = cluster :: c.arrived ∧
      c.matched ≤ c'.matched ∧ (∃ more, c'.resps = c.resps ++ more) ∧ c'.tensor = c.tensor ∧ t.groups = s.groups ∧ t.mem = s.mem ∧
      ((∀ k ∈ c.cores, clusterOf k = cluster → s.hitCrews c k = []) → c'.matched = c.matched ∧ c'.resps = c.resps ∧ t.dir = s.dir)) ∧
  (∀ (slot core launch crew : Nat) (s : State) (c : Census) (l : Launch) (cr : Crew) (n : Nat) (r : Resp), mapFind slot s.census = some c →
    s.launch? launch = some l → s.crew? launch core crew = some cr → s.pickSlot core = some n →
    c.resps.find? (fun r => r.core == core && r.launch == launch && r.crew == crew && !r.started) = some r →
    (∀ k ∈ r.hits, ∀ e, mapFind k s.dir = some e → e.state ≠ .incoming) → s.groupsFit core 1 l.nv = true → l.halted = none → cr.reserved = false →
    l.live core = true → l.abort = none →
    ∃ t g x, exec (.responderStart slot core launch crew) s = .next t ∧ t.group? (gkey core n) = some g ∧
      g.resp = some ⟨slot, c.gen, censusHandle slot c.gen, false, r.hits⟩ ∧ g.launch = l.id ∧ g.crew = crew ∧ g.splits = [x] ∧ x.pc = l.handler ∧
      x.mask = allLanes ∧ (0 < l.ns → g.sreg 0 = censusHandle slot c.gen) ∧ (1 < l.ns → g.sreg 1 = Tern.ofInt 27 (r.hits.length : Int)) ∧
      g.v = [] ∧ othersKept s t (gkey core n)) ∧
  (∀ (slot : Nat) (s : State) (c : Census), mapFind slot s.census = some c → c.complete = false → (∀ k ∈ c.clusters, k ∈ c.arrived) →
    (∀ r ∈ c.resps, r.finished = true) →
    (c.orphan = true → exec (.censusComplete slot) s = .next { s with census := mapErase slot s.census }) ∧
    (c.orphan = false → s.censusWaiters slot = [] → exec (.censusComplete slot) s = .next { s with census := mapInsert slot c.finish s.census }))

/-! ## Lens -/

/-- Each Lens operation sets its register, jumps, or ends with its verdict: KEEP writes the record into the ring, DROP discards it,
COUNT adds to a counter and TRIG keeps the record and halts the launch; a record that does not fit is counted as dropped; nothing
else changes. (R382, R384, R385) -/
def Obligations.LensOperations : Prop :=
  let goes := fun (i : Instr) (d : Option (Fin 8)) (v : State → LensRun → BitVec 64) (pc : LensRun → Nat) =>
    ∀ s r, s.lens = some r → ∃ r', exec i s = .next { s with lens := some r' } ∧ r'.pc = pc r ∧ (∀ e, d = some e → r'.reg e = v s r) ∧
      (∀ e, d ≠ some e → r'.reg e = r.reg e) ∧ r'.session = r.session ∧ r'.prog = r.prog ∧ r'.record = r.record ∧ r'.rest = r.rest
  let sets := fun (i : Instr) (d : Fin 8) (v : LensRun → BitVec 64) => goes i (some d) (fun _ r => v r) (fun r => r.pc + 1)
  let jumps := fun (i : Instr) (imm : BitVec 18) (b : LensRun → Bool) =>
    goes i none (fun _ _ => 0#64) (fun r => if b r then r.pc + 1 + imm.toNat else r.pc + 1)
  (∀ (d a b size : Fin 8) (ofs : Fin 1024) (imm : BitVec 18),
    let n := 2 ^ (size.val % 4)
    (∀ signed : Bool, sets (.lensLdr d ofs signed size) d (fun r =>
      if r.record.bytes.length < ofs.val + n then 0#64
      else if signed then (BitVec.ofNat (8 * n) (byteField r.record.bytes ofs.val n)).signExtend 64
      else BitVec.ofNat 64 (byteField r.record.bytes ofs.val n))) ∧
    sets (.lensLdi d imm) d (fun _ => imm.signExtend 64) ∧
    sets (.lensLdih d imm) d (fun r => r.reg d <<< 18 ||| imm.zeroExtend 64) ∧
    goes (.lensLdc d imm) (some d) (fun s r => match mapFind r.session s.sessions with | some x => x.counters.getD imm.toNat 0#64 | none => 0#64)
      (fun r => r.pc + 1) ∧
    sets (.lensAdd d a b) d (fun r => r.reg a + r.reg b) ∧ sets (.lensSub d a b) d (fun r => r.reg a - r.reg b) ∧
    sets (.lensAnd d a b) d (fun r => r.reg a &&& r.reg b) ∧ sets (.lensOr d a b) d (fun r => r.reg a ||| r.reg b) ∧
    sets (.lensXor d a b) d (fun r => r.reg a ^^^ r.reg b) ∧ sets (.lensShl d a b) d (fun r => r.reg a <<< ((r.reg b).toNat % 64)) ∧
    sets (.lensShr d a b) d (fun r => r.reg a >>> ((r.reg b).toNat % 64)) ∧ sets (.lensAddi d a imm) d (fun r => r.reg a + imm.signExtend 64) ∧
    sets (.lensAndi d a imm) d (fun r => r.reg a &&& imm.zeroExtend 64) ∧
    jumps (.lensBeq a b imm) imm (fun r => r.reg a == r.reg b) ∧ jumps (.lensBne a b imm) imm (fun r => r.reg a != r.reg b) ∧
    jumps (.lensBltu a b imm) imm (fun r => decide ((r.reg a).toNat < (r.reg b).toNat)) ∧
    jumps (.lensBlt a b imm) imm (fun r => decide ((r.reg a).toInt < (r.reg b).toInt))) ∧
  (∀ (s : State) (r : LensRun) (x : Session), s.lens = some r → mapFind r.session s.sessions = some x →
    let fits := x.fullPending = false ∧ x.ringSize ≠ 0 ∧ x.full r.record.bytes.length = false ∧ x.pad r.record.bytes.length = 0
    let kept := fun (t : State) => t.lens = none ∧ t.mem = s.mem ∧
      (∀ i, i < r.record.bytes.length → mapFind (x.ring + x.wrptr + i) t.hostMem = some (r.record.bytes.getD i 0#8)) ∧
      mapFind r.session t.sessions = some { x with wrptr := (x.wrptr + r.record.bytes.length) % x.ringSize }
    (r.rest = [] →
      (fits → ∃ t, exec .lensKeep s = .next t ∧ kept t ∧ t.groups = s.groups) ∧
      (x.fullPending = false → x.ringSize ≠ 0 → x.full r.record.bytes.length = true → x.fullStop = false →
        exec .lensKeep s = .next { s with lens := none, sessions := mapInsert r.session { x with drops := x.drops + 1, fullPending := true } s.sessions }) ∧
      exec .lensDrop s = .next { s with lens := none } ∧
      (∀ (a : Fin 8) (imm : BitVec 18), imm.toNat < 64 → x.counters.length = 64 →
        ∃ t x', exec (.lensCount a imm) s = .next t ∧ mapFind r.session t.sessions = some x' ∧
          x'.counters.getD imm.toNat 0#64 = BitVec.ofNat 64 (min ((x.counters.getD imm.toNat 0#64).toNat + (r.reg a).toNat) (2 ^ 64 - 1)) ∧
          (∀ j, j ≠ imm.toNat → x'.counters.getD j 0#64 = x.counters.getD j 0#64) ∧ t = { s with lens := none, sessions := t.sessions }) ∧
      (∀ imm : BitVec 18, fits →
        (x.trigHalt = false → ∃ t, exec (.lensTrig imm) s = .next t ∧ kept t ∧ t.groups = s.groups) ∧
        (∀ l, x.trigHalt = true → s.launch? r.record.launch = some l → l.halted = none → l.complete = false →
          ∃ t l', exec (.lensTrig imm) s = .next t ∧ kept t ∧ t.launch? r.record.launch = some l' ∧ l'.halted = some .traceTrigger))) ∧
    (∀ n y rest, r.rest = n :: rest → mapFind n s.sessions = some y → y.accepts s r.record.kind r.record.launch = true →
      exec .lensDrop s = .next { s with lens := some ⟨n, y.prog, 0, List.replicate 8 0#64, r.record, rest⟩ }))

/-! ## The translation service -/

/-- A walk starts the walker's group, or ends as the shipped walk ends; a walk that takes too long fails; a page service answers its
miss, allocates and clears a frame, or refuses; a change of an entry is written and shot down; a bad page is remembered. That one
event serves a page, with the frame the event names, is logs 41 and 79, and the report of a full list log 93. (R367 to R377; log
41, 79, 93) -/
def Obligations.TranslationService : Prop :=
  (∀ (core : Nat) (s : State) (m : Miss), s.group? (gkey core 191) = none → s.firstMiss core = some m →
    let same := s.misses.filter (fun x => x.same m)
    let rest := fun (t : State) => t.groups = s.groups ∧ t.mem = s.mem
    (s.walkerEntry ≠ azero → ∃ t g x, exec (.walkerStart core) s = .next t ∧ t.group? (gkey core 191) = some g ∧ g.walk = some m ∧ g.privileged = true ∧
      g.splits = [x] ∧ x.pc = s.walkerEntry ∧ x.mask = allLanes ∧ g.walkAt = s.now ∧ othersKept s t (gkey core 191)) ∧
    (s.walkerEntry = azero →
      -- the walk reads through the caches of its core
      let walk := s.coreWalk core m.domain m.va
      let fills := fun (t : State) (large : Bool) (pte : Word) =>
        ∀ u ∈ [core, 256 + clusterOf core], ∃ e ∈ t.tlbs, e.unit_ = u ∧ e.domain = m.domain ∧ e.large = large ∧ e.pte = pte ∧
          e.page = (if large then pageNum m.va / 19683 * 19683 else pageNum m.va)
      let fails := fun (c : Cause) => ∃ t, exec (.walkerStart core) s = .next t ∧ t.walkFails = s.walkFails ++ same.map (fun x => (x, c)) ∧
        rest t ∧ t.asks = s.asks
      let asks := ∃ t, exec (.walkerStart core) s = .next t ∧ t.asks = s.asks ++ same.map (fun x => ⟨x⟩) ∧ rest t ∧ t.walkFails = s.walkFails
      (∀ large pte, core < 256 → walk = .leaf large pte ∨ (walk = .hostBacked large pte ∧ addrPath m.va = 3) →
        ∃ t, exec (.walkerStart core) s = .next t ∧ rest t ∧ fills t large pte ∧ t.asks = s.asks ∧ t.walkFails = s.walkFails ∧
          ((∀ x ∈ s.heldMisses, x.same m = false) → ∀ x ∈ t.misses, x.same m = false)) ∧
      (∀ large pte, walk = .hostBacked large pte → addrPath m.va ≠ 3 → asks) ∧ (∀ level, walk = .invalid level → asks) ∧
      (walk = .bad → fails .tableFormat) ∧ (walk = .unread → fails .walkerFault))) ∧
  (∀ (core : Nat) (s : State) (g : Group) (m : Miss), s.group? (gkey core 191) = some g → g.walk = some m → g.walkAt + 4096 < s.now →
    ∃ t, exec (.walkTimeout core) s = .next t ∧ t.group? (gkey core 191) = none ∧
      t.walkFails = s.walkFails ++ (s.misses.filter (fun x => x.same m)).map (fun x => (x, .walkerFault)) ∧ t.mem = s.mem) ∧
  (∀ (k frame : Nat) (s : State) (ask : PageAsk), s.asks[k]? = some ask →
    let m := ask.miss
    let answered := fun (t : State) => ∀ x ∈ t.asks, ¬ (x.miss.domain = m.domain ∧ samePage x.miss.va m.va = true)
    let told := fun (t : State) (ok : Bool) => ∀ e ∈ t.sideLog, e.domain = m.domain → samePage e.va m.va = true → e.served = some ok
    (∀ large pte, s.walk m.domain m.va = .leaf large pte →
      ∃ t, exec (.mmpPageService k frame) s = .next t ∧ answered t ∧ told t true ∧ t.mem = s.mem ∧ t.groups = s.groups ∧ t.walkFails = s.walkFails) ∧
    (∀ large pte, s.walk m.domain m.va = .hostBacked large pte → exec (.mmpPageService k frame) s = .next s) ∧
    (s.walk m.domain m.va = .bad ∨ s.walk m.domain m.va = .unread ∨ (∃ level, s.walk m.domain m.va = .invalid level ∧ s.regionOf m.domain (pageNum m.va) = none) →
      ∃ t, exec (.mmpPageService k frame) s = .next t ∧ answered t ∧ told t false ∧ t.mem = s.mem ∧ t.groups = s.groups ∧
        (m.access ≠ 0 → (m, Cause.pageNotPresent) ∈ t.walkFails)) ∧
    (∀ r root table, s.walk m.domain m.va = .invalid 1 → s.regionOf m.domain (pageNum m.va) = some r → mapFind m.domain s.roots = some root →
      s.tableAt m.va 1 4 root = some table → s.frameFree frame = true → table < frameCount → frame ≠ table →
      s.poisoned table (3 * levelIndex m.va 1 / 243) = false →
      ∃ t, exec (.mmpPageService k frame) s = .next t ∧ answered t ∧ told t true ∧ frame ∈ t.allocated ∧ t.groups = s.groups ∧
        t.tableEntry table (levelIndex m.va 1) = some (r.leaf frame) ∧ (∀ i, i < frameBytes → memByte t.mem (frameAddr frame + i) = memDefault (frameAddr frame + i)) ∧
        ∀ slot, r.key = some slot → mapFind frame t.frameKey = some (slot + 1))) ∧
  (∀ (domain : Nat) (va : Addr) (level : Nat) (entry : Word) (s : State),
    (0 ≤ pteFrame entry → pteFrame entry < frameCount →
      ∃ t, exec (.mmpEntryChange domain va 5 entry) s = .next t ∧ mapFind domain t.roots = some (pteFrame entry).toNat ∧ t.mem = s.mem ∧
        (∀ e ∈ t.tlbs, e.domain ≠ domain) ∧ ∀ d, d ≠ domain → mapFind d t.roots = mapFind d s.roots) ∧
    (∀ root table, level ≠ 5 → mapFind domain s.roots = some root → s.tableAt va level 4 root = some table → table < frameCount →
      s.poisoned table (3 * levelIndex va level / 243) = false →
      ∃ t, exec (.mmpEntryChange domain va level entry) s = .next t ∧ t.tableEntry table (levelIndex va level) = some entry ∧
        storesOnly s t [.packed table (3 * levelIndex va level), .packed table (3 * levelIndex va level + 1), .packed table (3 * levelIndex va level + 2)] ∧
        ∀ e ∈ t.tlbs, ¬ (e.domain = domain ∧ e.page / levelPages level = pageNum va / levelPages level))) ∧
  (∀ (frame : Nat) (s : State), frame ∉ s.badFrames → frame ∉ s.retired →
    exec (.badPageAdd frame) s = .next (if s.badFrames.length < 4096 then { s with badFrames := frame :: s.badFrames } else
      { s with retired := frame :: s.retired, replies := s.replies ++ [⟨0, [1#8]⟩] }))

/-! ## Queues, packets, launches and crews -/

/-- A notify raises WRITE and marks the kick, or stops the queue where the value is too large; a claim of a slot raises RESERVE where
the slot is the next and free; a visit adds QUANTUM to DEFICIT and journals it; a head packet with a breach stops the queue, and
an empty slot waits for a kick, and a packet for the key slot that it needs; DOORBELL is refused and reported before the device is
ready. That kicks stay pending and the form of the reply are logs 55 and 71. (R334 to R337, R342, R374, R419; log 53, 55, 71, 101) -/
def Obligations.QueueService : Prop :=
  (∀ (port queue value : Nat) (relaxed : Bool) (s : State), queue ≤ 4095 → (∀ r ∈ s.inbound, r.port ≠ port ∧ r.id < s.nextReq) →
    ((s.ctrl.ready = true ∨ (s.ctrl.minimal = true ∧ s.startDue = false)) →
      exec (.doorbellWrite port queue value relaxed) s = .next ({ s with nextReq := s.nextReq + 1 }.notify queue value)) ∧
    (s.ctrl.ready = false → (s.ctrl.minimal = false ∨ s.startDue = true) → ∃ t, exec (.doorbellWrite port queue value relaxed) s = .next t ∧
      t = { s.hostEvent Cause.pageNotPresent.code port (8 * queue) with aer := t.aer } ∧ t.aer = s.aer ++ [port])) ∧
  (∀ (q v : Nat) (s : State), v < 2 ^ 64 →
    (s.notify q v).qWrite q = max v (s.qWrite q) ∧ q ∈ (s.notify q v).kicks ∧
    (s.ctrl.minimal = false → v ≤ s.qRead q + s.qSlots q → storesOnly s (s.notify q v) (s.queueLocs q 24 8)) ∧
    (s.ctrl.minimal = false → s.qRead q + s.qSlots q < v → (s.notify q v).qStopped q = true ∧ (s.notify q v).queueNat q 13 1 = Cause.queueFull.code)) ∧
  (∀ (q index : Nat) (s : State), s.qReserve q = index → index < s.qRead q + s.qSlots q → index + 1 < 2 ^ 64 →
    ∃ t, exec (.hostReserveClaim q index) s = .next t ∧ t.qReserve q = index + 1 ∧ storesOnly s t (s.queueLocs q 16 8) ∧
      t.replies = s.replies ++ [⟨0, [1#8]⟩]) ∧
  (∀ (q index : Nat) (s : State), ¬ (s.qReserve q = index ∧ index < s.qRead q + s.qSlots q) →
    exec (.hostReserveClaim q index) s = .next { s with replies := s.replies ++ [⟨0, [0#8]⟩] }) ∧
  (∀ (q : Nat) (s : State), s.scheduling = true → q < 4096 → s.qEnabled q = true → s.qStopped q = false →
    let s1 := (s.lookAt q).moveOn
    -- a visit with no packet left to accept is over
    (∀ v, s1.day.visit = some v → s1.visiting v = true) ∧
    (s1.day.visit = none → s1.acceptable q = true →
      (∀ e ∈ s1.day.heads, e.1 ≠ q → s1.roundPlace e.1 < s1.roundPlace q → s1.acceptable e.1 = false) →
      ∃ t, exec (.queueVisit q) s = .next t ∧ t.day.visit = some q ∧ t.day.last = q ∧ storesOnly s1 t (s1.queueLocs q 44 8) ∧
        .deficit q (s1.qDeficit q + (s1.qQuantum q : Int)) ∈ t.day.journal ∧
        t.queueNat q 44 8 = ((s1.qDeficit q + (s1.qQuantum q : Int)) % 2 ^ 64).toNat ∧ t.accepted = s.accepted) ∧
    (s1.acceptable q = false → exec (.queueVisit q) s = .next s1)) ∧
  -- the head of a queue that is looked at: a breach of its packet stops the queue, an empty slot waits for the next kick
  (∀ (q : Nat) (s : State) (ls : List Loc), s.qEnabled q = true → s.qStopped q = false → s.descCause q = none →
    s.qRead q < mapGet 0 s.day.seen q → (∀ h, mapFind q s.day.heads = some h → h.index ≠ s.qRead q) →
    s.keysFor (s.qDomain q) true (pagesOf (s.slotAddr q (s.qRead q)) 64) = none →
    s.byteLocs (s.qDomain q) true (s.slotAddr q (s.qRead q)) 64 = .ok ls →
    (pkNat (s.bytesAt ls) 0 1 = 0 → s.examine q = { s with day := { s.day with seen := mapErase q s.day.seen } }) ∧
    (∀ k, pkNat (s.bytesAt ls) 0 1 ≠ 0 → s.headKey q (s.bytesAt ls) = some k → s.examine q = s.askKey k) ∧
    (∀ c, pkNat (s.bytesAt ls) 0 1 ≠ 0 → s.headKey q (s.bytesAt ls) = none → s.parseHead q (s.qRead q) (s.bytesAt ls) = .error c →
      (s.examine q).qStopped q = true ∧ (s.examine q).queueNat q 13 1 = c.code ∧ (s.examine q).accepted = s.accepted) ∧
    (∀ h, pkNat (s.bytesAt ls) 0 1 ≠ 0 → s.headKey q (s.bytesAt ls) = none → s.parseHead q (s.qRead q) (s.bytesAt ls) = .ok h →
      s.examine q = { s with day := { s.day with heads := mapInsert q h s.day.heads } }))

/-- LAUNCH, COPY, WAITC, GANG and MARKER packets are accepted with what their rules open or complete, or stop their queue where their
completion counter is none that a counter can be; a WAITC completes, or stops its queue after its limit; a COPY job starts once
its pages are served, may write any one tryte before it completes, each once, and leaves the source's trytes at the destination
and its completion record. What else may hold a packet back, the crew of a COPY of buffers, and the events that show a tryte early
are logs 54, 56 and 100. (R338 to R340, R342, R242, R243, R351, R374, R375; log 54, 56, 100) -/
def Obligations.Packets : Prop :=
  (∀ (q ty : Nat) (s : State) (h : HeadPkt) (slot : Loc), s.accepting q ty = some h →
    s.byteLoc (s.qDomain q) true (s.slotAddr q h.index) = .ok slot →
    s.keysFor (s.qDomain q) true (s.slotAddr q h.index :: (if h.counter = azero then [] else [h.counter])) = none →
    -- what every acceptance leaves, and journals
    let rest := fun (t : State) (job : Nat) => t.groups = s.groups ∧ t.crews = s.crews ∧ t.bufs = s.bufs ∧ mapFind q t.day.heads ≠ some h ∧
      .accept q h.index ty job ∈ t.day.journal ∧ .read q (h.index + 1) ∈ t.day.journal
    let opened := fun (t : State) (w : Work) (release : Bool) (job : Nat) => t.accepted = s.accepted ++ [⟨q, h.index, release, w⟩] ∧ rest t job
    let flag := pkNat h.bytes 1 1 / 2 % 2 == 1
    -- a packet whose completion counter is none that a counter can be stops its queue
    (s.counterOk (s.qDomain q) h.counter = false →
      (ty = 1 → h.launch.isSome = true → exec (.launchPacket q) s = .next (s.stopQueue q .badRecord)) ∧
      (ty = 2 → (∀ j ∈ s.copyJobs, j.id ≠ s.nextJob) → exec (.copyPacket q) s = .next (s.stopQueue q .badRecord)) ∧
      (ty = 5 → exec (.markerPacket q) s = .next (s.stopQueue q .badRecord))) ∧
    (s.counterOk (s.qDomain q) h.counter = true →
    (∀ l, ty = 1 → h.launch = some l → ∃ t m, exec (.launchPacket q) s = .next t ∧ opened t (.launch s.nextLaunch) flag s.nextLaunch ∧
      t.launches = s.launches ++ [m] ∧ t.nextLaunch = s.nextLaunch + 1 ∧ m.id = s.nextLaunch ∧ m.started = l.started ∧
      m.shares.map (fun x => x.cluster) = l.clusters ∧ (m.entry, m.domain, m.groupsPer, m.crewsPer) = (l.entry, l.domain, l.groupsPer, l.crewsPer) ∧
      m.gang = (if l.gangBit then (mapFind q s.day.gangs).map (·.2) else none)) ∧
    -- a COPY joins the jobs, and the extents of its pages are looked up
    (ty = 2 → ∃ u, exec (.copyPacket q) s = .next (u.copyServe s.nextJob) ∧ opened u (.copy s.nextJob) flag s.nextJob ∧
      u.copyJobs = s.copyJobs ++ [{ s.headCopy q h with id := s.nextJob }] ∧ u.nextJob = s.nextJob + 1 ∧ u.launches = s.launches) ∧
    (ty = 3 → ∃ t, exec (.waitcPacket q) s = .next t ∧ t.launches = s.launches ∧ t.fifo = s.fifo ∧
      opened t (.waitc ((p5dec 54 ((h.bytes.drop 2).take 11)).getD azero) (pkNat h.bytes 13 8) (pkNat h.bytes 21 2) s.now) true 0) ∧
    (ty = 4 → ∃ t, exec (.gangPacket q) s = .next t ∧ opened t (.gang (pkGang h.bytes)) flag 0 ∧
      mapFind q t.day.gangs = some (h.index, pkGang h.bytes) ∧ t.launches = s.launches ∧ t.fifo = s.fifo) ∧
    (ty = 5 → ∃ t, exec (.markerPacket q) s = .next t ∧ t.accepted = s.accepted ∧ rest t 0 ∧ t.launches = s.launches ∧
      t.fifo = s.fifo ++ [{ plainDone q 5 0 h.index (pkNat h.bytes 2 8) (s.qDomain q) with
        counter := (p5dec 54 ((h.bytes.drop 10).take 11)).getD azero, increment := pkNat h.bytes 21 2, time := s.now }]))) ∧
  (∀ (q i v limit since : Nat) (a : Addr) (s : State), s.waitcOf q = some (i, a, v, limit, since) →
    let left := s.accepted.filter (fun x => !(x.queue == q && x.index == i))
    (∀ k, s.sysKey (s.qDomain q) a false = some k → exec (.waitcSatisfied q) s = .next (s.askKey k)) ∧
    (s.sysKey (s.qDomain q) a false = none → s.waitcReady q a v = true → s.day.down = false →
      exec (.waitcSatisfied q) s = .next { s with
        accepted := left, fifo := s.fifo ++ [{ plainDone q 3 0 i 0 (s.qDomain q) with time := s.now }]
        day := { s.day with journal := s.day.journal ++ [.complete q i] } }) ∧
    (s.sysKey (s.qDomain q) a false = none → s.waitcReady q a v = false ∨ s.day.down = true → exec (.waitcSatisfied q) s = .next s) ∧
    (s.waitcReady q a v = false → s.day.down = false → s.passed (1000 * limit * usCycles) since = true →
      ∃ t, exec (.waitcTimeout q) s = .next t ∧ t.accepted = left ∧ t.qStopped q = true ∧ t.queueNat q 13 1 = Cause.waitTimeout.code ∧
        t.fifo = s.fifo ++ [{ plainDone q 3 Cause.waitTimeout.code i 0 (s.qDomain q) with time := s.now }] ∧ t.groups = s.groups)) ∧
  (∀ (job : Nat) (s : State) (j : CopyJob), s.copyJobs.find? (fun x => x.id == job) = some j → j.started = false → s.day.down = false →
    (j.served = false → exec (.copyJobComplete job) s = .next (s.copyExtents j)) ∧
    (j.served = true → ∃ t, exec (.copyJobComplete job) s = .next t ∧ .start true job ∈ t.day.journal ∧
      t.copyJobs.find? (fun x => x.id == job) = some { j with started := true } ∧ t.mem = s.mem ∧ t.bufs = s.bufs ∧ t.groups = s.groups ∧ t.fifo = s.fifo)) ∧
  -- any one tryte may be at its destination before the job completes, written once
  (∀ (job idx : Nat) (s : State) (j : CopyJob) (a b : Loc) (v : Tryte), s.copyJobs.find? (fun x => x.id == job) = some j → j.started = true →
    idx / j.length < j.rows →
    let e := j.pair (idx / j.length) (idx % j.length)
    (idx ∈ j.early → exec (.copyTryte job idx) s = .next s) ∧
    (idx ∉ j.early → s.copyLoc j j.pages.1 e.1 = .ok a → s.copyLoc j j.pages.2 e.2 = .ok b → placed s [b] 1 → s.readLoc a = .ok v →
      ∃ t k, exec (.copyTryte job idx) s = .next t ∧ t.readLoc b = .ok v ∧ storesOnly s t [b] ∧
        t.copyJobs.find? (fun x => x.id == job) = some k ∧ k = { j with early := idx :: j.early, whole := k.whole, poison := k.poison } ∧
        t.fifo = s.fifo ∧ t.groups = s.groups)) ∧
  -- as it completes, every tryte that is not there yet is written
  (∀ (job : Nat) (s : State) (j : CopyJob) (srcs dsts : List Loc) (data : List Tryte),
    s.copyJobs.find? (fun x => x.id == job) = some j → j.started = true →
    j.pairs.map (fun e => s.copyLoc j j.pages.1 e.1) = srcs.map .ok → j.pairs.map (fun e => s.copyLoc j j.pages.2 e.2) = dsts.map .ok →
    (∀ l ∈ srcs, plain l ∧ l ∉ dsts) → placed s dsts dsts.length → s.readLocs srcs = .ok data →
    ∃ t c, exec (.copyJobComplete job) s = .next t ∧ t.readLocs dsts = .ok data ∧
      t.copyJobs = s.copyJobs.filter (fun x => x.id != j.id) ∧ t.fifo = s.fifo ++ [c] ∧
      (c.queue, c.ptype, c.status, c.index, c.extra, c.counter, c.increment) = (j.queue, 2, 0, j.index, j.clamped, j.counter, j.increment) ∧
      t.accepted = s.accepted.filter (fun a => !(a.queue == j.queue && a.index == j.index)) ∧ t.groups = s.groups) ∧
  (∀ (j : CopyJob) (r i : Nat), r < j.rows → i < j.length →
    (j.pair r i ∈ j.pairs ∨ j.length * r + i ∈ j.early) ∧
    j.pair r i = (addrAdd j.src (j.sstride * (r : Int) + (i : Int)), addrAdd j.dst (j.dstride * (r : Int) + (i : Int)))) ∧
  (∀ j : CopyJob, j.early = [] → j.pairs = (List.range j.rows).flatMap (fun r => (List.range j.length).map (fun i => j.pair r i)))

/-- A launch starts when its footprint is served and contexts are free; a crew is placed with its groups in the start state and its
buffers cleared; crews and launches end and leave their completion record; a record that the journal holds is released with its
addition to the counter, and one that it does not hold waits; an abort stops the queue with its cause. The order of completion,
the L1 copies that a start drops and the launch's exit are logs 57, 91 and 113. (R86, R242, R343, R344, R351, R356, R365, R374;
log 57, 91, 113) -/
def Obligations.LaunchesAndCrews : Prop :=
  (∀ (id : Nat) (s : State) (l : Launch), s.launch? id = some l → l.started = false → l.complete = false → l.gang = none → l.abort = none →
    l.halted = none → s.scheduling = true →
    let wait := l.footPages.filter (fun e => s.pageState (launchAsker id) l.domain e.2 e.1 == .waiting)
    (wait ≠ [] → ∃ t, exec (.launchStart id) s = .next t ∧ t = { s with asks := t.asks, keyAsks := t.keyAsks } ∧
      ∀ e ∈ wait, match s.sysKey l.domain e.1 false true with
        | some k => k ∈ t.keyAsks
        | none => ∃ k ∈ t.asks, k.miss.key = launchAsker id ∧ samePage k.miss.va e.1 = true) ∧
    (wait = [] → s.contextsFree l = false → exec (.launchStart id) s = .next s) ∧
    (wait = [] → s.contextsFree l = true → ∃ t m, exec (.launchStart id) s = .next t ∧ t.launch? id = some m ∧ m = { l with started := true, ctxs := m.ctxs } ∧
      t.mem = s.mem ∧ t.bufs = s.bufs ∧ t.crews = s.crews ∧ (l.seqEntry = azero → t.groups = s.groups ∧ m.ctxs = l.ctxs) ∧
      ∀ k ∈ l.clusters, l.seqEntry ≠ azero → ∃ slot n, s.contextFor l k = some slot ∧ gkey (seqCore k) slot ∈ m.ctxs ∧
        t.group? (gkey (seqCore k) slot) = some { contextState l k slot s.now with startSeq := n })) ∧
  (∀ (id core crew : Nat) (s : State) (l : Launch) (base : List Nat), s.launch? id = some l → l.waitsFor core crew = true → l.halted = none →
    s.scheduling = true → s.crew? id core crew = none → s.crewAhead id core crew = false → s.groupsFit core l.groupsPer l.nv = true →
    s.crewBases l core = some base →
    l.groupsPer ≤ ((List.range placeSlots).filter (fun k => (s.group? (gkey core k)).isNone)).length →
    ∃ t m, ∃ slots : List Nat, exec (.crewPlace id core crew) s = .next t ∧ t.crews = s.crews ++ [newCrew l core crew s.now base] ∧
      t.launch? id = some m ∧ m.placed = l.placed ++ [(core, crew)] ∧ slots.length = l.groupsPer ∧
      (∀ i slot, slots[i]? = some slot → slot < placeSlots ∧ s.group? (gkey core slot) = none ∧
        t.group? (gkey core slot) = some { startState l core slot crew i l.entry with startSeq := s.startSeq + i }) ∧
      (∀ k, (∀ slot ∈ slots, k ≠ gkey core slot) → t.group? k = s.group? k) ∧ t.mem = s.mem ∧
      ∀ p w, p < 3 → 81 * base.getD p 0 ≤ w → w < 81 * (base.getD p 0 + [l.aTiles, l.wTiles, l.cTiles].getD p 0) → l.layouts = [] →
        mapGet wzero t.bufs (bufKey core p w) = wzero) ∧
  (∀ (id core crew : Nat) (s : State) (l : Launch) (c : Crew), s.launch? id = some l → s.crew? id core crew = some c →
    (c.reserved = false → c.lastEnd.isSome = true → s.crewBusy id core crew = false → l.abort = none → l.live core = true →
      ∃ t m, exec (.crewEnd id core crew) s = .next t ∧ t.launch? id = some m ∧ m.crewsEnded = l.crewsEnded ++ [(core, crew)] ∧
        t.crews = s.crews.filter (fun x => !(x.launch == id && x.core == core && x.idx == crew)) ∧ t.groups = s.groups ∧ t.bufs = s.bufs) ∧
    (∀ since, c.lastEnd = some since → c.reported = false → l.waitTo ≠ 0 → s.passed (l.waitTo * usCycles) since = true → l.halted = none →
      s.daymarkHeld = false →
      ∃ t c', exec (.crewExitOutstanding id core crew) s = .next t ∧ t.crew? id core crew = some c' ∧ c' = { c with reported := true } ∧
        t = (s.modCrew id core crew (fun x => { x with reported := true })).emitEventAny Cause.crewExitOutstanding.code id 0 daymarkSrc)) ∧
  (∀ (id : Nat) (s : State) (l : Launch), s.launch? id = some l → l.complete = false → l.abort = none →
    (∀ u, s.launchOver l = true → s.reclaimWait id = some u → exec (.launchComplete id) s = .next u) ∧
    (s.launchOver l = true → s.reclaimWait id = none → ∃ t m c more, exec (.launchComplete id) s = .next t ∧ t.launch? id = some m ∧ m.complete = true ∧
      t.fifo = s.fifo ++ c :: more ∧ (c.queue, c.ptype, c.status, c.index, c.launch, c.counter, c.increment) = (l.queue, 1, 0, l.index, id, l.counter, l.increment) ∧
      c.extra = (s.moor.filter (fun e => e.2.launch == id && (e.2.state == .moored || e.2.state == .pending))).length ∧
      (∀ a ∈ t.accepted, a ∈ s.accepted ∧ ¬ (a.queue = l.queue ∧ a.index = l.index)) ∧
      ∀ k e, mapFind k t.moor = some e → e.launch = id → e.state ≠ .moored) ∧
    (s.launchOver l = false → exec (.launchComplete id) s = .next s)) ∧
  (∀ (s : State) (c : Completion) (rest : List Completion), s.fifo = c :: rest → s.ctrl.schedstop = false →
    s.day.down = false → s.daymarkHeld = false →
    (.complete c.queue c.index ∉ s.day.journal → exec .completionRecordRelease s = .next s) ∧
    (.complete c.queue c.index ∈ s.day.journal →
    (c.counter = azero → exec .completionRecordRelease s =
      .next ({ s with fifo := rest }.emit 5 c.launch 0 daymarkSrc ({ s with fifo := rest }.completionBytes c c.status))) ∧
    (∀ k, c.counter ≠ azero → s.sysKey c.domain c.counter true = some k → exec .completionRecordRelease s = .next (s.askKey k)) ∧
    (∀ ls, c.counter ≠ azero → s.sysKey c.domain c.counter true = none → s.counterLocs c.domain c.counter true = .ok ls → (∀ l ∈ ls, s.locPoisoned l = false) →
      ((∃ f n, f < frameCount ∧ n + 8 ≤ 59049 ∧ ls = (List.range 8).map (fun i => .binary f (n + i))) ∨
        ∃ p n, ls = (List.range 8).map (fun i => .host p (n + i))) →
      ∃ t, exec .completionRecordRelease s = .next t ∧ t.fifo = rest ∧ storesOnly s t ls ∧ t.groups = s.groups ∧
        leNat (t.bytesAt ls) = (leNat (s.bytesAt ls) + c.increment) % 2 ^ 64))) ∧
  -- an abort ends with the cause in the launch's record, and its queue stops
  (∀ (s : State) (l : Launch) (a : Abort), s.launch? l.id = some l → l.gang = none →
    (∀ e ∈ s.groups, e.2.launch = l.id → e.2.isWalker = false → clusterOf e.2.core ∈ l.shares.map (fun x => x.cluster)) →
    let t := s.endAbort l a
    t.qStopped l.queue = true ∧ t.queueNat l.queue 13 1 = a.cause.code ∧ (∀ e ∈ t.groups, e.2.launch = l.id → e.2.isWalker = true) ∧
      ∃ c, c ∈ t.fifo ∧ c.launch = l.id ∧ c.status = a.cause.code ∧ c.counter = azero)

/-! ## Gangs, pre-emption and failover -/

/-- A member arms with its reservations and reports; the coordinator counts distinct reports and sends GO when it has them all; GO
starts the parked groups; DISARM and the arm timeout release the reservations and stop the queue with GANG_ABORT. The completion
record of a disarmed member is log 60, and what a report that comes while Daymark is down does is log 115. (R350, R351; log 60,
115) -/
def Obligations.Gangs : Prop :=
  (∀ (id : Nat) (s : State) (l : Launch) (g : Gang), s.launch? id = some l → l.gang = some g → l.abort = none →
    (∀ s1, l.gangState = .wanting → l.complete = false → l.halted = none → s.scheduling = true →
      (∀ e ∈ l.footPages, s.pageState (launchAsker id) l.domain e.2 e.1 ≠ .waiting) → s.contextsFree l = true → s.reserveAll l l.cores = some s1 →
      ∃ t m, exec (.gangArm id) s = .next t ∧ t.launch? id = some m ∧ m = { l with gangState := .armed, armedAt := s.now, ctxs := m.ctxs } ∧ t.crews = s1.crews ∧
        t.mem = s.mem ∧ (∀ k x, t.group? k = some x → x.launch = id → x.parked = true) ∧
        (g.coordinator ≠ s.devid → t.outbox = s.outbox ++ [.armed g.coordinator g.gang g.member]) ∧
        (g.coordinator = s.devid → (g.gang, g.member) ∈ t.day.reports)) ∧
    (l.gangState = .armed → s.day.down = false → (g.coordinator ≠ s.devid ∨ s.gangGone g = true) →
      ∃ t m, exec (.gangGo id) s = .next t ∧ t.launch? id = some m ∧ m = { l with gangState := .go, started := true } ∧ t.crews = s.crews ∧
        t.mem = s.mem ∧ (g.coordinator = s.devid → ∀ r ∈ t.day.reports, r.1 ≠ g.gang) ∧ ∀ k, t.group? k = (s.group? k).map (fun x => if x.launch = id then { x.drain with parked := false } else x)) ∧
    (l.gangState = .armed → g.coordinator = s.devid → s.gangGone g = false → exec (.gangGo id) s = .next s)) ∧
  (∀ (gang member : Nat) (s : State), (gang, member) ∉ s.day.reports →
    let s1 := { s with day := { s.day with reports := s.day.reports ++ [(gang, member)] } }
    (s.day.down = true → exec (.gangArmedReceive gang member) s = .next { s with day := { s.day with late := s.day.late ++ [(gang, member)] } }) ∧
    (s.day.down = false → (∃ l ∈ s.launches, ∃ g, l.gangState = .armed ∧ l.gang = some g ∧ g.gang = gang ∧ g.coordinator = s.devid ∧ s.gangFull g = false ∧
        s1.gangFull g = true) →
      exec (.gangArmedReceive gang member) s = .next { s1 with outbox := s.outbox ++ [.go gang] }) ∧
    (s.day.down = false → (∀ l ∈ s.launches, ∀ g, l.gangState = .armed → l.gang = some g → g.gang = gang → g.coordinator = s.devid → s1.gangFull g = false) →
      exec (.gangArmedReceive gang member) s = .next s1)) ∧
  (∀ (id : Nat) (s : State) (l : Launch), s.launch? id = some l → l.complete = false → l.abort = none → s.day.down = false →
    let given := fun (t : State) => ∃ m c, t.launch? id = some m ∧ m.complete = true ∧ m.gangState = .no ∧ c ∈ t.fifo ∧ c.launch = id ∧
      c.status = Cause.gangAbort.code ∧ c.counter = azero ∧ t.qStopped l.queue = true ∧ t.queueNat l.queue 13 1 = Cause.gangAbort.code ∧
      ∀ x ∈ t.crews, x.launch = id → x.reserved = false
    ((l.gangState = .armed ∨ l.gangState = .wanting) → ∃ t, exec (.gangDisarm id) s = .next t ∧ given t) ∧
    (∀ g, l.gang = some g → l.gangState = .armed → g.coordinator = s.devid → s.gangGone g = false →
      s.passed (1000 * g.armTimeout * usCycles) l.armedAt = true →
      ∃ t, exec (.gangArmTimeout id) s = .next t ∧ given t ∧ .disarm g.gang ∈ t.outbox))

/-- An expired slice, a request and a drain timeout bring a share to its draining, restart or save; a save keeps its groups, buffers,
arrays, side log and jobs; a restore puts them back, in slots that are free then; an uncorrectable word of Daymark holds it until
its standby goes on from the journal, or stops scheduling where there is no standby. Where a save goes, what is restored first,
and what a failover reads again are logs 58 and 61; an error before the standby has taken over is log 115. (R324, R345 to R349,
R351; log 58, 61, 115) -/
def Obligations.Preemption : Prop :=
  (∀ (id cluster : Nat) (s : State) (l : Launch) (sh : Share), s.share? id cluster = some (l, sh) →
    let stopped := fun (t : State) => ∀ k, t.group? k = (s.group? k).map (fun x => if x.inShare id cluster then { x.drain with parked := true } else x)
    let share := fun (t : State) (sh' : Share) => ∃ m, t.share? id cluster = some (m, sh') ∧ t.mem = s.mem ∧ t.bufs = s.bufs ∧ t.crews = s.crews
    let chosen := fun (t : State) => .preempt id cluster ∈ t.day.journal ∧
      (s.shareChoice l cluster = .drain → share t { sh with slice := 0, asked := false, state := .draining s.now } ∧ t.groups = s.groups) ∧
      (s.shareChoice l cluster = .restart → share t { sh with slice := 0, asked := false, state := .restarting } ∧ stopped t) ∧
      (s.shareChoice l cluster = .save → share t { sh with slice := 0, asked := false, state := .saving false } ∧ stopped t)
    (sh.state = .resident → l.sliceUs ≠ 0 → l.sliceUs * usCycles ≤ sh.slice → s.preemptible l = true → s.daymarkHeld = false →
      (s.othersWait l cluster = true → ∃ t, exec (.sliceExpiry id cluster) s = .next t ∧ chosen t) ∧
      (s.othersWait l cluster = false → ∃ t, exec (.sliceExpiry id cluster) s = .next t ∧ share t { sh with slice := 0 } ∧ t.groups = s.groups)) ∧
    (sh.state = .resident → l.complete = false → l.abort = none → s.scheduling = true → l.started = true →
      (l.halted = none → ∃ t, exec (.preemptRequest id cluster) s = .next t ∧ chosen t) ∧
      (l.halted ≠ none → ∃ t, exec (.preemptRequest id cluster) s = .next t ∧ share t { sh with asked := true } ∧ t.groups = s.groups)) ∧
    (∀ since, sh.state = .draining since → s.passed (2 * l.drain * usCycles) since = true → s.preemptible l = true →
      (s.shareKeys id cluster ≠ [] ∨ s.shareCrews id cluster ≠ []) →
      ∃ t, exec (.drainTimeout id cluster) s = .next t ∧ share t { sh with state := .saving false } ∧ stopped t ∧ .preempt id cluster ∈ t.day.journal) ∧
    (∀ area, s.preemptible l = true → (sh.state = .resident ∨ ∃ n, sh.state = .draining n) → s.hostWait id cluster = true →
      ∃ t, exec (.shareSave id cluster area) s = .next t ∧ share t { sh with state := .saving true } ∧ stopped t ∧ .preempt id cluster ∈ t.day.journal) ∧
    (∀ swap, s.preemptible l = true → sh.state = .saving swap → s.shareQuiet id cluster = true → s.shareJobs id cluster = false →
      let gs := s.groups.filter (fun e => e.2.inShare id cluster)
      let cs := s.shareCrews id cluster
      (∃ t m sh', exec (.shareSave id cluster true) s = .next t ∧ t.share? id cluster = some (m, sh') ∧ sh'.state = (if swap then .swapped else .saved) ∧
        sh'.savedGroups = gs.map (fun e => { e.2 with
          haltedAt := s.now, perfAt := e.2.perf, ctx := e.2.ctx.map (fun c => { c with cycles := 0, passes := 0 }) }) ∧ sh'.savedBufs = s.bufs.filter (fun e => cs.any (fun c => c.holds 59049 e.1)) ∧
        sh'.savedTags = s.tags.filter (fun e => cs.any (fun c => c.holds 729 e.1)) ∧
        sh'.savedCrews.map (fun c => (c.core, c.idx, c.base, c.tiles, c.records, c.residentCycles)) =
          cs.map (fun c => (c.core, c.idx, c.base, c.tiles, c.records, s.crewResident c)) ∧
        (∀ e ∈ gs, ∀ c, e.2.ctx = some c → ∀ r ∈ c.claims, ∀ a, mapFind (e.2.rankCore r) s.arrays = some a → (e.2.rankCore r, a) ∈ sh'.savedArrays) ∧
        sh'.savedLog = s.sideLog.filter (fun e => (gs.map (·.1)).contains e.key) ∧ sh'.savedJobs = s.shareMx id cluster ∧
        (∀ e ∈ t.groups, e.2.inShare id cluster = false) ∧ (∀ c ∈ t.crews, c ∉ cs)) ∧
      (s.daymarkHeld = false → ∃ t, exec (.shareSave id cluster false) s = .next t ∧
        (swap = false → share t { sh with state := .resident, slice := 0 }) ∧ (swap = true → t.groups = s.groups ∧ t.launches = s.launches))) ∧
    (sh.state = .swapped → ∃ t, exec (.swapIn id cluster) s = .next t ∧ share t { sh with state := .saved } ∧ t.groups = s.groups) ∧
    (sh.state = .saving true → s.hostWait id cluster = false →
      ∃ t, exec (.swapIn id cluster) s = .next t ∧ share t { sh with state := .resident, slice := 0 }) ∧
    (sh.state = .saved → s.preemptible l = true → s.waiterFits l cluster = false → s.contextFits l sh = true → sh.savedCrews.all (s.crewFits sh) = true →
      let free := fun (core : Nat) => ((List.range placeSlots).filter (fun k => (s.group? (gkey core k)).isNone)).length
      ∃ t m sh', ∃ name : Nat → Nat, exec (.shareRestore id cluster) s = .next t ∧ t.share? id cluster = some (m, sh') ∧ sh'.state = .resident ∧
        sh'.replaying = true ∧ sh'.savedGroups = [] ∧ sh'.savedLog = [] ∧ sh'.savedJobs = [] ∧
        t.crews = s.crews ++ sh.savedCrews.map (fun c => { c with placedAt := s.now }) ∧
        (mapSorted sh.savedBufs = true → ∀ e ∈ sh.savedBufs, mapFind e.1 t.bufs = some e.2) ∧ t.mem = s.mem ∧
        -- the side log, under the keys that the groups have now
        t.sideLog = s.sideLog ++ sh.savedLog.map (fun e => { e with key := name e.key }) ∧
        -- every group, in a slot of its core that was free
        ((sh.savedGroups.map Group.key).Nodup →
          (∀ g ∈ sh.savedGroups, g.isSeq = false → (sh.savedGroups.filter (fun x => x.core == g.core && !x.isSeq)).length ≤ free g.core) →
          (∀ g ∈ sh.savedGroups, g.isSeq = true → sh.savedGroups.filter (·.isSeq) = [g] ∧ g.core = seqCore (clusterOf g.core) ∧ (s.freeContext (clusterOf g.core)).isSome = true) →
          (∀ g ∈ sh.savedGroups, ∃ n k, name g.key = gkey g.core n ∧ s.group? (gkey g.core n) = none ∧ (g.isSeq = false → n < placeSlots) ∧
            t.group? (gkey g.core n) = some { g.shiftWaits s.now with slot := n, ctx := g.ctx.map (fun c => { c with since := s.now }), startSeq := k }) ∧
          ∀ k, (∀ g ∈ sh.savedGroups, k ≠ name g.key) → t.group? k = s.group? k) ∧
        -- the matrix jobs, and the arrays with their blocks loaded again, whose check values agree (R324)
        (mapSorted sh.savedJobs = true → mapSorted sh.savedArrays = true →
          (∀ e ∈ sh.savedArrays, ∀ b, e.2.block = some b → ∃ x, ({ s with bufs := t.bufs } : State).expand b.desc = some x ∧ x.1.check = b.check) →
          (∀ e ∈ sh.savedJobs, mapFind e.1 t.mxJobs = some e.2) ∧
          ∀ e ∈ sh.savedArrays, ∃ b, t.array e.1 = { e.2 with block := b } ∧ b.isSome = e.2.block.isSome) ∧
        (∀ core a b, sh.savedArrays = [(core, a)] → a.block = some b →
          (∀ x, ({ s with bufs := t.bufs } : State).expand b.desc = some x → x.1.check ≠ b.check) →
          (t.array core).void = true ∧ (t.array core).block = none ∧
          ∃ j, mapFind b.desc.job t.mxJobs = some j ∧ j.fault = some .microtileResumeMismatch))) ∧
  -- a second wrong trit of Daymark's memory traps its active core; the standby takes over, or scheduling stops
  (∀ s : State, s.badDay ≠ 0 →
    let t0 := { s with badDay := 0 }
    (s.ctrl.schedstop = true → exec (.softError .daymark) s = .next t0) ∧
    (s.ctrl.schedstop = false → (s.ctrl.nostandby = true ∨ s.day.down = true) →
      exec (.softError .daymark) s =
        .next ({ t0 with ctrl := { s.ctrl with schedstop := true, nostandby := true } }.hostEvent Cause.schedulerFailover.code 255 1)) ∧
    (s.ctrl.schedstop = false → s.day.down = false → s.ctrl.nostandby = false →
      exec (.softError .daymark) s = .next { t0 with day := { s.day with down := true } })) ∧
  (∀ s : State, (s.day.down = false ∨ s.ctrl.schedstop = true → exec .daymarkFailover s = .next s) ∧
    (s.day.down = true → s.ctrl.schedstop = false → ∃ t, exec .daymarkFailover s = .next t ∧ t.ctrl.nostandby = true ∧ t.day.down = false ∧
      t.day.owed = [] ∧ t.day.late = [] ∧ (∀ r ∈ s.day.journal, r ∈ t.day.journal) ∧ (∀ e ∈ s.day.owed, ∃ d, .deficit e.1 d ∈ t.day.journal) ∧
      -- where no gang member has lost its coordinator meanwhile
      ((∀ l ∈ s.launches, ∀ g, l.gang = some g → (l.gangState = .armed ∨ l.gangState = .wanting) → l.complete = false → l.abort = none →
          g.coordinator = s.devid ∨ s.reachable g.coordinator = true) →
        t.ctrl.schedstop = false ∧ t.day.heads = [] ∧
        t.day.visit = none ∧ (∀ q, q < 4096 → s.qRead q < s.qWrite q → mapFind q t.day.seen = some (s.qWrite q)) ∧
        (∀ c ∈ t.fifo, .complete c.queue c.index ∈ t.day.journal) ∧ t.fifo = s.fifo ∧ (∀ e ∈ s.day.late, e ∈ t.day.reports) ∧
        t.accepted = s.accepted ∧ t.launches = s.launches ∧ t.groups = s.groups ∧ (s.day.owed = [] → t.mem = s.mem))))

/-! ## Observation and debugging -/

/-- A record goes to the first session that accepts it; RDPTR makes room; a sample is taken or counted as an overrun and shows what
its slot holds; an interval of lane accounting and of energy ends with its records and charges, each crew with its share of static
energy, its counters times their coefficients and its tiles moved; system software reads a coefficient or the device account; PC
breaks, watchpoints and single steps stop a split at its PC. Classes of samples, bins, the counts that energy multiplies and the
form of its reading are logs 63, 64, 78 and 97. (R380 to R383, R388, R395 to R401; log 63, 64, 78, 97) -/
def Obligations.Observation : Prop :=
  (∀ (k : Nat) (s : State) (r : TraceRec), s.lens = none → s.records[k]? = some r → (∀ x ∈ s.records.take k, x.src ≠ r.src) →
    let left := { s with records := dropAt s.records k }
    -- a group that waited to go on until its STOP record was taken goes on (R381)
    (∀ g, s.group? r.src = some g → g.resumeDue = true →
      exec (.traceRecordAccept k) s = .next ((left.resumeGroup r.src).startLens r (s.sessions.map (fun e => e.1)))) ∧
    ((∀ g, s.group? r.src = some g → g.resumeDue = false) →
    ((∀ e ∈ s.sessions, e.2.accepts s r.kind r.launch = false) → exec (.traceRecordAccept k) s = .next { left with lens := none }) ∧
    (∀ pre n x post, s.sessions = pre ++ (n, x) :: post → (∀ e ∈ pre, e.1 ≠ n ∧ e.2.accepts s r.kind r.launch = false) →
      x.accepts s r.kind r.launch = true →
      exec (.traceRecordAccept k) s = .next { left with lens := some ⟨n, x.prog, 0, List.replicate 8 0#64, r, post.map (fun e => e.1)⟩ }))) ∧
  (∀ (k : Nat) (s : State) (r x : TraceRec), s.lens = none → s.records[k]? = some r → x ∈ s.records.take k → x.src = r.src →
    exec (.traceRecordAccept k) s = .next s) ∧
  (∀ (n value : Nat) (s : State) (x : Session), mapFind n s.sessions = some x →
    (x.fullPending = false → exec (.rdptrWrite n value) s = .next { s with sessions := mapInsert n { x with rdptr := value } s.sessions }) ∧
    (x.fullPending = true → ({ x with rdptr := value } : Session).full 64 = false →
      ∃ t y, exec (.rdptrWrite n value) s = .next t ∧ mapFind n t.sessions = some y ∧ y.fullPending = false ∧ y.rdptr = value ∧ y.drops = x.drops ∧
        t.groups = s.groups ∧ t.mem = s.mem)) ∧
  (∀ (core : Nat) (s : State) (x : Session), s.sampling = some x → core < 256 → s.now % x.sampleP = 0 →
    let m := mapGet ⟨0, 0, 0⟩ s.samplers core
    m.at_ ≤ s.now →
    ((∃ r ∈ s.records, r.src = samplerSrc core) →
      exec (.pcSample core) s = .next { s with
        samplers := mapInsert core { m with next := (m.next + 1) % 192, at_ := s.now + 1, overruns := m.overruns + 1 } s.samplers }) ∧
    ((∀ r ∈ s.records, r.src ≠ samplerSrc core) →
      ∃ t, exec (.pcSample core) s = .next t ∧ mapGet ⟨0, 0, 0⟩ t.samplers core = { m with next := (m.next + 1) % 192, at_ := s.now + 1, overruns := 0 } ∧
        t.groups = s.groups ∧
        let w := s.showSlot x core m.next
        (s.traced 3 w.launch = true →
          ⟨s.sampleRecord core m.next m.overruns w, 3, w.launch, dieOf core, samplerSrc core⟩ ∈ t.records)) ∧
    (s.group? (gkey core m.next) = none → mapFind (gkey core m.next) s.exited = none → s.showSlot x core m.next = ⟨0, 0, none⟩) ∧
    (∀ l pc, s.group? (gkey core m.next) = none → mapFind (gkey core m.next) s.exited = some (l, pc) → x.observes s l = true →
      s.showSlot x core m.next = ⟨10, l, some (0, 0#32, pc)⟩) ∧
    (∀ g, s.group? (gkey core m.next) = some g → x.observes s g.launch = false → s.showSlot x core m.next = ⟨11, 0, none⟩)) ∧
  (∀ (core : Nat) (s : State) (x : Session) (a : LaneSum), s.laneSession = some x → mapFind core s.lanes = some a → x.laneInt * 2500 ≤ a.cycles →
    (∀ r ∈ s.records, r.src ≠ lanesSrc core) →
    ∃ t, exec (.laneIntervalEnd core) s = .next t ∧ mapFind core t.lanes = some ⟨0, []⟩ ∧ t.groups = s.groups ∧
      (s.traced 4 x.select = true → t.records = s.records ++ (a.bins.filter (fun e => e.2.any (· != 0))).map
        (fun e => ⟨s.lanesRecord x.select e.1 a.cycles e.2, 4, x.select, dieOf core, lanesSrc core⟩))) ∧
  (∀ s : State, s.intervalTick < s.timeBase / 10000 →
    ∃ t, exec .energyIntervalEnd s = .next t ∧ t.intervalTick = s.timeBase / 10000 ∧ t.intervalAt = s.now ∧ t.energyEarly = [] ∧
      -- a crew is charged its share of its core's static energy, its groups' counters times their coefficients, and its tiles moved
      (∀ (i : Nat) (c : Crew), s.crews[i]? = some c → ∃ (c' : Crew) (x : Nat), t.crews[i]? = some c' ∧ c'.slotCycles = 0 ∧ c'.moved = 0 ∧ c'.energyCr = c'.energy / 1000 ∧
        x ≤ staticShare c.core c.slotCycles s.intervalCycles ∧
        ((mapGet 0 s.energyEarly c.core = 0 ∧ (∀ (j : Nat) (d : Crew), j < i → s.crews[j]? = some d → d.core ≠ c.core) ∧
            staticShare c.core c.slotCycles s.intervalCycles ≤ unitStatic c.core) → x = staticShare c.core c.slotCycles s.intervalCycles) ∧
        1000 * c'.energy + c'.energyPj = 1000 * (c.energy + x) + c.energyPj + s.crewActivity c + Config.energyCoef 17 * c.moved) ∧
      (∀ (i : Nat) (j : CopyJob), s.copyJobs[i]? = some j → ∃ j' : CopyJob, t.copyJobs[i]? = some j' ∧ j'.moved = 0 ∧
        1000 * j'.energy + j'.energyPj = 1000 * j.energy + j.energyPj + Config.energyCoef 17 * j.moved) ∧
      s.energy + Config.ioStatic ≤ t.energy ∧ t.moved = 0 ∧ t.leftCrews = [] ∧ (∀ k, t.group? k = (s.group? k).map Group.newInterval) ∧ t.mem = s.mem) ∧
  (∀ s : State, s.timeBase / 10000 ≤ s.intervalTick → exec .energyIntervalEnd s = .next s) ∧
  -- what system software reads: a coefficient, or the device account
  (∀ (k : Nat) (s : State), exec (.energyRead k) s = .next { s with
    replies := s.replies ++ [⟨0, leBytes 8 (if k < 18 then Config.energyCoef k else s.energy)⟩] }) ∧
  (∀ (core slot i : Nat) (s : State) (g : Group) (x : Split), s.group? (gkey core slot) = some g → g.split? i = some x → g.isWalker = false → g.hdepth = 0 →
    (x.mayIssue g s.now = true → s.breakHit g x = true →
      ∃ t, exec (.pcBreakStop core slot i) s = .next t ∧ StopsAt s t (gkey core slot) i .pcBreak 0 x.pc) ∧
    (s.breakHit g x = false → exec (.pcBreakStop core slot i) s = .next s) ∧
    (∀ n, g.awake i = true → x.wait = .watched n →
      ∃ t, exec (.watchpointStop core slot i) s = .next t ∧ StopsAt s t (gkey core slot) i .watchpoint (n : Int) x.pc) ∧
    (g.stepping = some i → g.status = .running → g.stepDone i = true →
      ∃ t g', exec (.singleStepStop core slot) s = .next t ∧ StopsAt s t (gkey core slot) i .singleStep 0 x.pc ∧
        t.group? (gkey core slot) = some g' ∧ g'.stepping = none))

/-- Each command of the debug mailbox is refused with the status of its rule where the debugger may not use it or the launch is not
halted, and otherwise has its effect and answers: HALT, RELEASE, END, STEP, DEBUGSET, DUMP, READST and SESSION; a DUMP waits for
the launch's accepted jobs, and a fault taken in the cycle of a stop stays pending. The cases of log 67 and the form of the answer
(log 71) are the model's. (R387 to R391, R418, R435; log 67, 71) -/
def Obligations.Debugger : Prop :=
  let answered := fun (s t : State) (status : Nat) (bs : List (BitVec 8)) =>
    t.replies = s.replies ++ [⟨1000, leBytes 1 status ++ bs⟩] ∧ mapGet 0#8 t.ctrl.dbgBox 2 = BitVec.ofNat 8 status
  let only := fun (s t : State) => t = { s with ctrl := t.ctrl, replies := t.replies }
  (∀ (launch core slot split kind : Nat) (at_ size : Nat) (set : DebugSet) (s : State), s.debugLaunch launch = none → (∀ d ∈ s.dumps, d.1 ≠ launch) →
    ∀ i ∈ [Instr.dbgHalt launch, .dbgRelease launch, .dbgEnd launch, .dbgStep launch core slot split, .dbgDump launch at_ size,
        .dbgDebugset launch set, .dbgReadst launch core slot kind],
      ∃ t, exec i s = .next t ∧ answered s t Cause.debugAccessDenied.code [] ∧ only s t) ∧
  (∀ (launch core slot split kind : Nat) (at_ size : Nat) (s : State) (l : Launch), s.debugLaunch launch = some l → l.halted = none →
    (∀ d ∈ s.dumps, d.1 ≠ launch) → ∀ i ∈ [Instr.dbgRelease launch, .dbgEnd launch, .dbgStep launch core slot split, .dbgDump launch at_ size, .dbgReadst launch core slot kind],
      ∃ t, exec i s = .next t ∧ answered s t Cause.reservedField.code [] ∧ only s t) ∧
  (∀ (launch : Nat) (s : State) (l : Launch), s.debugLaunch launch = some l →
    (l.halted = none → ∃ t m, exec (.dbgHalt launch) s = .next t ∧ answered s t 0 [] ∧ t.launch? launch = some m ∧ m.halted = some .haltRequest ∧
      t.mem = s.mem ∧ ∀ k g x, s.group? k = some g → g.launch = launch → g.isWalker = false → g.status = .running → g.split? g.stopSplit = some x →
        mapFind k s.fresh = none → ∃ g', t.group? k = some g' ∧ g'.status = .halted .haltRequest) ∧
    -- a fault that a group has taken in this very cycle, to its handler or to a stop outside one, stays pending (R366)
    (l.halted = none → ∀ k g i ti g0, s.group? k = some g → g.launch = launch → g.isWalker = false → mapFind k s.fresh = some ((i, ti), g0) → g0.hdepth = 0 →
      g.hdepth ≠ 2 → g0.status = .running → s.toHandler launch ti.cause = true → ((g.untrap g0 i).split? (g.untrap g0 i).stopSplit).isSome = true →
      ∃ t g', exec (.dbgHalt launch) s = .next t ∧ t.group? k = some g' ∧ g'.status = .halted .haltRequest ∧ g'.pending = some (i, ti)) ∧
    (∀ set, debugSetOk set = true → ∃ t, exec (.dbgDebugset launch set) s = .next t ∧ answered s t 0 [] ∧ t.groups = s.groups ∧
      t.launch? launch = some { l with dbg := set }) ∧
    (∀ set, debugSetOk set = false → ∃ t, exec (.dbgDebugset launch set) s = .next t ∧ answered s t Cause.reservedField.code [] ∧ only s t) ∧
    (l.halted ≠ none →
      (mapSorted s.groups = true → (∀ k g, s.group? k = some g → g.launch = launch → s.stopHeld k = false ∧ g.pending = none) →
        ∃ t, exec (.dbgRelease launch) s = .next t ∧ answered s t 0 [] ∧ t.launch? launch = some { l with halted := none } ∧ t.mem = s.mem ∧
        ∀ k, t.group? k = (s.group? k).map (fun g =>
          if g.launch = launch ∧ g.isWalker = false ∧ g.status ≠ .running ∧ g.resumable = true then
            { g with stepping := none, stepIssued := false }.resume s.now else g)) ∧
      -- a group whose STOP record is still held goes on when it has been taken (R381)
      (∀ k g, mapSorted s.groups = true → s.group? k = some g → g.launch = launch → g.isWalker = false → g.status ≠ .running → g.resumable = true →
        s.stopHeld k = true → (∀ j h, s.group? j = some h → h.launch = launch → h.pending = none) →
        ∃ t g', exec (.dbgRelease launch) s = .next t ∧ t.group? k = some g' ∧ g'.status = g.status ∧ g'.resumeDue = true) ∧
      (∀ c, l.halted = some c → l.abort = none → ∃ t m, exec (.dbgEnd launch) s = .next t ∧ answered s t 0 [] ∧ t.launch? launch = some m ∧
        m.abort = some ⟨c, none⟩ ∧ ∀ k g, t.group? k = some g → g.launch = launch → g.isWalker = false → g.parked = true) ∧
      (∀ core slot split g x, s.group? (gkey core slot) = some g → g.split? split = some x → slot < 256 → g.launch = launch → g.isWalker = false →
        g.status ≠ .running → g.resumable = true → g.holds split = false →
        s.stopHeld (gkey core slot) = false → g.pending = none →
        ∃ t, exec (.dbgStep launch core slot split) s = .next t ∧ answered s t 0 [] ∧
          t.group? (gkey core slot) = some ({ g with stepping := some split, stepIssued := !x.toIssue }.resume s.now) ∧ othersKept s t (gkey core slot) ∧
          t.launches = s.launches) ∧
      -- a dump waits for the launch's accepted jobs
      (∀ at_ size, s.jobsDrained l = false → exec (.dbgDump launch at_ size) s =
        .next { s with dumps := s.dumps.filter (fun x => x != (launch, at_, size)) ++ [(launch, at_, size)] }) ∧
      (∀ at_ size c, l.halted = some c → s.jobsDrained l = true → ∃ t, exec (.dbgDump launch at_ size) s = .next t ∧ answered s t 0 [] ∧ t.groups = s.groups ∧ t.mem = s.mem ∧
        ∀ i b, (s.dumpBytes l c.code size)[i]? = some b → mapFind (at_ + i) t.hostMem = some b) ∧
      (∀ core slot g, s.group? (gkey core slot) = some g → slot < 256 → g.launch = launch → g.isWalker = false →
        (∀ c, g.ctx = some c → ∃ t, exec (.dbgReadst launch core slot 1) s = .next t ∧ answered s t 0 (s.contextSec g c).body ∧ only s t) ∧
        (g.ctx = none → ∃ t, exec (.dbgReadst launch core slot 1) s = .next t ∧ answered s t 0 g.dumpRegisters.bytes ∧ only s t) ∧
        (∀ c, g.ctx = none → s.crew? launch core g.crew = some c →
          ∃ t, exec (.dbgReadst launch core slot 3) s = .next t ∧ answered s t 0 (s.dumpBuffers l c).1.bytes ∧ only s t)))) ∧
  (∀ g : Group, g.status ≠ .running → g.resumable = true → g.hdepth ≠ 2 → ∀ now, (g.resume now).status = .running ∧ (g.resume now).cause = g.cause) ∧
  (∀ g : Group, g.hdepth = 2 → g.status ≠ .running → g.resumable = true → ∀ now,
    (g.resume now).status = .running ∧ (g.resume now).hdepth = 1 ∧ (g.resume now).cause.field 22 5 = Tern.zero 5) ∧
  (∀ (launch n : Nat) (desc prog : List (BitVec 8)) (s : State), n ≤ 8 → desc.length = 64 →
    let words := lensWords (byteField desc 2 2) prog
    (s.sessionAllowed launch desc = false ∨ s.debugLaunch launch = none → ∃ t, exec (.dbgSession launch n desc prog) s = .next t ∧ answered s t Cause.debugAccessDenied.code [] ∧ only s t) ∧
    (s.sessionAllowed launch desc = true → byteField desc 0 1 % 2 = 1 → s.sessionClash n desc = true →
      ∃ t, exec (.dbgSession launch n desc prog) s = .next t ∧ answered s t Cause.debugAccessDenied.code [] ∧ only s t) ∧
    (s.sessionAllowed launch desc = true → byteField desc 0 1 % 2 = 1 → s.sessionClash n desc = false → 1 ≤ byteField desc 2 2 → byteField desc 2 2 ≤ 256 →
      (descOk desc words = true → ∃ t x, exec (.dbgSession launch n desc prog) s = .next t ∧ answered s t 0 [] ∧ mapFind n t.sessions = some x ∧
        x.desc = desc ∧ x.prog = words ∧ x.counters = List.replicate 64 0#64 ∧ x.enabled = true ∧ ∀ m, m ≠ n → mapFind m t.sessions = mapFind m s.sessions) ∧
      (descOk desc words = false → ∃ t x, exec (.dbgSession launch n desc prog) s = .next t ∧ answered s t Cause.lensProgramInvalid.code [] ∧
        mapFind n t.sessions = some x ∧ x.enabled = false)) ∧
    (s.sessionAllowed launch desc = true → byteField desc 0 1 % 2 = 0 → ∃ t x, exec (.dbgSession launch n desc prog) s = .next t ∧ answered s t 0 [] ∧
      mapFind n t.sessions = some x ∧ x.desc = desc ∧ x.enabled = false))

/-! ## The shell, links and bring-up -/

/-- An event record is written or counted as lost; MEMORY reads and writes enter the inbound ordering point, are refused, logged and
reported, wait for a key slot, or are answered in their order; an acknowledged write leaves its bytes; semaphores are taken and
freed, port 1 after port 0; CTRL registers are read, take legal values and log others; MSI-X vector 0 signals the event ring. The
moments at which bytes are touched, the log of ignored writes, the form of replies, the signals of MSI-X and the moment at which
port 1 is served are logs 69 to 71, 98 and 103. (R374, R403 to R409, R439; log 69, 70, 71, 98, 103) -/
def Obligations.HostRequests : Prop :=
  (∀ (code port detail : Nat) (s : State), code < 92 →
    let c := s.ctrl
    let room := c.evbase ≠ 0 ∧ c.evsize ≠ 0 ∧ c.evwr < c.evrd + c.evsize
    (¬ room → s.hostEvent code port detail = { s with ctrl := { c with evLost := true } }) ∧
    (room → let t := s.hostEvent code port detail
      t.ctrl = { c with evwr := c.evwr + 1, evLost := false } ∧ t.mem = s.mem ∧ t.groups = s.groups ∧
      t.msix = (if c.evrd = c.evwr then s.msix ++ [0] else s.msix) ∧
      ∀ i, i < 16 → mapFind (c.evbase + 16 * (c.evwr % c.evsize) + i) t.hostMem =
        some ((leBytes 1 code ++ leBytes 1 port ++ zeroBytes 6 ++ leBytes 8 (detail % 2 ^ 63 + (if c.evLost then 2 ^ 63 else 0))).getD i 0#8))) ∧
  (∀ (port offset len : Nat) (s : State) (bs : List ByteAt), s.ctrl.ready = true → s.aperBytes offset false len = .ok bs →
    (portQuiet s port → exec (.memoryRead port offset len) s =
      .next { s with nextReq := s.nextReq + 1, replies := s.replies ++ [⟨port, bs.map s.readByteAt⟩] }) ∧
    ((∀ r ∈ s.inbound, r.port = port → r.forwarded = true) → (∃ r ∈ s.inbound, r.port = port ∧ r.write = true) →
      exec (.memoryRead port offset len) s =
        .next { s with inbound := s.inbound ++ [⟨s.nextReq, port, 4, false, false, false, .read bs⟩], nextReq := s.nextReq + 1 })) ∧
  (∀ (port offset len : Nat) (s : State) (c : Cause), (if s.ctrl.ready then s.aperBytes offset false len else .error .pageNotPresent) = .error c →
    portQuiet s port →
    ((s.ctrl.ready = true → s.aperAsks offset false len = none) →
      ∃ t, exec (.memoryRead port offset len) s = .next t ∧ t.replies = s.replies ++ [⟨port, List.replicate len 0xFF#8⟩] ∧
        t.mem = s.mem ∧ t.groups = s.groups ∧ t.ctrl = (s.hostEvent c.code port offset).ctrl ∧ t.aer = s.aer ++ [port]) ∧
    -- one of a frame whose key slot is not loaded waits for the security processor (R374)
    (∀ k, s.ctrl.ready = true → s.aperAsks offset false len = some k →
      ∃ t, exec (.memoryRead port offset len) s = .next t ∧ k ∈ t.keyAsks ∧ t.replies = s.replies ∧ t.mem = s.mem ∧
        t.inbound = s.inbound ++ [⟨s.nextReq, port, 4, false, false, false, .askRead offset len⟩])) ∧
  (∀ (port offset : Nat) (data : List (BitVec 8)) (relaxed : Bool) (s : State),
    let refused := fun (c : Cause) => { s.hostEvent c.code port offset with aer := s.aer ++ [port] }
    (∀ c, (if s.ctrl.ready then s.aperBytes offset true data.length else .error .pageNotPresent) = .error c →
      ((s.ctrl.ready = true → s.aperAsks offset true data.length = none) → exec (.memoryWrite port offset data relaxed) s = .next (refused c)) ∧
      (∀ k, s.ctrl.ready = true → s.aperAsks offset true data.length = some k → portQuiet s port →
        ∃ t, exec (.memoryWrite port offset data relaxed) s = .next t ∧ k ∈ t.keyAsks ∧ t.replies = s.replies ∧ t.mem = s.mem ∧
          t.inbound = s.inbound ++ [⟨s.nextReq, port, 5, true, relaxed, false, .askWrite offset data⟩])) ∧
    (∀ bs, s.ctrl.ready = true → s.aperBytes offset true data.length = .ok bs → badCode (bs.zip data) = true →
      exec (.memoryWrite port offset data relaxed) s = .next (refused .badByteCode)) ∧
    -- a write is divided into parts of one route each (R439); one part alone is forwarded at once
    (∀ bs, s.ctrl.ready = true → s.aperBytes offset true data.length = .ok bs → badCode (bs.zip data) = false → portQuiet s port →
      let parts := routeParts ((bs.zip data).filter (fun x => x.1.lands))
      (∀ route ws, parts = [(route, ws)] → exec (.memoryWrite port offset data relaxed) s =
        .next { s with inbound := s.inbound ++ [⟨s.nextReq, port, route, true, relaxed, true, .write ws⟩], nextReq := s.nextReq + 1 }) ∧
      ∃ t, exec (.memoryWrite port offset data relaxed) s = .next t ∧ t = { s with inbound := t.inbound, nextReq := t.nextReq } ∧
        t.inbound.take s.inbound.length = s.inbound ∧
        (t.inbound.drop s.inbound.length).map (fun r => (r.port, r.route, r.relaxed, r.op)) = parts.map (fun e => (port, e.1, relaxed, .write e.2)))) ∧
  (∀ (port f n : Nat) (s : State) (r : InReq) (data : List (BitVec 8)), s.inbound.filter (fun x => x.port == port) = [r] → r.forwarded = true →
    r.op = .write ((List.range data.length).map (fun i => (.binary f (n + i), data.getD i 0#8))) → f < frameCount → n + data.length ≤ 59049 →
    let places := (List.range data.length).map (fun i => Loc.binary f (n + i))
    ∃ t, exec (.inboundWriteAck port 0) s = .next t ∧ storesOnly s t places ∧ t.bytesAt places = data ∧
      t.inbound = s.inbound.filter (fun x => x.id != r.id) ∧ t.groups = s.groups ∧ t.replies = s.replies) ∧
  (∀ (port k : Nat) (s : State) (r b : InReq), let fs := s.inbound.filter (fun x => x.port == port && x.forwarded && !x.op.forSem)
    fs[k]? = some r → b ∈ fs.take k → r.relaxed = false → b.relaxed = false → b.route = r.route → exec (.inboundWriteAck port k) s = .next s) ∧
  (∀ (port n : Nat) (s : State), portQuiet s port → port ≠ 1 → n < 16 →
    (mapFind n s.ctrl.sems = none → exec (.semRead port n) s =
      .next { s with nextReq := s.nextReq + 1, replies := s.replies ++ [⟨port, zeroBytes 8⟩], ctrl := { s.ctrl with sems := mapInsert n port s.ctrl.sems } }) ∧
    (∀ h, mapFind n s.ctrl.sems = some h → exec (.semRead port n) s =
      .next { s with nextReq := s.nextReq + 1, replies := s.replies ++ [⟨port, leBytes 8 (1 + h)⟩] }) ∧
    (∀ relaxed, mapFind n s.ctrl.sems = some port → exec (.semWrite port n 0 relaxed) s =
      .next { s with nextReq := s.nextReq + 1, ctrl := { s.ctrl with sems := mapErase n s.ctrl.sems } }) ∧
    (∀ value relaxed, (value ≠ 0 ∨ mapFind n s.ctrl.sems ≠ some port) → exec (.semWrite port n value relaxed) s = .next { s with nextReq := s.nextReq + 1 })) ∧
  -- port 1 is served at the end of the cycle, after port 0 (R406)
  (∀ (n value : Nat) (relaxed : Bool) (s : State), portQuiet s 1 →
    let held := fun (write relaxed : Bool) (op : InOp) => { s with nextReq := s.nextReq + 1, inbound := s.inbound ++ [⟨s.nextReq, 1, 4, write, relaxed, true, op⟩] }
    exec (.semRead 1 n) s = .next (held false false (.semRead n)) ∧
    exec (.semWrite 1 n value relaxed) s = .next (held true relaxed (.semWrite n value)) ∧
    (s.inbound = [] → n < 16 →
      (mapFind n s.ctrl.sems = none → (held false false (.semRead n)).serveSems =
        { s with nextReq := s.nextReq + 1, replies := s.replies ++ [⟨1, zeroBytes 8⟩], ctrl := { s.ctrl with sems := mapInsert n 1 s.ctrl.sems } }) ∧
      (∀ h, mapFind n s.ctrl.sems = some h → (held false false (.semRead n)).serveSems =
        { s with nextReq := s.nextReq + 1, replies := s.replies ++ [⟨1, leBytes 8 (1 + h)⟩] }) ∧
      (mapFind n s.ctrl.sems = some 1 → (held true relaxed (.semWrite n 0)).serveSems =
        { s with nextReq := s.nextReq + 1, ctrl := { s.ctrl with sems := mapErase n s.ctrl.sems } }) ∧
      ((value ≠ 0 ∨ mapFind n s.ctrl.sems ≠ some 1) → (held true relaxed (.semWrite n value)).serveSems = { s with nextReq := s.nextReq + 1 })) ∧
    (∀ r : State, (∀ x ∈ r.inbound, x.op.forSem = false) → r.serveSems = r)) ∧
  (∀ (port offset width value : Nat) (relaxed : Bool) (s : State), portQuiet s port → ¬ (0x40 ≤ offset ∧ offset < 0xC0) →
    exec (.ctrlWrite port offset width value relaxed) s = .next ({ s with nextReq := s.nextReq + 1 }.ctrlWrite port offset width value) ∧
    exec (.ctrlRead port offset width) s =
      .next { s with nextReq := s.nextReq + 1, replies := s.replies ++ [⟨port, (List.range width).map (fun i => s.ctrlByte (offset + i))⟩] }) ∧
  -- the bytes of a semaphore are the semaphore, whatever request names them (R404, R406)
  (∀ (port n value : Nat) (relaxed : Bool) (s : State), portQuiet s port → port ≠ 1 → n < 16 →
    exec (.ctrlWrite port (0x40 + 8 * n) 8 value relaxed) s = exec (.semWrite port n value relaxed) s ∧
    exec (.ctrlRead port (0x40 + 8 * n) 8) s = exec (.semRead port n) s) ∧
  (∀ (s : State) (i : Nat), i < 8 → let c := s.ctrl
    let shows := fun (offset v : Nat) => s.ctrlByte (offset + i) = (leBytes 8 v).getD i 0#8
    shows 0 ((if c.ready then 1 else 0) + (if c.minimal then 2 else 0) + (if c.nostandby then 4 else 0) + (if c.schedstop then 8 else 0)) ∧
    shows 0x8 s.devid ∧ shows 0x10 c.qtable ∧ shows 0x18 c.evbase ∧ shows 0x20 c.evsize ∧ shows 0x28 c.evwr ∧ shows 0x30 c.evrd ∧
    shows 0x100 c.faqwr ∧ shows 0x108 c.faqrd ∧ shows 0x110 c.faqdrop) ∧
  (∀ (s : State) (o : Nat), (0x38 ≤ o ∧ o < 0x40 ∨ 0xC0 ≤ o ∧ o < 0x100 ∨ 0x118 ≤ o ∧ o < 0x200 ∨ 0x700 ≤ o ∧ o < 0x800 ∨ 0xC00 ≤ o ∧ o < 0x1000 ∨
      0x1300 ≤ o ∧ o < 0x1400 ∨ 0x1C00 ≤ o ∧ o < 0x4000 ∨ 0x6D90 ≤ o) → s.ctrlByte o = 0#8) ∧
  (∀ (s : State) (e i : Nat), e < 729 → i < 16 → s.ctrlByte (0x4000 + 16 * e + i) = (mapGet [] s.ctrl.faq e).getD i 0#8) ∧
  (∀ (port v : Nat) (s : State), v < 2 ^ 64 →
    let write := fun (offset : Nat) => s.ctrlWrite port offset 8 v
    let ignored := fun (offset : Nat) => write offset = s.hostEvent Cause.reservedField.code port offset
    (v ≤ 383 → write 0x8 = { s with devid := v }) ∧ (383 < v → ignored 0x8) ∧
    (v ≤ 10099851 → write 0x10 = { s with ctrl := { s.ctrl with qtable := v, qset := true } }) ∧ (10099851 < v → ignored 0x10) ∧
    (v % 4096 = 0 → write 0x18 = { s with ctrl := { s.ctrl with evbase := v, evLost := s.ctrl.evLost || decide (v = 0) } }) ∧ (v % 4096 ≠ 0 → ignored 0x18) ∧
    ((∃ k, 8 ≤ k ∧ k ≤ 16 ∧ v = 2 ^ k) → write 0x20 = { s with ctrl := { s.ctrl with evsize := v } }) ∧
    ((∀ k, 8 ≤ k → k ≤ 16 → v ≠ 2 ^ k) → ignored 0x20) ∧
    (s.ctrl.evrd ≤ v → v ≤ s.ctrl.evwr → write 0x30 = { s with ctrl := { s.ctrl with evrd := v } }) ∧
    (¬ (s.ctrl.evrd ≤ v ∧ v ≤ s.ctrl.evwr) → ignored 0x30) ∧
    (s.ctrl.faqrd ≤ v → v ≤ s.ctrl.faqwr → write 0x108 = { s with ctrl := { s.ctrl with faqrd := v } }) ∧
    (¬ (s.ctrl.faqrd ≤ v ∧ v ≤ s.ctrl.faqwr) → ignored 0x108) ∧ write 0x0 = s ∧ write 0x28 = s)

/-- A peer's request is refused with its cause, answered, queued and performed at its acknowledgement, or waits for a key slot; a port
that goes down frees its semaphores and ends its accesses; alignment sets the time base forward or slows it; a peer's absence
token holds the gang's barriers; the outbound table takes an entry; a load of host memory that fails traps, and so do a WAITGE and
a RECLD. The moment of a peer's atomic, the causes of refusals and what a failing link ends are logs 43, 72 and 73. (R165, R168,
R212, R216, R223, R281, R374, R406, R410 to R413; log 43, 71, 72, 73) -/
def Obligations.PeersAndLinks : Prop :=
  -- what this device asks of itself comes from its own accesses (R165)
  (∀ (domain : Nat) (req : PeerReq) (s : State), exec (.peerRequest s.devid domain req) s = .next s) ∧
  (∀ (dev domain : Nat) (req : PeerReq) (s : State), dev ≠ s.devid →
    -- one of a frame whose key slot is not loaded waits for the security processor (R374)
    (∀ k, s.peerAsks dev domain req = some k → portQuiet s (2 + dev) → ∃ t, exec (.peerRequest dev domain req) s = .next t ∧ k ∈ t.keyAsks ∧
      t.replies = s.replies ∧ t.mem = s.mem ∧
      t.inbound = s.inbound ++ [⟨s.nextReq, 2 + dev, 5, (peerReach req).2.2, false, false, .askPeer dev domain req⟩]) ∧
    (∀ c, s.peerAsks dev domain req = none → s.peerCheck dev domain req = .error c → exec (.peerRequest dev domain req) s =
      .next { ({ s with replies := s.replies ++ [(⟨2 + dev, [BitVec.ofNat 8 Cause.peerDeviceUnreachable.code]⟩ : Reply)] } : State).hostEvent c.code 255 (Config.pick s.free) with free := s.free + 1 }) ∧
    (∀ a n ls ts, req = .load a n → s.peerAsks dev domain req = none → s.peerCheck dev domain req = .ok (false, ls) → portQuiet s (2 + dev) → (∀ l ∈ ls, s.locPoisoned l = false) →
      s.readLocs ls = .ok ts → exec (.peerRequest dev domain req) s =
        .next { s with nextReq := s.nextReq + 1, replies := s.replies ++ [⟨2 + dev, leBytes 1 0 ++ ts.flatMap p5enc⟩] }) ∧
    (∀ l ls, (∀ a n, req ≠ .load a n) → s.peerAsks dev domain req = none → s.peerCheck dev domain req = .ok (true, l :: ls) → portQuiet s (2 + dev) →
      exec (.peerRequest dev domain req) s =
        .next { s with inbound := s.inbound ++ [⟨s.nextReq, 2 + dev, l.route, true, false, true, .peer (l :: ls) req⟩], nextReq := s.nextReq + 1 })) ∧
  (∀ (port : Nat) (s : State) (r : InReq) (locs : List Loc), s.inbound.filter (fun x => x.port == port) = [r] → r.forwarded = true → r.port = port →
    (∀ a data, r.op = .peer locs (.store a data) → placed s locs data.length →
      ∃ t, exec (.inboundWriteAck port 0) s = .next t ∧ t.readLocs locs = .ok data ∧ storesOnly s t locs ∧ t.groups = s.groups ∧
        t.replies = s.replies ++ [⟨port, [0#8]⟩]) ∧
    -- a reduction of a poisoned tile raises nothing (R168)
    (∀ a op b cmp toReg old, r.op = .peer locs (.atomic a op b cmp toReg) → placed s locs (atomTrytes op old b cmp).length → s.readLocs locs = .ok old →
      (toReg = false ∨ ∀ l ∈ locs, s.locPoisoned l = false) →
      ∃ t, exec (.inboundWriteAck port 0) s = .next t ∧ t.readLocs locs = .ok (atomTrytes op old b cmp) ∧ storesOnly s t locs ∧ t.groups = s.groups ∧
        t.replies = s.replies ++ [⟨port, [0#8] ++ old.flatMap p5enc⟩])) ∧
  (∀ (port : Nat) (s : State), port ∈ s.pcieUp → ∃ t, exec (.pcieLinkDown port) s = .next t ∧ t.pcieUp = s.pcieUp.filter (fun p => p != port) ∧
    (∀ n, mapSorted s.ctrl.sems = true → mapFind n t.ctrl.sems = (mapFind n s.ctrl.sems).filter (fun h => h != port)) ∧
    t.inbound = s.inbound.filter (fun x => !(x.port == port && x.op.forSem)) ∧
    t.ctrl.evwr = (s.hostEvent Cause.linkDown.code port port).ctrl.evwr ∧ t.groups = s.groups ∧ t.mem = s.mem) ∧
  (∀ (port : Nat) (s : State), port ∉ s.pcieUp → exec (.pcieLinkDown port) s = .next s) ∧
  (∀ (port : Nat) (s : State),
    (port ∉ s.linksUp → exec (.scaleupLinkDown port) s = .next s) ∧
    (port ∈ s.linksUp → (∀ e ∈ s.groups, ∀ a ∈ e.2.infl, a.done = false → a.laneOn port = none) → (∀ l ∈ s.launches, l.gang = none) →
      exec (.scaleupLinkDown port) s =
        .next ({ s with linksUp := s.linksUp.filter (fun p => p != port) }.hostEvent Cause.linkDown.code 255 (port + 256))) ∧
    (∀ key g a lane, port ∈ s.linksUp → s.groups = [(key, g)] → g.infl = [a] → a.done = false → a.laneOn port = some lane → a.kind = .load →
      (∀ l ∈ s.launches, l.gang = none) →
      exec (.scaleupLinkDown port) s =
        let s1 := { s with free := s.free + 1 }.faultReturn key a (lane, .peerDeviceUnreachable)
        .next ({ s1 with linksUp := s1.linksUp.filter (fun p => p != port) }.hostEvent Cause.linkDown.code 255 (port + 256))) ∧
    (port < 16 → port ∉ s.linksUp → ∃ t, exec (.scaleupLinkUp port) s = .next t ∧ (∀ p, p < 16 → (p ∈ t.linksUp ↔ p = port ∨ p ∈ s.linksUp)) ∧
      t = { s with linksUp := t.linksUp })) ∧
  (∀ (ns : Nat) (s : State),
    (s.timeBase ≤ 10 * ns → exec (.ptmAlign ns) s = .next { s with timeBase := 10 * ns, timeSlow := 0 }) ∧
    (10 * ns < s.timeBase → exec (.ptmAlign ns) s = .next { s with timeSlow := s.timeBase - 10 * ns })) ∧
  -- a peer's absence token holds the barriers of the gang's other members on this device (R216)
  (∀ (gang member : Nat) (absent : Bool) (s : State), ∃ t, exec (.peerAbsence gang member absent) s = .next t ∧ t = { s with launches := t.launches } ∧
    t.launches.length = s.launches.length ∧ ∀ (i : Nat) (l : Launch), s.launches[i]? = some l → ∃ l', t.launches[i]? = some l' ∧ l' = { l with xbarAbsent := l'.xbarAbsent } ∧
      (∀ g, l.gang = some g → l.complete = false → g.gang = gang → g.member ≠ member →
        (member ∈ l'.xbarAbsent ↔ absent = true) ∧ ∀ m, m ≠ member → (m ∈ l'.xbarAbsent ↔ m ∈ l.xbarAbsent)) ∧
      ((l.complete = true ∨ ∀ g, l.gang = some g → g.gang ≠ gang ∨ g.member = member) → l' = l)) ∧
  -- an entry of the outbound table, written for system software (R410)
  (∀ (entry bus port : Nat) (valid : Bool) (s : State),
    (s.outFrames * 59049 < 16 * entry + 16 → exec (.outboundWrite entry bus port valid) s = .next s) ∧
    (16 * entry + 16 ≤ s.outFrames * 59049 → s.outFrame + s.outFrames ≤ frameCount →
      let at_ := fun (i : Nat) => frameAddr (s.outFrame + (16 * entry + i) / 59049) + (16 * entry + i) % 59049
      ∃ t, exec (.outboundWrite entry bus port valid) s = .next t ∧ t = { s with mem := t.mem } ∧
        (∀ i, i < 16 → memByte t.mem (at_ i) = (leBytes 8 bus ++ leBytes 1 port ++ leBytes 1 (if valid then 1 else 0) ++ zeroBytes 6).getD i 0#8) ∧
        ∀ a, (∀ i, i < 16 → a ≠ at_ i) → memByte t.mem a = memByte s.mem a)) ∧
  -- a load of host memory that completes with an error traps HOST_WINDOW_ERROR at the load, which its split still waits for (R410)
  (∀ (core slot k : Nat) (s : State) (g : Group) (a : Access) (la : LaneAcc), s.group? (gkey core slot) = some g → g.key = gkey core slot →
    g.infl.find? (fun a => a.seq == k) = some a → a.kind = .load →
    a.lanes.find? (fun la => la.locs.any (fun l => match l with | .host _ _ => true | _ => false)) = some la →
    (s.mayReturn g a = false → exec (.hostReadFail core slot k) s = .next s) ∧
    (s.mayReturn g a = true → a.hold = true →
      ∃ (s1 : State) (g1 : Group), s1.group? (gkey core slot) = some g1 ∧ g1.v = g.v ∧ g1.s = g.s ∧ g1.infl.all (fun b => b.seq != k || b.done) = true ∧ s1 = { s with groups := s1.groups } ∧
        exec (.hostReadFail core slot k) s = .next (s1.takeTrap (gkey core slot) a.split { cause := .hostWindowError, lane := la.lane, epc := a.pc }))) ∧
  (∀ (core slot k : Nat) (split : Option Nat) (s : State), s.group? (gkey core slot) = none → exec (.hostReadFail core slot k split) s = .next s) ∧
  -- a WAITGE that polls host memory traps; the failure of a RECLD's read is remembered until the split executes one (R212, R281, R410)
  (∀ (core slot k i : Nat) (s : State) (g : Group) (x : Split), s.group? (gkey core slot) = some g → g.key = gkey core slot → g.split? i = some x →
    (∀ locs v d since last, x.wait = .waitge locs v d since last → (∃ p a, .host p a ∈ locs) → g.awake i = true → s.readFree g i locs = true →
      takesToHandler s g .hostWindowError → ∃ t, exec (.hostReadFail core slot k (some i)) s = .next t ∧
        EntersHandler s t (gkey core slot) i { cause := .hostWindowError, epc := pcAdd x.pc (-1) }) ∧
    ((∀ locs v d since last, x.wait ≠ .waitge locs v d since last) → ∃ t, exec (.hostReadFail core slot k (some i)) s = .next t ∧
      (gkey core slot, i) ∈ t.hostFails ∧ t = { s with hostFails := t.hostFails }))

/-- LOADKEY, UNLOADKEY, ATTEST, STARTINFO, POWERCAP and CLEARSTART answer and act as their rules say, and a load that waited for its
key goes on; a start checks its images, clears the device and counts, ends with the stage and reason of its failure, and follows
CLEARSTART and the cooling of a die that was too hot; the thermal steps act at their thresholds; the first wrong trit of a word is
corrected and counted, for the device and for the groups on its core, and a second makes the word uncorrectable. What a start
keeps, the free values of the security processor, and how errors add up are logs 35, 36 and 74 to 77. (R27, R28, R224, R374, R414
to R417, R419 to R424; log 35, 36, 74, 75, 76, 77) -/
def Obligations.Bringup : Prop :=
  let told := fun (s t : State) (status : Nat) (bs : List (BitVec 8)) => t.replies = s.replies ++ [⟨1001, leBytes 4 status ++ bs⟩]
  let refused := fun (s t : State) => ∃ st, 0 < st ∧ st < 2 ^ 32 ∧ told s t st [] ∧ t = { s with replies := t.replies, free := t.free }
  (∀ (slot domain : Nat) (debug : Bool) (pub blob : List (BitVec 8)) (s : State),
    -- what a blob gives: three keys, where it unwraps under the key of its ephemeral public key
    (∀ k, keyOfBlob domain debug pub blob = some k ↔ ∃ w ks, Config.wrapKey pub = some w ∧
      keyUnwrap ((leBytes 32 w.toNat).map BitVec.toNat) (blob.map BitVec.toNat) = some ks ∧ ks.length = 96 ∧
      k = ⟨key256 ks 0, key256 ks 32, key256 ks 64, domain, debug⟩) ∧
    (∀ k, slot ≤ 1023 → domain ≤ 19682 → keyOfBlob domain debug pub blob = some k → ∃ t more, exec (.loadkey slot domain debug pub blob) s = .next t ∧
      t.replies = s.replies ++ [⟨1001, leBytes 4 0⟩] ++ more ∧
      mapFind slot t.keys = some k ∧ (∀ n, n ≠ slot → mapFind n t.keys = mapFind n s.keys) ∧
      slot ∉ t.keyRefused ∧ (s.inbound = [] → more = [] ∧ slot ∉ t.keyAsks ∧ t.mem = s.mem)) ∧
    ((1023 < slot ∨ 19682 < domain ∨ keyOfBlob domain debug pub blob = none) → ∃ t, exec (.loadkey slot domain debug pub blob) s = .next t ∧ refused s t) ∧
    (slot ≤ 1023 → (∀ e ∈ s.frameKey, e.2 ≠ slot + 1) →
      ∃ t, exec (.unloadkey slot) s = .next t ∧ told s t 0 [] ∧ t = { s with keys := mapErase slot s.keys, replies := t.replies }) ∧
    ((1023 < slot ∨ ∃ e ∈ s.frameKey, e.2 = slot + 1) → ∃ t, exec (.unloadkey slot) s = .next t ∧ refused s t) ∧
    (slot ∈ s.keyAsks →
      (∃ t k, exec (.keySlotLoadComplete slot true) s = .next t ∧ mapFind slot t.keys = some k ∧ k.domain ≤ 19682 ∧
        slot ∉ t.keyRefused ∧ (s.inbound = [] → slot ∉ t.keyAsks ∧ t.mem = s.mem)) ∧
      (∃ t, exec (.keySlotLoadComplete slot false) s = .next t ∧ t.keys = s.keys ∧ slot ∈ t.keyRefused ∧ (s.inbound = [] → slot ∉ t.keyAsks ∧ t.mem = s.mem))) ∧
    -- a MEMORY read that waited for the key goes on, or is refused, once the security processor has answered (R374)
    (∀ (offset len : Nat) (bs : List ByteAt) (id port : Nat), slot ∈ s.keyAsks →
      s.inbound = [(⟨id, port, 4, false, false, false, .askRead offset len⟩ : InReq)] → port < 2 →
      let s1 : State := { s with keyAsks := s.keyAsks.filter (fun n => n != slot), keyRefused := if s.keyRefused.contains slot then s.keyRefused else s.keyRefused ++ [slot] }
      (s1.ctrl.ready = true → s1.aperBytes offset false len = .ok bs →
        exec (.keySlotLoadComplete slot false) s = .next { s1 with inbound := [], replies := s.replies ++ [⟨port, bs.map s1.readByteAt⟩] }) ∧
      (∀ c, s1.ctrl.ready = true → s1.aperBytes offset false len = .error c → s1.aperAsks offset false len = none →
        ∃ t, exec (.keySlotLoadComplete slot false) s = .next t ∧ t.inbound = [] ∧ t.replies = s.replies ++ [⟨port, List.replicate len 0xFF#8⟩] ∧
          t.aer = s.aer ++ [port]))) ∧
  (∀ (nonce : List (BitVec 8)) (s : State),
    (nonce.length = 64 → ∃ t r, exec (.attest nonce) s = .next t ∧ told s t 0 (r ++ (List.range 132).map (Config.signature r)) ∧ r.length = 488 ∧
      r.take 4 = [0x45#8, 0x4D#8, 0x41#8, 0x54#8] ∧ byteField r 6 2 = s.devid % 65536 ∧ (r.drop 8).take 64 = nonce ∧ (∀ i, i < 6 → byteField r (456 + 4 * i) 4 = (s.images.getD i ⟨0, false⟩).version % 2 ^ 32) ∧ t = { s with replies := t.replies }) ∧
    (nonce.length ≠ 64 → ∃ t, exec (.attest nonce) s = .next t ∧ refused s t)) ∧
  (∀ s : State, ∃ t bs, exec .startinfo s = .next t ∧ told s t 0 bs ∧ bs.length = 16 ∧ byteField bs 0 1 = s.bringup.reason % 256 ∧
    byteField bs 1 1 = s.bringup.info % 256 ∧ byteField bs 2 1 = min 255 s.bringup.failcount ∧ byteField bs 3 1 = s.bringup.stage % 256 ∧
    byteField bs 4 4 = min (2 ^ 32 - 1) s.bringup.starts ∧ byteField bs 8 8 = s.bringup.readyNs % 2 ^ 64 ∧ t = { s with replies := t.replies }) ∧
  (∀ (w : Nat) (s : State),
    (∃ t, exec (.powercap none) s = .next t ∧ told s t 0 (leBytes 4 s.powerCap) ∧ t.powerCap = s.powerCap) ∧
    (1600 ≤ w → w ≤ 2800 → w % 50 = 0 → ∃ t, exec (.powercap (some w)) s = .next t ∧ told s t 0 (leBytes 4 w) ∧ t.powerCap = w) ∧
    (¬ (1600 ≤ w ∧ w ≤ 2800 ∧ w % 50 = 0) → ∃ t, exec (.powercap (some w)) s = .next t ∧ told s t Cause.reservedField.code [] ∧ t.powerCap = s.powerCap)) ∧
  -- the first image that fails its signature, or whose version lies below the fused rollback counter (R416)
  (∀ (rollback : Nat) (ms : List Image),
    (imageFailure rollback ms = none ↔ ∀ m ∈ ms, m.signed = true ∧ rollback ≤ m.version) ∧
    (∀ f, imageFailure rollback ms = some f → f.stage = 1 ∧ ∃ m, ms[f.info]? = some m ∧
      ((m.signed = false ∧ f.reason = 1) ∨ (m.signed = true ∧ m.version < rollback ∧ f.reason = 2)) ∧
      ∀ j n, j < f.info → ms[j]? = some n → n.signed = true ∧ rollback ≤ n.version)) ∧
  (∀ s : State,
    let fresh := fun (t : State) => t.groups = [] ∧ t.crews = [] ∧ t.launches = [] ∧ t.bufs = [] ∧ t.keys = [] ∧ t.hostMem = s.hostMem ∧ t.badFrames = s.badFrames ∧
      t.images = s.images ∧ t.rollback = s.rollback
    let bad := imageFailure s.rollback s.images
    -- a start that ends at a stage with a reason
    let failed := fun (t : State) (f : StartFailure) => fresh t ∧ t.mem = [] ∧ t.ctrl.ready = false ∧ t.startDue = false ∧
      t.bringup = { s.bringup with starts := s.bringup.starts + 1, failcount := s.bringup.failcount + 1, reason := f.reason, info := f.info, stage := f.stage } ∧
      t.ctrl.minimal = (s.ctrl.minimal || decide (3 ≤ s.bringup.failcount))
    (bad = none → (∀ e ∈ s.hot, e.2 ≠ 3) → ∃ t, exec (.start none) s = .next t ∧ fresh t ∧ t.ctrl.ready = true ∧ t.ctrl.minimal = false ∧
      t.startDue = false ∧ t.bringup.failcount = 0 ∧ t.bringup.stage = 7 ∧
      t.bringup.starts = s.bringup.starts + 1 ∧ t.bringup.reason = s.bringup.reason ∧
      ∀ k i, k < t.outFrames → i < 59049 → memByte t.mem (frameAddr (t.outFrame + k) + i) = 0#8) ∧
    (∀ f, bad = some f → (∀ e ∈ s.hot, e.2 ≠ 3) → ∃ t, exec (.start none) s = .next t ∧ failed t f) ∧
    -- not while a die is held above 125 °C
    ((∃ e ∈ s.hot, e.2 = 3) → ∃ t f, exec (.start none) s = .next t ∧ failed t f ∧ f.reason = 8 ∧ 1 ≤ f.stage ∧ f.stage ≤ 6) ∧
    (∀ f, startFailOk f = true → (f.stage = 1 → f.reason ≠ 8 → bad ≠ none) → ∃ t, exec (.start (some f)) s = .next t ∧
      failed t (if f.stage = 1 ∧ f.reason = 8 then f else bad.getD f)) ∧
    (∀ f, (startFailOk f = false ∨ (f.stage = 1 ∧ f.reason ≠ 8 ∧ bad = none)) → exec (.start (some f)) s = .next s) ∧
    -- with the images that the part has come to hold
    (∀ images, images.length = 6 → exec (.start none images) s = exec (.start none) { s with images := images }) ∧
    (∀ failure images, images.length ≠ 6 → exec (.start failure images) s = exec (.start failure) s) ∧
    (∃ t, exec .clearstart s = .next t ∧ fresh t ∧ t.bringup = { s.bringup with failcount := 0 } ∧ t.ctrl.ready = false ∧ t.ctrl.minimal = s.ctrl.minimal ∧
      t.startDue = true ∧ told s t 0 []) ∧
    -- a start that is due follows, once records have left
    (s.startDue = true → s.agenda = [] → s.day.down = false → s.fifo = [] → s.records = [] → ∃ t, step s = .next t ∧ t.startDue = false ∧
      t.bringup.starts = s.bringup.starts + 1 ∧ fresh t) ∧
    (∃ t, exec .powerFailure s = .next t ∧ fresh t ∧ t.mem = [] ∧ t.bringup = s.bringup ∧ t.ctrl.ready = false ∧ t.ctrl.minimal = s.ctrl.minimal)) ∧
  (∀ (die temp : Nat) (s : State), die ≤ 4 →
    (temp ≤ 1050 → (∀ e ∈ s.hot, e.2 = 0) → mapGet 0 s.hot die = 0 →
      ∃ t, exec (.thermalSample die temp) s = .next t ∧ mapFind die t.temps = some temp ∧ mapGet 0 t.hot die = 0 ∧ t.groups = s.groups ∧ t.ctrl = s.ctrl) ∧
    (1150 < temp → temp ≤ 1250 → (∀ e ∈ s.hot, e.2 ≠ 3) →
      ∃ t, exec (.thermalSample die temp) s = .next t ∧ mapGet 0 t.hot die = 2 ∧ t.groups = s.groups ∧
        (mapGet 0 s.hot die < 2 → t.ctrl = (s.hostEvent Cause.thermalEmergency.code 255 (die + 2 ^ 8 * temp + 2 ^ 24)).ctrl)) ∧
    (1250 < temp → mapGet 0 s.hot die ≠ 3 →
      ∃ t, exec (.thermalSample die temp) s = .next t ∧ mapGet 0 t.hot die = 3 ∧ t.groups = [] ∧ t.crews = [] ∧ t.copyJobs = [] ∧ t.ctrl.ready = false ∧
        ∀ l ∈ s.launches, l.complete = false → ∃ c ∈ t.fifo, c.launch = l.id ∧ c.status = Cause.thermalEmergency.code) ∧
    -- below 90 °C the part makes a start, with reason code 8
    (temp < 900 → (∃ d, mapFind d s.hot = some 3) → mapSorted s.temps = true → (∀ e ∈ s.temps, e.1 ≠ die → e.2 < 900) →
      ∃ t, exec (.thermalSample die temp) s = .next t ∧ t.startDue = true ∧ t.bringup.reason = 8 ∧ ∀ e ∈ t.hot, e.2 ≠ 3)) ∧
  (∀ (core slot reg lane path word : Nat) (s : State) (g : Group), s.group? (gkey core slot) = some g →
    let bare := fun (t : State) => t.groups.map (fun e => (e.1, { e.2 with perf := [] }))
    -- the first wrong trit of a word is corrected and counted; a second makes the word uncorrectable
    -- an error corrected in a core counts for each group that is resident there (R224)
    let counted := fun (t : State) (n : Nat) => t.corrected = (if n = 0 then s.corrected + 1 else s.corrected) ∧ t.mem = s.mem ∧ t.bufs = s.bufs ∧
      ∀ k x, s.group? k = some x → ∃ y, t.group? k = some y ∧
        y.perf = (if n = 0 ∧ x.core = core ∧ x.isSeq = false ∧ x.isWalker = false then bumpAt x.perf 7 1 else x.perf)
    (slot < 256 → reg < 80 → lane < 32 → ∃ t g', exec (.softError (.vreg core slot reg lane)) s = .next t ∧ counted t (mapGet 0 g.bad (32 * reg + lane)) ∧ t.group? (gkey core slot) = some g' ∧
      mapGet 0 g'.bad (32 * reg + lane) = mapGet 0 g.bad (32 * reg + lane) + 1 ∧ g'.v = g.v ∧ g'.s = g.s) ∧
    (slot < 256 → reg < 80 → ∃ t g', exec (.softError (.sreg core slot reg)) s = .next t ∧ counted t (mapGet 0 g.bad (2 ^ 15 + 32 * reg)) ∧ t.group? (gkey core slot) = some g' ∧
      mapGet 0 g'.bad (2 ^ 15 + 32 * reg) = mapGet 0 g.bad (2 ^ 15 + 32 * reg) + 1 ∧ g'.v = g.v ∧ g'.s = g.s) ∧
    (slot < 256 → reg < 8 → ∃ t g', exec (.softError (.preg core slot reg)) s = .next t ∧ counted t (mapGet 0 g.bad (predBadKey reg)) ∧ t.group? (gkey core slot) = some g' ∧
      mapGet 0 g'.bad (predBadKey reg) = mapGet 0 g.bad (predBadKey reg) + 1 ∧ g'.v = g.v ∧ g'.s = g.s ∧ g'.p = g.p) ∧
    (core < 256 → path < 3 → word < 59049 → ∃ t, exec (.softError (.buffer core path word)) s = .next t ∧ counted t (mapGet 0 s.badBufs (bufKey core path word)) ∧ bare t = bare s ∧
      mapGet 0 t.badBufs (bufKey core path word) = mapGet 0 s.badBufs (bufKey core path word) + 1)) ∧
  (∀ (core word frame tile : Nat) (s : State),
    let bare := fun (t : State) => t.groups.map (fun e => (e.1, { e.2 with perf := [] }))
    ((mapFind (core * 2 ^ 40 + word) s.icache).isSome = true → ∃ t, exec (.softError (.icache core word)) s = .next t ∧
      mapGet 0 t.badIc (core * 2 ^ 40 + word) = mapGet 0 s.badIc (core * 2 ^ 40 + word) + 1 ∧ bare t = bare s) ∧
    (frame < frameCount → tile < 243 → word < 81 → mapFind (tileCoord frame tile) s.l2 = some false →
      1 ≤ mapGet 0 s.badL2 (81 * tileCoord frame tile + word) →
      ∃ t, exec (.softError (.l2 frame tile word)) s = .next t ∧ mapFind (tileCoord frame tile) t.l2 = none ∧ t.corrected = s.corrected + 1 ∧ t.mem = s.mem ∧ t.groups = s.groups) ∧
    (frame < frameCount → tile < 243 → word < 81 → (mapFind (tileCoord frame tile) s.l2).isSome = true → mapGet 0 s.badL2 (81 * tileCoord frame tile + word) = 0 →
      ∃ t, exec (.softError (.l2 frame tile word)) s = .next t ∧ t.corrected = s.corrected + 1 ∧ mapGet 0 t.badL2 (81 * tileCoord frame tile + word) = 1 ∧
        t = { s with corrected := t.corrected, badL2 := t.badL2 }) ∧
    -- a copy in an L1 with two wrong trits in a word is dropped, and the data recovered (log 36)
    (∀ x, core < 256 → word < 81 → s.l1.find? (fun x => x.core == core && x.tile == tile) = some x →
      ∃ t, exec (.softError (.l1 core tile word)) s = .next t ∧ t = { s with l1 := t.l1, groups := t.groups, corrected := s.corrected + 1 } ∧ bare t = bare s ∧
        (1 ≤ mapGet 0 x.bad word → ∀ y ∈ t.l1, ¬ (y.core = core ∧ y.tile = tile)) ∧
        (mapGet 0 x.bad word = 0 → t.l1.length = s.l1.length ∧ t.l1.map (fun y => (y.core, y.tile, y.data)) = s.l1.map (fun y => (y.core, y.tile, y.data)))) ∧
    -- a snapshot with two wrong trits in a word is poisoned (log 36)
    (∀ slice entry m, slice < 128 → entry < 243 → mapFind (moorKey slice entry) s.moor = some m → word < m.data.length →
      ∃ t m', exec (.softError (.moor slice entry word)) s = .next t ∧ mapFind (moorKey slice entry) t.moor = some m' ∧ m'.data = m.data ∧ m'.state = m.state ∧
        mapGet 0 m'.bad word = mapGet 0 m.bad word + 1 ∧ m'.poison = (m.poison || decide (1 ≤ mapGet 0 m.bad word)) ∧ t.groups = s.groups ∧ t.mem = s.mem ∧
        t.corrected = (if mapGet 0 m.bad word = 0 then s.corrected + 1 else s.corrected)) ∧
    (frame < frameCount → tile < 243 → (∀ x ∈ s.records, x.src ≠ unitSrc (homeSlice (tileCoord frame tile) / 32)) →
      ∃ t, exec (.softError (.dram frame tile)) s = .next t ∧ t.groups = s.groups ∧ t.corrected = s.corrected ∧
      (mapGet 0 t.dramErrors frame = mapGet 0 s.dramErrors frame + 1 ∨ (if s.binaryFrame frame then tileCoord frame tile ∈ t.binPoison else t.poisoned frame tile = true)) ∧
      ∀ i, i < 438 → memByte t.mem (tileAddr frame tile + i) = memByte s.mem (tileAddr frame tile + i)) ∧
    (s.badDay = 0 → exec (.softError .daymark) s = .next { s with badDay := 1, corrected := s.corrected + 1 }) ∧
    (s.badDay ≠ 0 → ∃ t, exec (.softError .daymark) s = .next t ∧ t.badDay = 0 ∧ (s.ctrl.nostandby = false → s.ctrl.schedstop = false → t.day.down = true)))

/-! ## Numbers, words and encodings -/

/-- A result that fits n trits is kept without a flag in every mode; one that does not is reduced modulo 3^n with the overflow flag,
becomes the nearest end of the range with the overflow flag, or traps INT_OVERFLOW. (R32, R33, R35) -/
def Obligations.OverflowModes : Prop :=
  ∀ (n : Nat) (x : Int),
    let h : Int := ((3 ^ n - 1) / 2 : Nat)
    (-h ≤ x → x ≤ h → ∀ o, narrow o n x = .ok (x, .none)) ∧
    (¬ (-h ≤ x ∧ x ≤ h) →
      (∃ y, narrow (-1) n x = .ok (y, .ovf) ∧ -h ≤ y ∧ y ≤ h ∧ ∃ q : Int, x = y + 3 ^ n * q) ∧
      narrow 0 n x = .ok (if x < 0 then -h else h, .ovf) ∧ narrow 1 n x = .error .intOverflow)

/-- The rounding shift is nearest; a quotient is nearest with ties to the smaller magnitude, and a zero divisor gives the value and
flag or the trap of its rule; rotation, TCNT, TBAL and LEAD agree with the trits; elements of a word are independent, and the
lowest failing one decides the cause. (R32, R46, R115, R118, R123, R126 to R128) -/
def Obligations.IntegerMeaning : Prop :=
  (∀ (x : Int) (k : Nat), let q := truncInt x k
    2 * (x - q * 3 ^ k) < 3 ^ k ∧ -(3 ^ k : Int) < 2 * (x - q * 3 ^ k)) ∧
  (∀ a b : Int, b ≠ 0 → let q := divNear a b
    2 * (a - b * q).natAbs ≤ b.natAbs ∧ q.natAbs ≤ a.natAbs ∧ (2 * (a - b * q).natAbs = b.natAbs → b.natAbs * q.natAbs < a.natAbs) ∧
    (∀ o n, divElem o n a b = .ok (q, .none) ∧ remElem o a b = .ok (a - b * q, .none))) ∧
  (∀ (a : Int) (n : Nat), (∀ o, o ≠ 1 →
      divElem o n a 0 = .ok (if a < 0 then -((half n : Nat) : Int) else if a = 0 then 0 else ((half n : Nat) : Int), .ovf) ∧ remElem o a 0 = .ok (a, .ovf)) ∧
    divElem 1 n a 0 = .error .divideByZero ∧ remElem 1 a 0 = .error .divideByZero) ∧
  (∀ (x k : Int) (n : Nat), 0 < n → fits x n = true → fits (rotEl x n k) n = true ∧
    ∀ i, i < n → Tern.tritOf (rotEl x n k) ((((i : Int) + k) % (n : Int)).toNat) = Tern.tritOf x i) ∧
  (∀ (x : Int) (n : Nat), fits x n = true →
    tcnt x n = (((List.range n).filter (fun i => Tern.tritOf x i ≠ 0)).length : Int) ∧ tbal x n = ((List.range n).map (Tern.tritOf x)).sum ∧
    (x = 0 → lead x n = 0) ∧ (∀ i, i < n → Tern.tritOf x i ≠ 0 → (∀ j, i < j → j < n → Tern.tritOf x j = 0) → lead x n = (i : Int) + 1)) ∧
  (∀ (f : Int → Int → Int) (a b : Word) (i : Nat), i < 27 → (∀ p q, -1 ≤ f p q ∧ f p q ≤ 1) → (tritwise f a b).trit i = f (a.trit i) (b.trit i)) ∧
  (∀ p q : Int, -1 ≤ p → p ≤ 1 → -1 ≤ q → q ≤ 1 → -1 ≤ tadd1 p q ∧ tadd1 p q ≤ 1 ∧ (tadd1 p q - (p + q)) % 3 = 0) ∧
  (∀ (n m : Nat) (f : Nat → ElemRes), (n = 27 ∧ m = 1 ∨ n = 9 ∧ m = 3 ∨ n = 3 ∧ m = 9 ∨ n = 1 ∧ m = 27) →
    (∀ (x : Nat → Int) (fl : Nat → Flags), (∀ j, j < m → f j = .ok (x j, fl j) ∧ fits (x j) n = true) →
      ∃ w, mapWord n m f = .ok (w, orFlags ((List.range m).map fl)) ∧ ∀ j, j < m → el w j n = x j) ∧
    (∀ j c, j < m → (∀ i, i < j → ∃ r, f i = .ok r) → f j = .error c → mapWord n m f = .error c))

/-- A sequence of n trits packs into ⌈n/5⌉ bytes, each 121 plus the balanced value of its five trits, with zero trits after the last;
unpacking gives it back, ignores the padding trits, and refuses a byte above 242. (R53, R54) -/
def Obligations.P5Packing : Prop :=
  ∀ (n : Nat) (t : Tern n),
    let size := (n + 4) / 5
    (p5enc t).length = size ∧
    (∀ k b, (p5enc t)[k]? = some b →
      (b.toNat : Int) = 121 + ((List.range 5).map (fun j => if 5 * k + j < n then t.trit (5 * k + j) * 3 ^ j else 0)).sum) ∧
    p5dec n (p5enc t) = some t ∧
    (∀ bs : List (BitVec 8), (∃ b ∈ bs, 243 ≤ b.toNat) → p5dec n bs = none) ∧
    (∀ bs : List (BitVec 8), bs.length = size → (∀ b ∈ bs, b.toNat ≤ 242) →
      ∃ u, p5dec n bs = some u ∧ ∀ i b, i < n → bs[i / 5]? = some b → u.trit i = ((b.toNat / 3 ^ (i % 5) % 3 : Nat) : Int) - 1)

/-- A group that a launch starts has one split of all 32 lanes at the kernel entry with empty stacks outside any region, registers and
predicates 0, the default role, and FSTAT and SCHECK 0. (R86) -/
def Obligations.StartState : Prop :=
  ∀ (l : Launch) (core slot crew gidx : Nat), let g := startState l core slot crew gidx l.entry
    (∃ x, g.splits = [x] ∧ x.idx = 0 ∧ (∀ i, i < 32 → x.mask.getLsbD i = true) ∧ x.pc = l.entry ∧ x.tokens = [] ∧ x.falls = [] ∧ x.region = none) ∧
    (∀ r i, r < 80 → i < 32 → g.vreg r i = wzero) ∧ (∀ r, r < 80 → g.sreg r = wzero) ∧ (∀ r i, r < 8 → i < 32 → (g.preg r i).val = 0) ∧
    g.role = l.role ∧ g.fstat.word = wzero ∧ g.scheck = false

/-- At reset DRAM is in canonical form with 0x79 in the DATA bytes and 0x00 in the others of every tile slot, packed frames and
buffers read as 0, every field of a queue descriptor is 0, the zero word stands in cleared memory, nothing is resident, and READY
is 0. That READY is 0 because the start has still to come is log 9; what binary frames read is the note of the spec on P5; how
descriptors come to read 0 is log 101. (R28, R69, R168, R169, R334; log 9, 12, 101) -/
def Obligations.ResetState : Prop :=
  memOk State.reset ∧
  (∀ f t i, f < frameCount → t < 243 → i < 448 → memByte State.reset.mem (tileAddr f t + i) = if i < 438 then 0x79#8 else 0x00#8) ∧
  (∀ f p, f < frameCount → p < 59049 → State.reset.readLoc (.packed f p) = .ok (Tern.zero 9)) ∧
  (∀ f p, f < frameCount → p < 59049 → State.reset.readLoc (.binary f p) = .ok (Tern.ofInt 9 (if p % 448 < 438 then 121 else 0))) ∧
  (∀ core path w, State.reset.bufWord core path w = wzero) ∧ (∀ e, decodeWords wzero e = .ztrap wzero) ∧
  (∀ q ofs n, State.reset.queueNat q ofs n = 0) ∧ State.reset.groups = [] ∧ State.reset.launches = [] ∧ State.reset.ctrl.ready = false

/-- Where nothing else is due and a split is picked, it first merges with an equal one, if there is one after its meetings; where
there is none, step is exec of the instruction fetched at its PC, followed only by setting the split aside where it could not
issue or by noting the slot as spent where it trapped; a failing fetch traps at the PC; a split that could not issue before is
looked at first, and only told to go on where its instruction need not wait; a fetch of an uncached short word decodes what memory
holds there; a Lens program's next word and an arranged event run likewise. The order of the cycle is log 1. (R55, R58, R59, R91,
R94, R97 to R99, R384; log 1, 18) -/
def Obligations.StepRunsDecoded : Prop :=
  (∀ (s s1 : State) (key i : Nat) (g : Group) (sp : Split) (ins : Instr), s.agenda = [] → s.startDue = false → (∀ e ∈ s.hot, e.2 ≠ 3) → s.lens = none → s.upkeep = none → s.waking = none →
    s.pickIssue = some (key, i) → s.lowerFirst key i = none → s.group? key = some g → g.split? i = some sp →
    -- after its meetings (R91) the split merges with an equal one first (R94)
    let met := g.modSplit i Split.meet
    (∀ a b, met.mergePair = some (a, b) → step s = exec (.splitImplicitMerge g.core g.slot a b) (s.setGroup key met)) ∧
    (met.mergePair = none → s.breakHit g sp = false →
    (s.fetchInstr g sp = .ok ins s1 →
      (∀ t, exec ins { s1 with cur := (key, i) } = .next t → step s = .next (t.afterIssue { s1 with cur := (key, i) } key i)) ∧
      (∀ f, exec ins { s1 with cur := (key, i) } = .fault f → step s = .fault f) ∧
      (∀ r, exec ins { s1 with cur := (key, i) } = .refused r → step s = .refused r)) ∧
    (∀ c, s.fetchInstr g sp = .fail c → step s = .next ((s.takeTrap key i { cause := c, epc := sp.pc }).spend g.issueSlot key i)) ∧
    (s.fetchInstr g sp = .wait s1 → step s = .next ((s1.block key i).tryLater key i)))) ∧
  -- a split that could not issue before is looked at first: the outcome of its instruction only tells whether it must still wait (R98)
  (∀ (s s1 t : State) (key i : Nat) (g : Group) (sp : Split) (ins : Instr), s.agenda = [] → s.startDue = false → (∀ e ∈ s.hot, e.2 ≠ 3) → s.lens = none → s.upkeep = none →
    s.waking = some (key, i) → s.group? key = some g → g.split? i = some sp → s.breakHit g sp = false → s.fetchInstr g sp = .ok ins s1 →
    exec ins { s1 with cur := (key, i) } = .next t → s.waitOf key i ≠ .none → (t.waitOf key i).holdsBack = false →
    step s = .next (s.modSplit key i (fun x => { x with wait := .none }))) ∧
  (∀ (s : State) (g : Group) (sp : Split) (locs : List Loc) (ps : List Place) (ts : List Tryte),
    laneCheck s (g.agent sp.idx) fetchReq false [sp.pc] = .ok ps → placeLocs [-1, 0, 1] ps = some locs →
    (∀ k, icKey g.fetchUnit locs = some k → mapFind k s.icache = none) →
    (∀ l ∈ locs, s.locPoisoned l = false) → s.readLocs locs = .ok ts → isLong (wordOfTrytes ts) = false →
    ∃ s1, s.fetchInstr g sp = .ok (decodeWords (wordOfTrytes ts) wzero) s1 ∧ s1.groups = s.groups ∧ s1.mem = s.mem) ∧
  (∀ (s : State) (r : LensRun) (w : BitVec 32) (i : Instr), s.agenda = [] → s.startDue = false → (∀ e ∈ s.hot, e.2 ≠ 3) → s.lens = some r → r.prog[r.pc]? = some w →
    decodeLens w = .ok i → step s = exec i s) ∧
  (∀ (s : State) (i : Instr) (rest : List Instr), s.agenda = i :: rest → step s = exec i { s with agenda := rest }) ∧
  (∀ (t s0 : State) (key i : Nat),
    ((t.waitOf key i).holdsBack = true → t.afterIssue s0 key i = { t with tried := (key, i) :: t.tried }) ∧
    ((t.waitOf key i).holdsBack = false → t.issued.length ≠ s0.issued.length → t.afterIssue s0 key i = t) ∧
    (∀ g, (t.waitOf key i).holdsBack = false → t.issued.length = s0.issued.length → s0.group? key = some g →
      t.afterIssue s0 key i = { t with spent := (g.issueSlot, key, i) :: t.spent }))

/-- Ten words of the Torade set, in the trits of the spec's encodings, and four Lens words decode to the instruction they stand for.
(R56 to R58, R67, R68, R384) -/
def Obligations.DecodedWords : Prop :=
  let head := fun (stall pred : Nat) (psense : Int) => (⟨Tern.ofIndex 2 stall, Tern.ofIndex 2 pred, Tern.ofInt 1 psense⟩ : Head)
  let reg := fun (n : Nat) => Tern.ofIndex 4 n
  let go := fun (i : Instr) (ws : List (List Int)) => (decodeBytes (codeBytes (ws.map wordOf))).toOption = some i
  go (.add ⟨head 2 2 (-1), reg 3, reg 4, reg 5, Tern.ofInt 3 (-13), Tern.ofInt 1 0⟩) [[-1, 0, -1, -1, -1, -1, -1, 1, -1, 1, -1, -1, -1, 0, -1, -1, -1, 0, 0, -1, -1, 0, 1, -1, -1, -1, 0]] ∧
  go (.br ⟨head 0 1 1, Tern.ofInt 16 (-5)⟩) [[-1, -1, -1, -1, -1, 1, -1, -1, -1, 0, 1, 0, 0, 0, 0, 0, 0, 0, 0, 0, 0, 0, 0, 0, -1, 1, 1]] ∧
  go (.ld27 ⟨head 0 8 0, reg 6, reg 8, Tern.ofIndex 2 2, Tern.ofInt 6 12⟩) [[0, 1, -1, -1, -1, 0, -1, -1, 1, 1, 0, -1, -1, 1, -1, -1, -1, 1, 1, -1, 1, 0, 0, 0, 1, 1, 0]] ∧
  go (.fenceRel ⟨head 0 8 0, reg 40, reg 40, Tern.ofInt 8 (-19)⟩) [[0, 0, -1, -1, 0, 0, -1, -1, 1, 1, 0, 0, 0, 0, 0, 0, 0, 0, 0, 0, 0, 0, 0, -1, 1, 0, -1]] ∧
  go (.stopLaunch ⟨head 0 8 0, reg 40, reg 40, Tern.ofInt 8 64⟩) [[0, 0, -1, 1, -1, 0, -1, -1, 1, 1, 0, 0, 0, 0, 0, 0, 0, 0, 0, 0, 0, 0, 1, -1, 1, 0, 1]] ∧
  go (.lds27 ⟨head 0 8 0, reg 1, reg 12, Tern.ofIndex 2 8, Tern.ofInt 6 0⟩) [[0, 1, -1, -1, 1, 0, -1, -1, 1, 1, 0, -1, -1, -1, 0, -1, 0, 0, -1, 1, 1, 0, 0, 0, 0, 0, 0]] ∧
  go (.tkld ⟨⟨head 0 8 0, reg 4, reg 10, reg 40, Tern.ofInt 3 0, Tern.ofInt 1 0⟩, Tern.ofInt 27 (4 * 3 ^ 25)⟩) [[1, -1, -1, -1, -1, -1, -1, -1, 1, 1, 0, -1, -1, 0, 0, -1, 0, -1, 0, 0, 0, 0, 0, 0, 0, 0, 0], [1, 1, 0, 0, 0, 0, 0, 0, 0, 0, 0, 0, 0, 0, 0, 0, 0, 0, 0, 0, 0, 0, 0, 0, 0, 0, 0]] ∧
  go (.redeem ⟨head 0 8 0, reg 20, reg 4, reg 40, Tern.ofInt 3 0, Tern.ofInt 1 0⟩) [[1, -1, -1, -1, -1, 0, -1, -1, 1, 1, 0, -1, 1, -1, 1, -1, -1, 0, 0, 0, 0, 0, 0, 0, 0, 0, 0]] ∧
  go (.binit ⟨head 0 8 0, reg 3, reg 12, Tern.ofIndex 2 8, Tern.ofInt 6 0⟩) [[1, -1, -1, -1, 1, -1, -1, -1, 1, 1, 0, -1, -1, 0, -1, -1, 0, 0, -1, 1, 1, 0, 0, 0, 0, 0, 0]] ∧
  go (.sreply ⟨head 0 8 0, reg 40, reg 7, reg 40, Tern.ofInt 3 0, Tern.ofInt 1 0⟩) [[1, 1, -1, -1, -1, 0, -1, -1, 1, 1, 0, 0, 0, 0, 0, -1, -1, 1, 0, 0, 0, 0, 0, 0, 0, 0, 0]] ∧
  (decodeLens 0x01000000#32).toOption = some (.lensLdr 1 0 false 0) ∧ (decodeLens 0x70280003#32).toOption = some (.lensBne 1 2 3#18) ∧
  (decodeLens 0x03003009#32).toOption = some (.lensLdr 3 48 true 1) ∧ (decodeLens 0x88000000#32).toOption = some .lensKeep

/-- Every word, or pair of words, decodes to a well-formed instruction that encodes to it; every well-formed instruction encodes to
words that decode to it, with every operand at every value its field admits; the same for the Lens set. (R56 to R60, R67 to R70,
R384, R385) -/
def Obligations.EncodeDecode : Prop :=
  (∀ w e : Word, encode (decodeWords w e) = (if isLong w then [w, e] else [w]) ∧ (decodeWords w e).wellFormed = true) ∧
  (∀ i : Instr, i.wellFormed = true →
    (∀ w, encode i = [w] → isLong w = false ∧ ∀ e, decodeWords w e = i) ∧
    (∀ w e, encode i = [w, e] → isLong w = true ∧ decodeWords w e = i) ∧
    (encode i ≠ [] → decodeBytes (codeBytes (encode i)) = .ok i) ∧
    (∀ w, encodeLens i = some w → decodeLens w = .ok i)) ∧
  (∀ (w : BitVec 32) (i : Instr), decodeLens w = .ok i → encodeLens i = some w)

/-! ## The machine as a whole -/

/-- From every state whose DRAM is sorted by address, without repeats, and without an entry that equals what an unlisted address reads
as, a step that answers a next state leaves DRAM so. The canonical form is the model's. (R25, R28, R167, R168; log 12) -/
def Obligations.StepKeepsMemory : Prop := ∀ s t : State, memOk s → step s = .next t → memOk t

/-- The first failing check of unit, privilege, reserved fields, registers and pairs decides the cause of the trap; index 80 reads 0
and discards writes; any other register takes the written word and no other register changes. That a misaligned index counts alone
against the allocation is log 85. (R61 to R63, R70; log 85) -/
def Obligations.DecodeChecks : Prop :=
  (∀ (s : State) (h : Head) (u : Use) (len : Nat) (body : Fr → State → Except Halt State) (fr : Fr), s.frame? h = some fr →
    let traps := fun (c : Cause) => runOp s h u len body = .next (fr.s.takeTrap fr.key fr.sp.idx { cause := c, epc := fr.sp.pc })
    let unit_ := u.vector = true ∧ fr.g.isSeq = true ∨ u.matrix = true ∧ fr.g.isSeq = false
    let priv := u.priv = true ∧ fr.g.priv = false
    let reg := ∃ o ∈ u.opds, o.bad fr.g = true
    let pair := ∃ o ∈ u.opds, o.badPair = true
    (unit_ → traps .wrongUnit) ∧ (¬ unit_ → priv → traps .privileged) ∧ (¬ unit_ → ¬ priv → u.resv = true → traps .reservedField) ∧
    (¬ unit_ → ¬ priv → u.resv = false → reg → traps .badRegister) ∧ (¬ unit_ → ¬ priv → u.resv = false → ¬ reg → pair → traps .badPair)) ∧
  (∀ (fr : Fr) (field r lane n : Nat), 80 ≤ r → fr.readV field r lane n = wzero ∧ fr.readS field r n = wzero ∧ fr.readS2 field r = azero ∧ fr.readV2 field r lane = azero) ∧
  (∀ (g : Group) (i r : Nat) (vals : List (Nat × Word)) (w : Word), 80 ≤ r → g.write i (.v r vals) = g ∧ g.write i (.s r w) = g) ∧
  (∀ (g : Group) (i r r' : Nat) (l : Nat) (w : Word) (vals : List (Nat × Word)), r < 80 → l < 32 → r' < 80 → (∀ e ∈ vals, e.1 < 32) →
    (g.write i (.v r vals)).vreg r' l = (if r' = r then vals.foldl (fun x e => if e.1 = l then e.2 else x) (g.vreg r l) else g.vreg r' l) ∧
    (g.write i (.s r w)).sreg r' = (if r' = r then w else g.sreg r'))

/-- A pick is a ready candidate of the first slot that has one: promoted splits first and among them the one that has waited longest,
then by role, then the oldest group and the oldest split; there is no pick only where there is no candidate. (R98 to R100) -/
def Obligations.IssueOrder : Prop :=
  (∀ s : State, s.pickIssue = none ↔ s.cands = []) ∧
  (∀ (s : State) (key i : Nat), s.pickIssue = some (key, i) →
    ∃ c ∈ s.cands, c.key = key ∧ c.idx = i ∧ (∀ d ∈ s.cands, c.slot ≤ d.slot) ∧
      ((∀ d ∈ s.cands, d.slot = c.slot → d.seq = c.seq) → ∀ d ∈ s.cands, d.slot = c.slot →
        (d.promoted = true → c.promoted = true) ∧ (c.promoted = true → d.promoted = true → d.wait ≤ c.wait) ∧
        (c.promoted = false → c.seq = false → d.role ≤ c.role) ∧
        (c.promoted = d.promoted → (c.promoted = true → c.wait = d.wait) → (c.promoted = false → c.seq = false → c.role = d.role) →
          c.start < d.start ∨ c.start = d.start ∧ c.age ≤ d.age)))
end

