-- ==== Sys2Proof/Laws/Maps.lean ====
section
/-! SUPPORT. The laws of sparse maps: what a key reads after a write, and that every operation keeps the keys rising. The laws of
reading hold of any list of pairs, sorted or not. -/

namespace Sys2Proof.Machine

variable {α : Type}

@[simp] theorem mapFind_nil (k : Nat) : mapFind k ([] : FMap α) = none := rfl

@[simp] theorem mapFind_mapInsert_same (k : Nat) (v : α) (m : FMap α) : mapFind k (mapInsert k v m) = some v := by
  induction m with
  | nil => simp [mapInsert, mapFind]
  | cons e t ih =>
    obtain ⟨j, u⟩ := e
    simp only [mapInsert]
    split
    · simp [mapFind]
    · split
      · simp [mapFind]
      · next h => simp only [mapFind]; rw [if_neg (fun h' => h h'.symm), ih]

theorem mapFind_mapInsert_ne {k j : Nat} (h : j ≠ k) (v : α) (m : FMap α) : mapFind j (mapInsert k v m) = mapFind j m := by
  induction m with
  | nil => simp [mapInsert, mapFind, Ne.symm h]
  | cons e t ih =>
    obtain ⟨i, u⟩ := e
    simp only [mapInsert]
    split
    · simp [mapFind, Ne.symm h]
    · split
      · next h1 => subst h1; simp [mapFind, Ne.symm h]
      · simp only [mapFind, ih]

theorem mapFind_mapInsert (k j : Nat) (v : α) (m : FMap α) :
    mapFind j (mapInsert k v m) = if j = k then some v else mapFind j m := by
  split
  · next h => subst h; simp
  · next h => exact mapFind_mapInsert_ne h v m

@[simp] theorem mapFind_mapErase_same (k : Nat) (m : FMap α) : mapFind k (mapErase k m) = none := by
  induction m with
  | nil => rfl
  | cons e t ih =>
    obtain ⟨j, u⟩ := e
    simp only [mapErase]
    split
    · exact ih
    · next h => simp [mapFind, h, ih]

theorem mapFind_mapErase_ne {k j : Nat} (h : j ≠ k) (m : FMap α) : mapFind j (mapErase k m) = mapFind j m := by
  induction m with
  | nil => rfl
  | cons e t ih =>
    obtain ⟨i, u⟩ := e
    simp only [mapErase]
    split
    · next h1 => subst h1; simp [mapFind, Ne.symm h, ih]
    · simp only [mapFind, ih]

@[simp] theorem mapGet_mapSet_same [DecidableEq α] (d : α) (m : FMap α) (k : Nat) (v : α) : mapGet d (mapSet d m k v) k = v := by
  unfold mapGet mapSet
  split
  · next h => simp [h]
  · simp

theorem mapGet_mapSet_ne [DecidableEq α] {k j : Nat} (h : j ≠ k) (d d' : α) (m : FMap α) (v : α) :
    mapGet d' (mapSet d m k v) j = mapGet d' m j := by
  unfold mapGet mapSet
  split
  · rw [mapFind_mapErase_ne h]
  · rw [mapFind_mapInsert_ne h]

theorem mapGet_mapSet [DecidableEq α] (d : α) (m : FMap α) (k j : Nat) (v : α) :
    mapGet d (mapSet d m k v) j = if j = k then v else mapGet d m j := by
  split
  · next h => subst h; simp
  · next h => exact mapGet_mapSet_ne h d d m v

/-! ## The keys stay in rising order -/

/-- A bound below the keys of a map. -/
theorem mapAbove_mono {lo lo' : Nat} (h : lo' ≤ lo) (m : FMap α) (hm : mapAbove (some lo) m = true) : mapAbove (some lo') m = true := by
  cases m with
  | nil => rfl
  | cons e t =>
    simp only [mapAbove, Bool.and_eq_true, decide_eq_true_eq] at hm ⊢
    exact ⟨by omega, hm.2⟩

theorem mapAbove_sorted {lo : Nat} {m : FMap α} (h : mapAbove (some lo) m = true) : mapSorted m = true := by
  cases m with
  | nil => rfl
  | cons e t =>
    simp only [mapSorted, mapAbove, Bool.and_eq_true, decide_eq_true_eq] at h ⊢
    exact ⟨trivial, h.2⟩

theorem mapAbove_mapInsert {lo k : Nat} (v : α) (m : FMap α) (hk : lo < k) (h : mapAbove (some lo) m = true) :
    mapAbove (some lo) (mapInsert k v m) = true := by
  induction m generalizing lo with
  | nil => simp [mapInsert, mapAbove, hk]
  | cons e t ih =>
    obtain ⟨j, u⟩ := e
    simp only [mapAbove, Bool.and_eq_true, decide_eq_true_eq] at h
    simp only [mapInsert]
    split
    · next h1 => simp [mapAbove, hk, h1, h.2]
    · split
      · next h1 => subst h1; simp [mapAbove, hk, h.2]
      · simp only [mapAbove, Bool.and_eq_true, decide_eq_true_eq]
        exact ⟨h.1, ih (by omega) h.2⟩

theorem mapSorted_mapInsert (k : Nat) (v : α) (m : FMap α) (h : mapSorted m = true) : mapSorted (mapInsert k v m) = true := by
  cases m with
  | nil => rfl
  | cons e t =>
    obtain ⟨j, u⟩ := e
    simp only [mapSorted, mapAbove, Bool.true_and] at h
    simp only [mapInsert]
    split
    · next h1 => simp [mapSorted, mapAbove, h1, h]
    · split
      · next h1 => subst h1; simp [mapSorted, mapAbove, h]
      · simp only [mapSorted, mapAbove, Bool.true_and]
        exact mapAbove_mapInsert v t (by omega) h

theorem mapAbove_mapErase {lo : Nat} (k : Nat) (m : FMap α) (h : mapAbove (some lo) m = true) :
    mapAbove (some lo) (mapErase k m) = true := by
  induction m generalizing lo with
  | nil => rfl
  | cons e t ih =>
    obtain ⟨j, u⟩ := e
    simp only [mapAbove, Bool.and_eq_true, decide_eq_true_eq] at h
    simp only [mapErase]
    split
    · exact ih (mapAbove_mono (by omega) t h.2)
    · simp only [mapAbove, Bool.and_eq_true, decide_eq_true_eq]
      exact ⟨h.1, ih h.2⟩

theorem mapSorted_mapErase (k : Nat) (m : FMap α) (h : mapSorted m = true) : mapSorted (mapErase k m) = true := by
  cases m with
  | nil => rfl
  | cons e t =>
    obtain ⟨j, u⟩ := e
    simp only [mapSorted, mapAbove, Bool.true_and] at h
    simp only [mapErase]
    split
    · exact mapAbove_sorted (mapAbove_mapErase k t h)
    · simp only [mapSorted, mapAbove, Bool.true_and]
      exact mapAbove_mapErase k t h

theorem mapAbove_filter {lo : Nat} (p : Nat × α → Bool) (m : FMap α) (h : mapAbove (some lo) m = true) :
    mapAbove (some lo) (m.filter p) = true := by
  induction m generalizing lo with
  | nil => rfl
  | cons e t ih =>
    simp only [mapAbove, Bool.and_eq_true, decide_eq_true_eq] at h
    by_cases hp : p e
    · rw [List.filter_cons_of_pos hp]
      simp only [mapAbove, Bool.and_eq_true, decide_eq_true_eq]
      exact ⟨h.1, ih h.2⟩
    · rw [List.filter_cons_of_neg hp]
      exact ih (mapAbove_mono (by omega) t h.2)

theorem mapSorted_filter (p : Nat × α → Bool) (m : FMap α) (h : mapSorted m = true) : mapSorted (m.filter p) = true := by
  cases m with
  | nil => rfl
  | cons e t =>
    simp only [mapSorted, mapAbove, Bool.true_and] at h
    by_cases hp : p e
    · rw [List.filter_cons_of_pos hp]
      simp only [mapSorted, mapAbove, Bool.true_and]
      exact mapAbove_filter p t h
    · rw [List.filter_cons_of_neg hp]
      exact mapAbove_sorted (mapAbove_filter p t h)

/-- Every pair of a map after a write is the pair written or was there before. -/
theorem mem_mapInsert {k : Nat} {v : α} {m : FMap α} {e : Nat × α} (h : e ∈ mapInsert k v m) : e = (k, v) ∨ e ∈ m := by
  induction m with
  | nil => simpa [mapInsert] using h
  | cons d t ih =>
    obtain ⟨j, u⟩ := d
    simp only [mapInsert] at h
    split at h
    · simpa using h
    · split at h
      · rcases List.mem_cons.1 h with h | h
        · exact .inl h
        · exact .inr (List.mem_cons_of_mem _ h)
      · rcases List.mem_cons.1 h with h | h
        · exact .inr (by simp [h])
        · exact (ih h).imp_right (List.mem_cons_of_mem _)

/-- Every pair of a map after a removal was there before. -/
theorem mem_of_mem_mapErase {k : Nat} {m : FMap α} {e : Nat × α} (h : e ∈ mapErase k m) : e ∈ m := by
  induction m with
  | nil => exact h
  | cons d t ih =>
    obtain ⟨j, u⟩ := d
    simp only [mapErase] at h
    split at h
    · exact List.mem_cons_of_mem _ (ih h)
    · rcases List.mem_cons.1 h with h | h
      · simp [h]
      · exact List.mem_cons_of_mem _ (ih h)

/-! ## List helpers -/

@[simp] theorem dropAt_nil (n : Nat) : dropAt ([] : List α) n = [] := by cases n <;> rfl

theorem length_setAt (l : List α) (n : Nat) (v : α) : (setAt l n v).length = l.length := by
  induction l generalizing n with
  | nil => cases n <;> rfl
  | cons x t ih => cases n <;> simp [setAt, ih]

theorem length_updFirst (p : α → Bool) (f : α → α) (l : List α) : (updFirst p f l).length = l.length := by
  induction l with
  | nil => rfl
  | cons x t ih => simp only [updFirst]; split <;> simp [ih]

/-- What a search finds after the first hit of the same test was changed. -/
theorem find?_updFirst (p : α → Bool) (f : α → α) (l : List α) (hf : ∀ x, p x = true → p (f x) = true) :
    (updFirst p f l).find? p = (l.find? p).map f := by
  induction l with
  | nil => rfl
  | cons x t ih =>
    simp only [updFirst]
    split
    · next h => simp [h, hf x h]
    · next h => simp [h, ih]

end Sys2Proof.Machine
end

