-- ==== Sys2Proof/Laws/Memory.lean ====
section
/-! SUPPORT. The laws of DRAM and of trytes by place: every operation over memory keeps its canonical form, a byte reads as it was last
written, and a write leaves every other byte. -/

namespace Sys2Proof.Machine

/-! ## One byte -/

@[simp] theorem memByte_memPut_same (m : List Host.Cell) (a : Nat) (b : BitVec 8) : memByte (memPut m a b) a = b := by
  simp [memByte, memPut]

theorem memByte_memPut_ne {a c : Nat} (h : c ≠ a) (m : List Host.Cell) (b : BitVec 8) : memByte (memPut m a b) c = memByte m c := by
  unfold memByte memPut
  rw [mapGet_mapSet_ne h]

theorem memByte_memPut (m : List Host.Cell) (a c : Nat) (b : BitVec 8) :
    memByte (memPut m a b) c = if c = a then b else memByte m c := by
  split
  · next h => subst h; simp
  · next h => exact memByte_memPut_ne h m b

@[simp] theorem memByte_nil (a : Nat) : memByte [] a = memDefault a := rfl

/-! ## The canonical form -/

theorem wf_nil : Memory.wf [] = true := rfl

/-- The two halves of the canonical form. -/
theorem wf_iff (m : List Host.Cell) : Memory.wf m = true ↔ mapSorted m = true ∧ ∀ c ∈ m, c.2 ≠ memDefault c.1 := by
  simp [Memory.wf]

theorem wf_memPut {m : List Host.Cell} (h : Memory.wf m = true) (a : Nat) (b : BitVec 8) : Memory.wf (memPut m a b) = true := by
  rw [wf_iff] at h ⊢
  unfold memPut mapSet
  split
  · exact ⟨mapSorted_mapErase a m h.1, fun c hc => h.2 c (mem_of_mem_mapErase hc)⟩
  · next hb =>
    refine ⟨mapSorted_mapInsert a b m h.1, fun c hc => ?_⟩
    rcases mem_mapInsert hc with rfl | hc
    · exact hb
    · exact h.2 c hc

theorem wf_memPuts {m : List Host.Cell} (h : Memory.wf m = true) (a : Nat) (bs : List (BitVec 8)) : Memory.wf (memPuts m a bs) = true := by
  induction bs generalizing m a with
  | nil => exact h
  | cons b t ih => exact ih (wf_memPut h a b) (a + 1)

theorem wf_packedPut {m : List Host.Cell} (h : Memory.wf m = true) (f pos : Nat) (v : Tryte) : Memory.wf (packedPut m f pos v) = true :=
  wf_memPuts h _ _

/-- A run of byte writes keeps the form, whatever the addresses and bytes. -/
theorem wf_foldl_memPut {α : Type} (xs : List α) (a : α → Nat) (b : α → BitVec 8) {m : List Host.Cell} (h : Memory.wf m = true) :
    Memory.wf (xs.foldl (fun m x => memPut m (a x) (b x)) m) = true := by
  induction xs generalizing m with
  | nil => exact h
  | cons x t ih => exact ih (wf_memPut h (a x) (b x))

/-- Clearing addresses by dropping their entries keeps the form. -/
theorem wf_filter {m : List Host.Cell} (h : Memory.wf m = true) (p : Host.Cell → Bool) : Memory.wf (m.filter p) = true := by
  rw [wf_iff] at h ⊢
  exact ⟨mapSorted_filter p m h.1, fun c hc => h.2 c (List.mem_filter.1 hc).1⟩

/-! ## The operations of the state over DRAM -/

theorem wf_setIntegrity {s : State} (h : Memory.wf s.mem = true) (f t : Nat) : Memory.wf (s.setIntegrity f t).mem = true := by
  simp only [State.setIntegrity]
  exact wf_memPuts h _ _

theorem wf_retag {s : State} (h : Memory.wf s.mem = true) (f t : Nat) : Memory.wf (s.retag f t).mem = true := by
  unfold State.retag
  split
  · exact h
  · exact wf_setIntegrity h f t

theorem wf_setPoison {s : State} (h : Memory.wf s.mem = true) (f t : Nat) (on : Bool) : Memory.wf (s.setPoison f t on).mem = true :=
  wf_retag (wf_memPut h _ _) f t

@[simp] theorem setBinPoison_mem (s : State) (f t : Nat) (on : Bool) : (s.setBinPoison f t on).mem = s.mem := rfl

theorem wf_spoilTile {s : State} (h : Memory.wf s.mem = true) (f t : Nat) : Memory.wf (s.spoilTile f t).mem = true := by
  unfold State.spoilTile
  split
  · exact h
  · exact wf_setPoison h f t true

theorem wf_reseal {s : State} (h : Memory.wf s.mem = true) (f t : Nat) (packed : Bool) : Memory.wf (s.reseal f t packed).mem = true := by
  unfold State.reseal
  split
  · exact h
  · dsimp only
    split
    · exact h
    · split
      · exact wf_setIntegrity (by exact h) f t
      · exact wf_setPoison (wf_setIntegrity (by exact h) f t) f t true

/-- A write of one place keeps the form of DRAM, wherever the place is. -/
theorem wf_writeLoc {s : State} (h : Memory.wf s.mem = true) (l : Loc) (v : Tryte) : Memory.wf (s.writeLoc l v).mem = true := by
  cases l with
  | packed f pos => exact wf_retag (wf_packedPut (wf_reseal h f (pos / 243) true) f pos v) f (pos / 243)
  | binary f pos => exact wf_memPut (wf_reseal h f (pos / 243) false) _ _
  | buf _ _ _ => exact h
  | host _ _ => exact h
  | peer _ _ => exact h

theorem wf_writeEach {s : State} (h : Memory.wf s.mem = true) (ls : List Loc) (vs : List Tryte) :
    Memory.wf (s.writeEach ls vs).mem = true := by
  induction ls generalizing s vs with
  | nil => exact h
  | cons l t ih =>
    cases vs with
    | nil => exact h
    | cons v vs => exact ih (wf_writeLoc h l v) vs

@[simp] theorem mendBufs_mem (s : State) (ls : List Loc) : (s.mendBufs ls).mem = s.mem := by
  unfold State.mendBufs; split <;> rfl

theorem wf_writeLocs {s : State} (h : Memory.wf s.mem = true) (ls : List Loc) (vs : List Tryte) :
    Memory.wf (s.writeLocs ls vs).mem = true :=
  wf_writeEach (by simpa using h) ls vs

@[simp] theorem setBufWord_mem (s : State) (core path word : Nat) (v : Word) : (s.setBufWord core path word v).mem = s.mem := rfl

/-- Clearing a frame keeps the form. -/
theorem wf_clearFrame {s : State} (h : Memory.wf s.mem = true) (f : Nat) : Memory.wf (s.clearFrame f).mem = true :=
  wf_filter h _

/-- Reset has it. -/
theorem wf_reset : Memory.wf State.reset.mem = true := rfl

/-! ## Buffers -/

@[simp] theorem bufWord_setBufWord_same (s : State) (core path word : Nat) (v : Word) :
    (s.setBufWord core path word v).bufWord core path word = v := by
  simp [State.setBufWord, State.bufWord]

theorem bufWord_setBufWord_ne {core path word core' path' word' : Nat} (h : bufKey core' path' word' ≠ bufKey core path word) (s : State)
    (v : Word) : (s.setBufWord core path word v).bufWord core' path' word' = s.bufWord core' path' word' := by
  simp only [State.setBufWord, State.bufWord]
  rw [mapGet_mapSet_ne h]

/-! ## Groups by key -/

@[simp] theorem group?_setGroup_same (s : State) (k : Nat) (g : Group) : (s.setGroup k g).group? k = some g := by
  simp [State.group?, State.setGroup]

theorem group?_setGroup_ne {k j : Nat} (h : j ≠ k) (s : State) (g : Group) : (s.setGroup k g).group? j = s.group? j := by
  simp only [State.group?, State.setGroup]
  exact mapFind_mapInsert_ne h g s.groups

theorem group?_modGroup_same (s : State) (k : Nat) (f : Group → Group) : (s.modGroup k f).group? k = (s.group? k).map f := by
  unfold State.modGroup
  cases h : s.group? k <;> simp [h]

theorem group?_modGroup_ne {k j : Nat} (h : j ≠ k) (s : State) (f : Group → Group) : (s.modGroup k f).group? j = s.group? j := by
  unfold State.modGroup
  cases s.group? k with
  | none => rfl
  | some g => exact group?_setGroup_ne h s (f g)

theorem launch?_modLaunch (s : State) (id : Nat) (f : Launch → Launch) (hf : ∀ l, l.id = id → (f l).id = id) :
    (s.modLaunch id f).launch? id = (s.launch? id).map f := by
  simp only [State.modLaunch, State.launch?]
  exact find?_updFirst _ f s.launches (fun l h => by simpa using hf l (by simpa using h))

end Sys2Proof.Machine
end

