-- ==== Sys2Proof/Laws/State.lean ====
section
/-! SUPPORT. What the updates of a group, a launch and a crew leave of the other fields of State, and what the updates of a split leave
of its group. -/

namespace Sys2Proof.Machine

@[simp] theorem setGroup_now (s : State) (k : Nat) (g : Group) : (s.setGroup k g).now = s.now := rfl
@[simp] theorem setGroup_timeBase (s : State) (k : Nat) (g : Group) : (s.setGroup k g).timeBase = s.timeBase := rfl
@[simp] theorem setGroup_timeSlow (s : State) (k : Nat) (g : Group) : (s.setGroup k g).timeSlow = s.timeSlow := rfl
@[simp] theorem setGroup_cur (s : State) (k : Nat) (g : Group) : (s.setGroup k g).cur = s.cur := rfl
@[simp] theorem setGroup_issued (s : State) (k : Nat) (g : Group) : (s.setGroup k g).issued = s.issued := rfl
@[simp] theorem setGroup_carry (s : State) (k : Nat) (g : Group) : (s.setGroup k g).carry = s.carry := rfl
@[simp] theorem setGroup_units (s : State) (k : Nat) (g : Group) : (s.setGroup k g).units = s.units := rfl
@[simp] theorem setGroup_tried (s : State) (k : Nat) (g : Group) : (s.setGroup k g).tried = s.tried := rfl
@[simp] theorem setGroup_spent (s : State) (k : Nat) (g : Group) : (s.setGroup k g).spent = s.spent := rfl
@[simp] theorem setGroup_fresh (s : State) (k : Nat) (g : Group) : (s.setGroup k g).fresh = s.fresh := rfl
@[simp] theorem setGroup_startSeq (s : State) (k : Nat) (g : Group) : (s.setGroup k g).startSeq = s.startSeq := rfl
@[simp] theorem setGroup_mem (s : State) (k : Nat) (g : Group) : (s.setGroup k g).mem = s.mem := rfl
@[simp] theorem setGroup_hostMem (s : State) (k : Nat) (g : Group) : (s.setGroup k g).hostMem = s.hostMem := rfl
@[simp] theorem setGroup_peerMem (s : State) (k : Nat) (g : Group) : (s.setGroup k g).peerMem = s.peerMem := rfl
@[simp] theorem setGroup_frameKey (s : State) (k : Nat) (g : Group) : (s.setGroup k g).frameKey = s.frameKey := rfl
@[simp] theorem setGroup_keys (s : State) (k : Nat) (g : Group) : (s.setGroup k g).keys = s.keys := rfl
@[simp] theorem setGroup_sealed (s : State) (k : Nat) (g : Group) : (s.setGroup k g).sealed = s.sealed := rfl
@[simp] theorem setGroup_binPoison (s : State) (k : Nat) (g : Group) : (s.setGroup k g).binPoison = s.binPoison := rfl
@[simp] theorem setGroup_frameModes (s : State) (k : Nat) (g : Group) : (s.setGroup k g).frameModes = s.frameModes := rfl
@[simp] theorem setGroup_roots (s : State) (k : Nat) (g : Group) : (s.setGroup k g).roots = s.roots := rfl
@[simp] theorem setGroup_pcieUp (s : State) (k : Nat) (g : Group) : (s.setGroup k g).pcieUp = s.pcieUp := rfl
@[simp] theorem setGroup_outFrame (s : State) (k : Nat) (g : Group) : (s.setGroup k g).outFrame = s.outFrame := rfl
@[simp] theorem setGroup_outFrames (s : State) (k : Nat) (g : Group) : (s.setGroup k g).outFrames = s.outFrames := rfl
@[simp] theorem setGroup_bufs (s : State) (k : Nat) (g : Group) : (s.setGroup k g).bufs = s.bufs := rfl
@[simp] theorem setGroup_tags (s : State) (k : Nat) (g : Group) : (s.setGroup k g).tags = s.tags := rfl
@[simp] theorem setGroup_icache (s : State) (k : Nat) (g : Group) : (s.setGroup k g).icache = s.icache := rfl
@[simp] theorem setGroup_tlbs (s : State) (k : Nat) (g : Group) : (s.setGroup k g).tlbs = s.tlbs := rfl
@[simp] theorem setGroup_misses (s : State) (k : Nat) (g : Group) : (s.setGroup k g).misses = s.misses := rfl
@[simp] theorem setGroup_heldMisses (s : State) (k : Nat) (g : Group) : (s.setGroup k g).heldMisses = s.heldMisses := rfl
@[simp] theorem setGroup_asks (s : State) (k : Nat) (g : Group) : (s.setGroup k g).asks = s.asks := rfl
@[simp] theorem setGroup_walkerEntry (s : State) (k : Nat) (g : Group) : (s.setGroup k g).walkerEntry = s.walkerEntry := rfl
@[simp] theorem setGroup_allocatable (s : State) (k : Nat) (g : Group) : (s.setGroup k g).allocatable = s.allocatable := rfl
@[simp] theorem setGroup_allocated (s : State) (k : Nat) (g : Group) : (s.setGroup k g).allocated = s.allocated := rfl
@[simp] theorem setGroup_badFrames (s : State) (k : Nat) (g : Group) : (s.setGroup k g).badFrames = s.badFrames := rfl
@[simp] theorem setGroup_retired (s : State) (k : Nat) (g : Group) : (s.setGroup k g).retired = s.retired := rfl
@[simp] theorem setGroup_keyAsks (s : State) (k : Nat) (g : Group) : (s.setGroup k g).keyAsks = s.keyAsks := rfl
@[simp] theorem setGroup_keyRefused (s : State) (k : Nat) (g : Group) : (s.setGroup k g).keyRefused = s.keyRefused := rfl
@[simp] theorem setGroup_devid (s : State) (k : Nat) (g : Group) : (s.setGroup k g).devid = s.devid := rfl
@[simp] theorem setGroup_route (s : State) (k : Nat) (g : Group) : (s.setGroup k g).route = s.route := rfl
@[simp] theorem setGroup_linksUp (s : State) (k : Nat) (g : Group) : (s.setGroup k g).linksUp = s.linksUp := rfl
@[simp] theorem setGroup_walkFails (s : State) (k : Nat) (g : Group) : (s.setGroup k g).walkFails = s.walkFails := rfl
@[simp] theorem setGroup_sideLog (s : State) (k : Nat) (g : Group) : (s.setGroup k g).sideLog = s.sideLog := rfl
@[simp] theorem setGroup_moor (s : State) (k : Nat) (g : Group) : (s.setGroup k g).moor = s.moor := rfl
@[simp] theorem setGroup_dir (s : State) (k : Nat) (g : Group) : (s.setGroup k g).dir = s.dir := rfl
@[simp] theorem setGroup_census (s : State) (k : Nat) (g : Group) : (s.setGroup k g).census = s.census := rfl
@[simp] theorem setGroup_censusGen (s : State) (k : Nat) (g : Group) : (s.setGroup k g).censusGen = s.censusGen := rfl
@[simp] theorem setGroup_exited (s : State) (k : Nat) (g : Group) : (s.setGroup k g).exited = s.exited := rfl
@[simp] theorem setGroup_crews (s : State) (k : Nat) (g : Group) : (s.setGroup k g).crews = s.crews := rfl
@[simp] theorem setGroup_launches (s : State) (k : Nat) (g : Group) : (s.setGroup k g).launches = s.launches := rfl
@[simp] theorem setGroup_nextLaunch (s : State) (k : Nat) (g : Group) : (s.setGroup k g).nextLaunch = s.nextLaunch := rfl
@[simp] theorem setGroup_stops (s : State) (k : Nat) (g : Group) : (s.setGroup k g).stops = s.stops := rfl
@[simp] theorem setGroup_accepted (s : State) (k : Nat) (g : Group) : (s.setGroup k g).accepted = s.accepted := rfl
@[simp] theorem setGroup_copyJobs (s : State) (k : Nat) (g : Group) : (s.setGroup k g).copyJobs = s.copyJobs := rfl
@[simp] theorem setGroup_nextJob (s : State) (k : Nat) (g : Group) : (s.setGroup k g).nextJob = s.nextJob := rfl
@[simp] theorem setGroup_tcJobs (s : State) (k : Nat) (g : Group) : (s.setGroup k g).tcJobs = s.tcJobs := rfl
@[simp] theorem setGroup_mxJobs (s : State) (k : Nat) (g : Group) : (s.setGroup k g).mxJobs = s.mxJobs := rfl
@[simp] theorem setGroup_arrays (s : State) (k : Nat) (g : Group) : (s.setGroup k g).arrays = s.arrays := rfl
@[simp] theorem setGroup_kicks (s : State) (k : Nat) (g : Group) : (s.setGroup k g).kicks = s.kicks := rfl
@[simp] theorem setGroup_fifo (s : State) (k : Nat) (g : Group) : (s.setGroup k g).fifo = s.fifo := rfl
@[simp] theorem setGroup_records (s : State) (k : Nat) (g : Group) : (s.setGroup k g).records = s.records := rfl
@[simp] theorem setGroup_sessions (s : State) (k : Nat) (g : Group) : (s.setGroup k g).sessions = s.sessions := rfl
@[simp] theorem setGroup_lens (s : State) (k : Nat) (g : Group) : (s.setGroup k g).lens = s.lens := rfl
@[simp] theorem setGroup_dumps (s : State) (k : Nat) (g : Group) : (s.setGroup k g).dumps = s.dumps := rfl
@[simp] theorem setGroup_samplers (s : State) (k : Nat) (g : Group) : (s.setGroup k g).samplers = s.samplers := rfl
@[simp] theorem setGroup_lanes (s : State) (k : Nat) (g : Group) : (s.setGroup k g).lanes = s.lanes := rfl
@[simp] theorem setGroup_energy (s : State) (k : Nat) (g : Group) : (s.setGroup k g).energy = s.energy := rfl
@[simp] theorem setGroup_energyPj (s : State) (k : Nat) (g : Group) : (s.setGroup k g).energyPj = s.energyPj := rfl
@[simp] theorem setGroup_moved (s : State) (k : Nat) (g : Group) : (s.setGroup k g).moved = s.moved := rfl
@[simp] theorem setGroup_leftCrews (s : State) (k : Nat) (g : Group) : (s.setGroup k g).leftCrews = s.leftCrews := rfl
@[simp] theorem setGroup_energyEarly (s : State) (k : Nat) (g : Group) : (s.setGroup k g).energyEarly = s.energyEarly := rfl
@[simp] theorem setGroup_intervalAt (s : State) (k : Nat) (g : Group) : (s.setGroup k g).intervalAt = s.intervalAt := rfl
@[simp] theorem setGroup_intervalTick (s : State) (k : Nat) (g : Group) : (s.setGroup k g).intervalTick = s.intervalTick := rfl
@[simp] theorem setGroup_day (s : State) (k : Nat) (g : Group) : (s.setGroup k g).day = s.day := rfl
@[simp] theorem setGroup_outbox (s : State) (k : Nat) (g : Group) : (s.setGroup k g).outbox = s.outbox := rfl
@[simp] theorem setGroup_ctrl (s : State) (k : Nat) (g : Group) : (s.setGroup k g).ctrl = s.ctrl := rfl
@[simp] theorem setGroup_inbound (s : State) (k : Nat) (g : Group) : (s.setGroup k g).inbound = s.inbound := rfl
@[simp] theorem setGroup_nextReq (s : State) (k : Nat) (g : Group) : (s.setGroup k g).nextReq = s.nextReq := rfl
@[simp] theorem setGroup_hostFails (s : State) (k : Nat) (g : Group) : (s.setGroup k g).hostFails = s.hostFails := rfl
@[simp] theorem setGroup_replies (s : State) (k : Nat) (g : Group) : (s.setGroup k g).replies = s.replies := rfl
@[simp] theorem setGroup_msix (s : State) (k : Nat) (g : Group) : (s.setGroup k g).msix = s.msix := rfl
@[simp] theorem setGroup_aer (s : State) (k : Nat) (g : Group) : (s.setGroup k g).aer = s.aer := rfl
@[simp] theorem setGroup_bringup (s : State) (k : Nat) (g : Group) : (s.setGroup k g).bringup = s.bringup := rfl
@[simp] theorem setGroup_images (s : State) (k : Nat) (g : Group) : (s.setGroup k g).images = s.images := rfl
@[simp] theorem setGroup_rollback (s : State) (k : Nat) (g : Group) : (s.setGroup k g).rollback = s.rollback := rfl
@[simp] theorem setGroup_startDue (s : State) (k : Nat) (g : Group) : (s.setGroup k g).startDue = s.startDue := rfl
@[simp] theorem setGroup_powerCap (s : State) (k : Nat) (g : Group) : (s.setGroup k g).powerCap = s.powerCap := rfl
@[simp] theorem setGroup_hot (s : State) (k : Nat) (g : Group) : (s.setGroup k g).hot = s.hot := rfl
@[simp] theorem setGroup_temps (s : State) (k : Nat) (g : Group) : (s.setGroup k g).temps = s.temps := rfl
@[simp] theorem setGroup_dramErrors (s : State) (k : Nat) (g : Group) : (s.setGroup k g).dramErrors = s.dramErrors := rfl
@[simp] theorem setGroup_corrected (s : State) (k : Nat) (g : Group) : (s.setGroup k g).corrected = s.corrected := rfl
@[simp] theorem setGroup_badIc (s : State) (k : Nat) (g : Group) : (s.setGroup k g).badIc = s.badIc := rfl
@[simp] theorem setGroup_badBufs (s : State) (k : Nat) (g : Group) : (s.setGroup k g).badBufs = s.badBufs := rfl
@[simp] theorem setGroup_badDay (s : State) (k : Nat) (g : Group) : (s.setGroup k g).badDay = s.badDay := rfl
@[simp] theorem setGroup_agenda (s : State) (k : Nat) (g : Group) : (s.setGroup k g).agenda = s.agenda := rfl
@[simp] theorem setGroup_free (s : State) (k : Nat) (g : Group) : (s.setGroup k g).free = s.free := rfl

@[simp] theorem modGroup_now (s : State) (k : Nat) (h : Group → Group) : (s.modGroup k h).now = s.now := by unfold State.modGroup; split <;> rfl
@[simp] theorem modGroup_timeBase (s : State) (k : Nat) (h : Group → Group) : (s.modGroup k h).timeBase = s.timeBase := by unfold State.modGroup; split <;> rfl
@[simp] theorem modGroup_timeSlow (s : State) (k : Nat) (h : Group → Group) : (s.modGroup k h).timeSlow = s.timeSlow := by unfold State.modGroup; split <;> rfl
@[simp] theorem modGroup_cur (s : State) (k : Nat) (h : Group → Group) : (s.modGroup k h).cur = s.cur := by unfold State.modGroup; split <;> rfl
@[simp] theorem modGroup_issued (s : State) (k : Nat) (h : Group → Group) : (s.modGroup k h).issued = s.issued := by unfold State.modGroup; split <;> rfl
@[simp] theorem modGroup_carry (s : State) (k : Nat) (h : Group → Group) : (s.modGroup k h).carry = s.carry := by unfold State.modGroup; split <;> rfl
@[simp] theorem modGroup_units (s : State) (k : Nat) (h : Group → Group) : (s.modGroup k h).units = s.units := by unfold State.modGroup; split <;> rfl
@[simp] theorem modGroup_tried (s : State) (k : Nat) (h : Group → Group) : (s.modGroup k h).tried = s.tried := by unfold State.modGroup; split <;> rfl
@[simp] theorem modGroup_spent (s : State) (k : Nat) (h : Group → Group) : (s.modGroup k h).spent = s.spent := by unfold State.modGroup; split <;> rfl
@[simp] theorem modGroup_fresh (s : State) (k : Nat) (h : Group → Group) : (s.modGroup k h).fresh = s.fresh := by unfold State.modGroup; split <;> rfl
@[simp] theorem modGroup_startSeq (s : State) (k : Nat) (h : Group → Group) : (s.modGroup k h).startSeq = s.startSeq := by unfold State.modGroup; split <;> rfl
@[simp] theorem modGroup_mem (s : State) (k : Nat) (h : Group → Group) : (s.modGroup k h).mem = s.mem := by unfold State.modGroup; split <;> rfl
@[simp] theorem modGroup_hostMem (s : State) (k : Nat) (h : Group → Group) : (s.modGroup k h).hostMem = s.hostMem := by unfold State.modGroup; split <;> rfl
@[simp] theorem modGroup_peerMem (s : State) (k : Nat) (h : Group → Group) : (s.modGroup k h).peerMem = s.peerMem := by unfold State.modGroup; split <;> rfl
@[simp] theorem modGroup_frameKey (s : State) (k : Nat) (h : Group → Group) : (s.modGroup k h).frameKey = s.frameKey := by unfold State.modGroup; split <;> rfl
@[simp] theorem modGroup_keys (s : State) (k : Nat) (h : Group → Group) : (s.modGroup k h).keys = s.keys := by unfold State.modGroup; split <;> rfl
@[simp] theorem modGroup_sealed (s : State) (k : Nat) (h : Group → Group) : (s.modGroup k h).sealed = s.sealed := by unfold State.modGroup; split <;> rfl
@[simp] theorem modGroup_binPoison (s : State) (k : Nat) (h : Group → Group) : (s.modGroup k h).binPoison = s.binPoison := by unfold State.modGroup; split <;> rfl
@[simp] theorem modGroup_frameModes (s : State) (k : Nat) (h : Group → Group) : (s.modGroup k h).frameModes = s.frameModes := by unfold State.modGroup; split <;> rfl
@[simp] theorem modGroup_roots (s : State) (k : Nat) (h : Group → Group) : (s.modGroup k h).roots = s.roots := by unfold State.modGroup; split <;> rfl
@[simp] theorem modGroup_pcieUp (s : State) (k : Nat) (h : Group → Group) : (s.modGroup k h).pcieUp = s.pcieUp := by unfold State.modGroup; split <;> rfl
@[simp] theorem modGroup_outFrame (s : State) (k : Nat) (h : Group → Group) : (s.modGroup k h).outFrame = s.outFrame := by unfold State.modGroup; split <;> rfl
@[simp] theorem modGroup_outFrames (s : State) (k : Nat) (h : Group → Group) : (s.modGroup k h).outFrames = s.outFrames := by unfold State.modGroup; split <;> rfl
@[simp] theorem modGroup_bufs (s : State) (k : Nat) (h : Group → Group) : (s.modGroup k h).bufs = s.bufs := by unfold State.modGroup; split <;> rfl
@[simp] theorem modGroup_tags (s : State) (k : Nat) (h : Group → Group) : (s.modGroup k h).tags = s.tags := by unfold State.modGroup; split <;> rfl
@[simp] theorem modGroup_icache (s : State) (k : Nat) (h : Group → Group) : (s.modGroup k h).icache = s.icache := by unfold State.modGroup; split <;> rfl
@[simp] theorem modGroup_tlbs (s : State) (k : Nat) (h : Group → Group) : (s.modGroup k h).tlbs = s.tlbs := by unfold State.modGroup; split <;> rfl
@[simp] theorem modGroup_misses (s : State) (k : Nat) (h : Group → Group) : (s.modGroup k h).misses = s.misses := by unfold State.modGroup; split <;> rfl
@[simp] theorem modGroup_heldMisses (s : State) (k : Nat) (h : Group → Group) : (s.modGroup k h).heldMisses = s.heldMisses := by unfold State.modGroup; split <;> rfl
@[simp] theorem modGroup_asks (s : State) (k : Nat) (h : Group → Group) : (s.modGroup k h).asks = s.asks := by unfold State.modGroup; split <;> rfl
@[simp] theorem modGroup_walkerEntry (s : State) (k : Nat) (h : Group → Group) : (s.modGroup k h).walkerEntry = s.walkerEntry := by unfold State.modGroup; split <;> rfl
@[simp] theorem modGroup_allocatable (s : State) (k : Nat) (h : Group → Group) : (s.modGroup k h).allocatable = s.allocatable := by unfold State.modGroup; split <;> rfl
@[simp] theorem modGroup_allocated (s : State) (k : Nat) (h : Group → Group) : (s.modGroup k h).allocated = s.allocated := by unfold State.modGroup; split <;> rfl
@[simp] theorem modGroup_badFrames (s : State) (k : Nat) (h : Group → Group) : (s.modGroup k h).badFrames = s.badFrames := by unfold State.modGroup; split <;> rfl
@[simp] theorem modGroup_retired (s : State) (k : Nat) (h : Group → Group) : (s.modGroup k h).retired = s.retired := by unfold State.modGroup; split <;> rfl
@[simp] theorem modGroup_keyAsks (s : State) (k : Nat) (h : Group → Group) : (s.modGroup k h).keyAsks = s.keyAsks := by unfold State.modGroup; split <;> rfl
@[simp] theorem modGroup_keyRefused (s : State) (k : Nat) (h : Group → Group) : (s.modGroup k h).keyRefused = s.keyRefused := by unfold State.modGroup; split <;> rfl
@[simp] theorem modGroup_devid (s : State) (k : Nat) (h : Group → Group) : (s.modGroup k h).devid = s.devid := by unfold State.modGroup; split <;> rfl
@[simp] theorem modGroup_route (s : State) (k : Nat) (h : Group → Group) : (s.modGroup k h).route = s.route := by unfold State.modGroup; split <;> rfl
@[simp] theorem modGroup_linksUp (s : State) (k : Nat) (h : Group → Group) : (s.modGroup k h).linksUp = s.linksUp := by unfold State.modGroup; split <;> rfl
@[simp] theorem modGroup_walkFails (s : State) (k : Nat) (h : Group → Group) : (s.modGroup k h).walkFails = s.walkFails := by unfold State.modGroup; split <;> rfl
@[simp] theorem modGroup_sideLog (s : State) (k : Nat) (h : Group → Group) : (s.modGroup k h).sideLog = s.sideLog := by unfold State.modGroup; split <;> rfl
@[simp] theorem modGroup_moor (s : State) (k : Nat) (h : Group → Group) : (s.modGroup k h).moor = s.moor := by unfold State.modGroup; split <;> rfl
@[simp] theorem modGroup_dir (s : State) (k : Nat) (h : Group → Group) : (s.modGroup k h).dir = s.dir := by unfold State.modGroup; split <;> rfl
@[simp] theorem modGroup_census (s : State) (k : Nat) (h : Group → Group) : (s.modGroup k h).census = s.census := by unfold State.modGroup; split <;> rfl
@[simp] theorem modGroup_censusGen (s : State) (k : Nat) (h : Group → Group) : (s.modGroup k h).censusGen = s.censusGen := by unfold State.modGroup; split <;> rfl
@[simp] theorem modGroup_exited (s : State) (k : Nat) (h : Group → Group) : (s.modGroup k h).exited = s.exited := by unfold State.modGroup; split <;> rfl
@[simp] theorem modGroup_crews (s : State) (k : Nat) (h : Group → Group) : (s.modGroup k h).crews = s.crews := by unfold State.modGroup; split <;> rfl
@[simp] theorem modGroup_launches (s : State) (k : Nat) (h : Group → Group) : (s.modGroup k h).launches = s.launches := by unfold State.modGroup; split <;> rfl
@[simp] theorem modGroup_nextLaunch (s : State) (k : Nat) (h : Group → Group) : (s.modGroup k h).nextLaunch = s.nextLaunch := by unfold State.modGroup; split <;> rfl
@[simp] theorem modGroup_stops (s : State) (k : Nat) (h : Group → Group) : (s.modGroup k h).stops = s.stops := by unfold State.modGroup; split <;> rfl
@[simp] theorem modGroup_accepted (s : State) (k : Nat) (h : Group → Group) : (s.modGroup k h).accepted = s.accepted := by unfold State.modGroup; split <;> rfl
@[simp] theorem modGroup_copyJobs (s : State) (k : Nat) (h : Group → Group) : (s.modGroup k h).copyJobs = s.copyJobs := by unfold State.modGroup; split <;> rfl
@[simp] theorem modGroup_nextJob (s : State) (k : Nat) (h : Group → Group) : (s.modGroup k h).nextJob = s.nextJob := by unfold State.modGroup; split <;> rfl
@[simp] theorem modGroup_tcJobs (s : State) (k : Nat) (h : Group → Group) : (s.modGroup k h).tcJobs = s.tcJobs := by unfold State.modGroup; split <;> rfl
@[simp] theorem modGroup_mxJobs (s : State) (k : Nat) (h : Group → Group) : (s.modGroup k h).mxJobs = s.mxJobs := by unfold State.modGroup; split <;> rfl
@[simp] theorem modGroup_arrays (s : State) (k : Nat) (h : Group → Group) : (s.modGroup k h).arrays = s.arrays := by unfold State.modGroup; split <;> rfl
@[simp] theorem modGroup_kicks (s : State) (k : Nat) (h : Group → Group) : (s.modGroup k h).kicks = s.kicks := by unfold State.modGroup; split <;> rfl
@[simp] theorem modGroup_fifo (s : State) (k : Nat) (h : Group → Group) : (s.modGroup k h).fifo = s.fifo := by unfold State.modGroup; split <;> rfl
@[simp] theorem modGroup_records (s : State) (k : Nat) (h : Group → Group) : (s.modGroup k h).records = s.records := by unfold State.modGroup; split <;> rfl
@[simp] theorem modGroup_sessions (s : State) (k : Nat) (h : Group → Group) : (s.modGroup k h).sessions = s.sessions := by unfold State.modGroup; split <;> rfl
@[simp] theorem modGroup_lens (s : State) (k : Nat) (h : Group → Group) : (s.modGroup k h).lens = s.lens := by unfold State.modGroup; split <;> rfl
@[simp] theorem modGroup_dumps (s : State) (k : Nat) (h : Group → Group) : (s.modGroup k h).dumps = s.dumps := by unfold State.modGroup; split <;> rfl
@[simp] theorem modGroup_samplers (s : State) (k : Nat) (h : Group → Group) : (s.modGroup k h).samplers = s.samplers := by unfold State.modGroup; split <;> rfl
@[simp] theorem modGroup_lanes (s : State) (k : Nat) (h : Group → Group) : (s.modGroup k h).lanes = s.lanes := by unfold State.modGroup; split <;> rfl
@[simp] theorem modGroup_energy (s : State) (k : Nat) (h : Group → Group) : (s.modGroup k h).energy = s.energy := by unfold State.modGroup; split <;> rfl
@[simp] theorem modGroup_energyPj (s : State) (k : Nat) (h : Group → Group) : (s.modGroup k h).energyPj = s.energyPj := by unfold State.modGroup; split <;> rfl
@[simp] theorem modGroup_moved (s : State) (k : Nat) (h : Group → Group) : (s.modGroup k h).moved = s.moved := by unfold State.modGroup; split <;> rfl
@[simp] theorem modGroup_leftCrews (s : State) (k : Nat) (h : Group → Group) : (s.modGroup k h).leftCrews = s.leftCrews := by unfold State.modGroup; split <;> rfl
@[simp] theorem modGroup_energyEarly (s : State) (k : Nat) (h : Group → Group) : (s.modGroup k h).energyEarly = s.energyEarly := by unfold State.modGroup; split <;> rfl
@[simp] theorem modGroup_intervalAt (s : State) (k : Nat) (h : Group → Group) : (s.modGroup k h).intervalAt = s.intervalAt := by unfold State.modGroup; split <;> rfl
@[simp] theorem modGroup_intervalTick (s : State) (k : Nat) (h : Group → Group) : (s.modGroup k h).intervalTick = s.intervalTick := by unfold State.modGroup; split <;> rfl
@[simp] theorem modGroup_day (s : State) (k : Nat) (h : Group → Group) : (s.modGroup k h).day = s.day := by unfold State.modGroup; split <;> rfl
@[simp] theorem modGroup_outbox (s : State) (k : Nat) (h : Group → Group) : (s.modGroup k h).outbox = s.outbox := by unfold State.modGroup; split <;> rfl
@[simp] theorem modGroup_ctrl (s : State) (k : Nat) (h : Group → Group) : (s.modGroup k h).ctrl = s.ctrl := by unfold State.modGroup; split <;> rfl
@[simp] theorem modGroup_inbound (s : State) (k : Nat) (h : Group → Group) : (s.modGroup k h).inbound = s.inbound := by unfold State.modGroup; split <;> rfl
@[simp] theorem modGroup_nextReq (s : State) (k : Nat) (h : Group → Group) : (s.modGroup k h).nextReq = s.nextReq := by unfold State.modGroup; split <;> rfl
@[simp] theorem modGroup_hostFails (s : State) (k : Nat) (h : Group → Group) : (s.modGroup k h).hostFails = s.hostFails := by unfold State.modGroup; split <;> rfl
@[simp] theorem modGroup_replies (s : State) (k : Nat) (h : Group → Group) : (s.modGroup k h).replies = s.replies := by unfold State.modGroup; split <;> rfl
@[simp] theorem modGroup_msix (s : State) (k : Nat) (h : Group → Group) : (s.modGroup k h).msix = s.msix := by unfold State.modGroup; split <;> rfl
@[simp] theorem modGroup_aer (s : State) (k : Nat) (h : Group → Group) : (s.modGroup k h).aer = s.aer := by unfold State.modGroup; split <;> rfl
@[simp] theorem modGroup_bringup (s : State) (k : Nat) (h : Group → Group) : (s.modGroup k h).bringup = s.bringup := by unfold State.modGroup; split <;> rfl
@[simp] theorem modGroup_images (s : State) (k : Nat) (h : Group → Group) : (s.modGroup k h).images = s.images := by unfold State.modGroup; split <;> rfl
@[simp] theorem modGroup_rollback (s : State) (k : Nat) (h : Group → Group) : (s.modGroup k h).rollback = s.rollback := by unfold State.modGroup; split <;> rfl
@[simp] theorem modGroup_startDue (s : State) (k : Nat) (h : Group → Group) : (s.modGroup k h).startDue = s.startDue := by unfold State.modGroup; split <;> rfl
@[simp] theorem modGroup_powerCap (s : State) (k : Nat) (h : Group → Group) : (s.modGroup k h).powerCap = s.powerCap := by unfold State.modGroup; split <;> rfl
@[simp] theorem modGroup_hot (s : State) (k : Nat) (h : Group → Group) : (s.modGroup k h).hot = s.hot := by unfold State.modGroup; split <;> rfl
@[simp] theorem modGroup_temps (s : State) (k : Nat) (h : Group → Group) : (s.modGroup k h).temps = s.temps := by unfold State.modGroup; split <;> rfl
@[simp] theorem modGroup_dramErrors (s : State) (k : Nat) (h : Group → Group) : (s.modGroup k h).dramErrors = s.dramErrors := by unfold State.modGroup; split <;> rfl
@[simp] theorem modGroup_corrected (s : State) (k : Nat) (h : Group → Group) : (s.modGroup k h).corrected = s.corrected := by unfold State.modGroup; split <;> rfl
@[simp] theorem modGroup_badIc (s : State) (k : Nat) (h : Group → Group) : (s.modGroup k h).badIc = s.badIc := by unfold State.modGroup; split <;> rfl
@[simp] theorem modGroup_badBufs (s : State) (k : Nat) (h : Group → Group) : (s.modGroup k h).badBufs = s.badBufs := by unfold State.modGroup; split <;> rfl
@[simp] theorem modGroup_badDay (s : State) (k : Nat) (h : Group → Group) : (s.modGroup k h).badDay = s.badDay := by unfold State.modGroup; split <;> rfl
@[simp] theorem modGroup_agenda (s : State) (k : Nat) (h : Group → Group) : (s.modGroup k h).agenda = s.agenda := by unfold State.modGroup; split <;> rfl
@[simp] theorem modGroup_free (s : State) (k : Nat) (h : Group → Group) : (s.modGroup k h).free = s.free := by unfold State.modGroup; split <;> rfl

@[simp] theorem modSplit_now (s : State) (k i : Nat) (h : Split → Split) : (s.modSplit k i h).now = s.now := modGroup_now s k _
@[simp] theorem modSplit_timeBase (s : State) (k i : Nat) (h : Split → Split) : (s.modSplit k i h).timeBase = s.timeBase := modGroup_timeBase s k _
@[simp] theorem modSplit_timeSlow (s : State) (k i : Nat) (h : Split → Split) : (s.modSplit k i h).timeSlow = s.timeSlow := modGroup_timeSlow s k _
@[simp] theorem modSplit_cur (s : State) (k i : Nat) (h : Split → Split) : (s.modSplit k i h).cur = s.cur := modGroup_cur s k _
@[simp] theorem modSplit_issued (s : State) (k i : Nat) (h : Split → Split) : (s.modSplit k i h).issued = s.issued := modGroup_issued s k _
@[simp] theorem modSplit_carry (s : State) (k i : Nat) (h : Split → Split) : (s.modSplit k i h).carry = s.carry := modGroup_carry s k _
@[simp] theorem modSplit_units (s : State) (k i : Nat) (h : Split → Split) : (s.modSplit k i h).units = s.units := modGroup_units s k _
@[simp] theorem modSplit_tried (s : State) (k i : Nat) (h : Split → Split) : (s.modSplit k i h).tried = s.tried := modGroup_tried s k _
@[simp] theorem modSplit_spent (s : State) (k i : Nat) (h : Split → Split) : (s.modSplit k i h).spent = s.spent := modGroup_spent s k _
@[simp] theorem modSplit_fresh (s : State) (k i : Nat) (h : Split → Split) : (s.modSplit k i h).fresh = s.fresh := modGroup_fresh s k _
@[simp] theorem modSplit_startSeq (s : State) (k i : Nat) (h : Split → Split) : (s.modSplit k i h).startSeq = s.startSeq := modGroup_startSeq s k _
@[simp] theorem modSplit_mem (s : State) (k i : Nat) (h : Split → Split) : (s.modSplit k i h).mem = s.mem := modGroup_mem s k _
@[simp] theorem modSplit_hostMem (s : State) (k i : Nat) (h : Split → Split) : (s.modSplit k i h).hostMem = s.hostMem := modGroup_hostMem s k _
@[simp] theorem modSplit_peerMem (s : State) (k i : Nat) (h : Split → Split) : (s.modSplit k i h).peerMem = s.peerMem := modGroup_peerMem s k _
@[simp] theorem modSplit_frameKey (s : State) (k i : Nat) (h : Split → Split) : (s.modSplit k i h).frameKey = s.frameKey := modGroup_frameKey s k _
@[simp] theorem modSplit_keys (s : State) (k i : Nat) (h : Split → Split) : (s.modSplit k i h).keys = s.keys := modGroup_keys s k _
@[simp] theorem modSplit_sealed (s : State) (k i : Nat) (h : Split → Split) : (s.modSplit k i h).sealed = s.sealed := modGroup_sealed s k _
@[simp] theorem modSplit_binPoison (s : State) (k i : Nat) (h : Split → Split) : (s.modSplit k i h).binPoison = s.binPoison := modGroup_binPoison s k _
@[simp] theorem modSplit_frameModes (s : State) (k i : Nat) (h : Split → Split) : (s.modSplit k i h).frameModes = s.frameModes := modGroup_frameModes s k _
@[simp] theorem modSplit_roots (s : State) (k i : Nat) (h : Split → Split) : (s.modSplit k i h).roots = s.roots := modGroup_roots s k _
@[simp] theorem modSplit_pcieUp (s : State) (k i : Nat) (h : Split → Split) : (s.modSplit k i h).pcieUp = s.pcieUp := modGroup_pcieUp s k _
@[simp] theorem modSplit_outFrame (s : State) (k i : Nat) (h : Split → Split) : (s.modSplit k i h).outFrame = s.outFrame := modGroup_outFrame s k _
@[simp] theorem modSplit_outFrames (s : State) (k i : Nat) (h : Split → Split) : (s.modSplit k i h).outFrames = s.outFrames := modGroup_outFrames s k _
@[simp] theorem modSplit_bufs (s : State) (k i : Nat) (h : Split → Split) : (s.modSplit k i h).bufs = s.bufs := modGroup_bufs s k _
@[simp] theorem modSplit_tags (s : State) (k i : Nat) (h : Split → Split) : (s.modSplit k i h).tags = s.tags := modGroup_tags s k _
@[simp] theorem modSplit_icache (s : State) (k i : Nat) (h : Split → Split) : (s.modSplit k i h).icache = s.icache := modGroup_icache s k _
@[simp] theorem modSplit_tlbs (s : State) (k i : Nat) (h : Split → Split) : (s.modSplit k i h).tlbs = s.tlbs := modGroup_tlbs s k _
@[simp] theorem modSplit_misses (s : State) (k i : Nat) (h : Split → Split) : (s.modSplit k i h).misses = s.misses := modGroup_misses s k _
@[simp] theorem modSplit_heldMisses (s : State) (k i : Nat) (h : Split → Split) : (s.modSplit k i h).heldMisses = s.heldMisses := modGroup_heldMisses s k _
@[simp] theorem modSplit_asks (s : State) (k i : Nat) (h : Split → Split) : (s.modSplit k i h).asks = s.asks := modGroup_asks s k _
@[simp] theorem modSplit_walkerEntry (s : State) (k i : Nat) (h : Split → Split) : (s.modSplit k i h).walkerEntry = s.walkerEntry := modGroup_walkerEntry s k _
@[simp] theorem modSplit_allocatable (s : State) (k i : Nat) (h : Split → Split) : (s.modSplit k i h).allocatable = s.allocatable := modGroup_allocatable s k _
@[simp] theorem modSplit_allocated (s : State) (k i : Nat) (h : Split → Split) : (s.modSplit k i h).allocated = s.allocated := modGroup_allocated s k _
@[simp] theorem modSplit_badFrames (s : State) (k i : Nat) (h : Split → Split) : (s.modSplit k i h).badFrames = s.badFrames := modGroup_badFrames s k _
@[simp] theorem modSplit_retired (s : State) (k i : Nat) (h : Split → Split) : (s.modSplit k i h).retired = s.retired := modGroup_retired s k _
@[simp] theorem modSplit_keyAsks (s : State) (k i : Nat) (h : Split → Split) : (s.modSplit k i h).keyAsks = s.keyAsks := modGroup_keyAsks s k _
@[simp] theorem modSplit_keyRefused (s : State) (k i : Nat) (h : Split → Split) : (s.modSplit k i h).keyRefused = s.keyRefused := modGroup_keyRefused s k _
@[simp] theorem modSplit_devid (s : State) (k i : Nat) (h : Split → Split) : (s.modSplit k i h).devid = s.devid := modGroup_devid s k _
@[simp] theorem modSplit_route (s : State) (k i : Nat) (h : Split → Split) : (s.modSplit k i h).route = s.route := modGroup_route s k _
@[simp] theorem modSplit_linksUp (s : State) (k i : Nat) (h : Split → Split) : (s.modSplit k i h).linksUp = s.linksUp := modGroup_linksUp s k _
@[simp] theorem modSplit_walkFails (s : State) (k i : Nat) (h : Split → Split) : (s.modSplit k i h).walkFails = s.walkFails := modGroup_walkFails s k _
@[simp] theorem modSplit_sideLog (s : State) (k i : Nat) (h : Split → Split) : (s.modSplit k i h).sideLog = s.sideLog := modGroup_sideLog s k _
@[simp] theorem modSplit_moor (s : State) (k i : Nat) (h : Split → Split) : (s.modSplit k i h).moor = s.moor := modGroup_moor s k _
@[simp] theorem modSplit_dir (s : State) (k i : Nat) (h : Split → Split) : (s.modSplit k i h).dir = s.dir := modGroup_dir s k _
@[simp] theorem modSplit_census (s : State) (k i : Nat) (h : Split → Split) : (s.modSplit k i h).census = s.census := modGroup_census s k _
@[simp] theorem modSplit_censusGen (s : State) (k i : Nat) (h : Split → Split) : (s.modSplit k i h).censusGen = s.censusGen := modGroup_censusGen s k _
@[simp] theorem modSplit_exited (s : State) (k i : Nat) (h : Split → Split) : (s.modSplit k i h).exited = s.exited := modGroup_exited s k _
@[simp] theorem modSplit_crews (s : State) (k i : Nat) (h : Split → Split) : (s.modSplit k i h).crews = s.crews := modGroup_crews s k _
@[simp] theorem modSplit_launches (s : State) (k i : Nat) (h : Split → Split) : (s.modSplit k i h).launches = s.launches := modGroup_launches s k _
@[simp] theorem modSplit_nextLaunch (s : State) (k i : Nat) (h : Split → Split) : (s.modSplit k i h).nextLaunch = s.nextLaunch := modGroup_nextLaunch s k _
@[simp] theorem modSplit_stops (s : State) (k i : Nat) (h : Split → Split) : (s.modSplit k i h).stops = s.stops := modGroup_stops s k _
@[simp] theorem modSplit_accepted (s : State) (k i : Nat) (h : Split → Split) : (s.modSplit k i h).accepted = s.accepted := modGroup_accepted s k _
@[simp] theorem modSplit_copyJobs (s : State) (k i : Nat) (h : Split → Split) : (s.modSplit k i h).copyJobs = s.copyJobs := modGroup_copyJobs s k _
@[simp] theorem modSplit_nextJob (s : State) (k i : Nat) (h : Split → Split) : (s.modSplit k i h).nextJob = s.nextJob := modGroup_nextJob s k _
@[simp] theorem modSplit_tcJobs (s : State) (k i : Nat) (h : Split → Split) : (s.modSplit k i h).tcJobs = s.tcJobs := modGroup_tcJobs s k _
@[simp] theorem modSplit_mxJobs (s : State) (k i : Nat) (h : Split → Split) : (s.modSplit k i h).mxJobs = s.mxJobs := modGroup_mxJobs s k _
@[simp] theorem modSplit_arrays (s : State) (k i : Nat) (h : Split → Split) : (s.modSplit k i h).arrays = s.arrays := modGroup_arrays s k _
@[simp] theorem modSplit_kicks (s : State) (k i : Nat) (h : Split → Split) : (s.modSplit k i h).kicks = s.kicks := modGroup_kicks s k _
@[simp] theorem modSplit_fifo (s : State) (k i : Nat) (h : Split → Split) : (s.modSplit k i h).fifo = s.fifo := modGroup_fifo s k _
@[simp] theorem modSplit_records (s : State) (k i : Nat) (h : Split → Split) : (s.modSplit k i h).records = s.records := modGroup_records s k _
@[simp] theorem modSplit_sessions (s : State) (k i : Nat) (h : Split → Split) : (s.modSplit k i h).sessions = s.sessions := modGroup_sessions s k _
@[simp] theorem modSplit_lens (s : State) (k i : Nat) (h : Split → Split) : (s.modSplit k i h).lens = s.lens := modGroup_lens s k _
@[simp] theorem modSplit_dumps (s : State) (k i : Nat) (h : Split → Split) : (s.modSplit k i h).dumps = s.dumps := modGroup_dumps s k _
@[simp] theorem modSplit_samplers (s : State) (k i : Nat) (h : Split → Split) : (s.modSplit k i h).samplers = s.samplers := modGroup_samplers s k _
@[simp] theorem modSplit_lanes (s : State) (k i : Nat) (h : Split → Split) : (s.modSplit k i h).lanes = s.lanes := modGroup_lanes s k _
@[simp] theorem modSplit_energy (s : State) (k i : Nat) (h : Split → Split) : (s.modSplit k i h).energy = s.energy := modGroup_energy s k _
@[simp] theorem modSplit_energyPj (s : State) (k i : Nat) (h : Split → Split) : (s.modSplit k i h).energyPj = s.energyPj := modGroup_energyPj s k _
@[simp] theorem modSplit_moved (s : State) (k i : Nat) (h : Split → Split) : (s.modSplit k i h).moved = s.moved := modGroup_moved s k _
@[simp] theorem modSplit_leftCrews (s : State) (k i : Nat) (h : Split → Split) : (s.modSplit k i h).leftCrews = s.leftCrews := modGroup_leftCrews s k _
@[simp] theorem modSplit_energyEarly (s : State) (k i : Nat) (h : Split → Split) : (s.modSplit k i h).energyEarly = s.energyEarly := modGroup_energyEarly s k _
@[simp] theorem modSplit_intervalAt (s : State) (k i : Nat) (h : Split → Split) : (s.modSplit k i h).intervalAt = s.intervalAt := modGroup_intervalAt s k _
@[simp] theorem modSplit_intervalTick (s : State) (k i : Nat) (h : Split → Split) : (s.modSplit k i h).intervalTick = s.intervalTick := modGroup_intervalTick s k _
@[simp] theorem modSplit_day (s : State) (k i : Nat) (h : Split → Split) : (s.modSplit k i h).day = s.day := modGroup_day s k _
@[simp] theorem modSplit_outbox (s : State) (k i : Nat) (h : Split → Split) : (s.modSplit k i h).outbox = s.outbox := modGroup_outbox s k _
@[simp] theorem modSplit_ctrl (s : State) (k i : Nat) (h : Split → Split) : (s.modSplit k i h).ctrl = s.ctrl := modGroup_ctrl s k _
@[simp] theorem modSplit_inbound (s : State) (k i : Nat) (h : Split → Split) : (s.modSplit k i h).inbound = s.inbound := modGroup_inbound s k _
@[simp] theorem modSplit_nextReq (s : State) (k i : Nat) (h : Split → Split) : (s.modSplit k i h).nextReq = s.nextReq := modGroup_nextReq s k _
@[simp] theorem modSplit_hostFails (s : State) (k i : Nat) (h : Split → Split) : (s.modSplit k i h).hostFails = s.hostFails := modGroup_hostFails s k _
@[simp] theorem modSplit_replies (s : State) (k i : Nat) (h : Split → Split) : (s.modSplit k i h).replies = s.replies := modGroup_replies s k _
@[simp] theorem modSplit_msix (s : State) (k i : Nat) (h : Split → Split) : (s.modSplit k i h).msix = s.msix := modGroup_msix s k _
@[simp] theorem modSplit_aer (s : State) (k i : Nat) (h : Split → Split) : (s.modSplit k i h).aer = s.aer := modGroup_aer s k _
@[simp] theorem modSplit_bringup (s : State) (k i : Nat) (h : Split → Split) : (s.modSplit k i h).bringup = s.bringup := modGroup_bringup s k _
@[simp] theorem modSplit_images (s : State) (k i : Nat) (h : Split → Split) : (s.modSplit k i h).images = s.images := modGroup_images s k _
@[simp] theorem modSplit_rollback (s : State) (k i : Nat) (h : Split → Split) : (s.modSplit k i h).rollback = s.rollback := modGroup_rollback s k _
@[simp] theorem modSplit_startDue (s : State) (k i : Nat) (h : Split → Split) : (s.modSplit k i h).startDue = s.startDue := modGroup_startDue s k _
@[simp] theorem modSplit_powerCap (s : State) (k i : Nat) (h : Split → Split) : (s.modSplit k i h).powerCap = s.powerCap := modGroup_powerCap s k _
@[simp] theorem modSplit_hot (s : State) (k i : Nat) (h : Split → Split) : (s.modSplit k i h).hot = s.hot := modGroup_hot s k _
@[simp] theorem modSplit_temps (s : State) (k i : Nat) (h : Split → Split) : (s.modSplit k i h).temps = s.temps := modGroup_temps s k _
@[simp] theorem modSplit_dramErrors (s : State) (k i : Nat) (h : Split → Split) : (s.modSplit k i h).dramErrors = s.dramErrors := modGroup_dramErrors s k _
@[simp] theorem modSplit_corrected (s : State) (k i : Nat) (h : Split → Split) : (s.modSplit k i h).corrected = s.corrected := modGroup_corrected s k _
@[simp] theorem modSplit_badIc (s : State) (k i : Nat) (h : Split → Split) : (s.modSplit k i h).badIc = s.badIc := modGroup_badIc s k _
@[simp] theorem modSplit_badBufs (s : State) (k i : Nat) (h : Split → Split) : (s.modSplit k i h).badBufs = s.badBufs := modGroup_badBufs s k _
@[simp] theorem modSplit_badDay (s : State) (k i : Nat) (h : Split → Split) : (s.modSplit k i h).badDay = s.badDay := modGroup_badDay s k _
@[simp] theorem modSplit_agenda (s : State) (k i : Nat) (h : Split → Split) : (s.modSplit k i h).agenda = s.agenda := modGroup_agenda s k _
@[simp] theorem modSplit_free (s : State) (k i : Nat) (h : Split → Split) : (s.modSplit k i h).free = s.free := modGroup_free s k _

@[simp] theorem modLaunch_now (s : State) (n : Nat) (h : Launch → Launch) : (s.modLaunch n h).now = s.now := rfl
@[simp] theorem modLaunch_timeBase (s : State) (n : Nat) (h : Launch → Launch) : (s.modLaunch n h).timeBase = s.timeBase := rfl
@[simp] theorem modLaunch_timeSlow (s : State) (n : Nat) (h : Launch → Launch) : (s.modLaunch n h).timeSlow = s.timeSlow := rfl
@[simp] theorem modLaunch_cur (s : State) (n : Nat) (h : Launch → Launch) : (s.modLaunch n h).cur = s.cur := rfl
@[simp] theorem modLaunch_issued (s : State) (n : Nat) (h : Launch → Launch) : (s.modLaunch n h).issued = s.issued := rfl
@[simp] theorem modLaunch_carry (s : State) (n : Nat) (h : Launch → Launch) : (s.modLaunch n h).carry = s.carry := rfl
@[simp] theorem modLaunch_units (s : State) (n : Nat) (h : Launch → Launch) : (s.modLaunch n h).units = s.units := rfl
@[simp] theorem modLaunch_tried (s : State) (n : Nat) (h : Launch → Launch) : (s.modLaunch n h).tried = s.tried := rfl
@[simp] theorem modLaunch_spent (s : State) (n : Nat) (h : Launch → Launch) : (s.modLaunch n h).spent = s.spent := rfl
@[simp] theorem modLaunch_groups (s : State) (n : Nat) (h : Launch → Launch) : (s.modLaunch n h).groups = s.groups := rfl
@[simp] theorem modLaunch_fresh (s : State) (n : Nat) (h : Launch → Launch) : (s.modLaunch n h).fresh = s.fresh := rfl
@[simp] theorem modLaunch_startSeq (s : State) (n : Nat) (h : Launch → Launch) : (s.modLaunch n h).startSeq = s.startSeq := rfl
@[simp] theorem modLaunch_mem (s : State) (n : Nat) (h : Launch → Launch) : (s.modLaunch n h).mem = s.mem := rfl
@[simp] theorem modLaunch_hostMem (s : State) (n : Nat) (h : Launch → Launch) : (s.modLaunch n h).hostMem = s.hostMem := rfl
@[simp] theorem modLaunch_peerMem (s : State) (n : Nat) (h : Launch → Launch) : (s.modLaunch n h).peerMem = s.peerMem := rfl
@[simp] theorem modLaunch_frameKey (s : State) (n : Nat) (h : Launch → Launch) : (s.modLaunch n h).frameKey = s.frameKey := rfl
@[simp] theorem modLaunch_keys (s : State) (n : Nat) (h : Launch → Launch) : (s.modLaunch n h).keys = s.keys := rfl
@[simp] theorem modLaunch_sealed (s : State) (n : Nat) (h : Launch → Launch) : (s.modLaunch n h).sealed = s.sealed := rfl
@[simp] theorem modLaunch_binPoison (s : State) (n : Nat) (h : Launch → Launch) : (s.modLaunch n h).binPoison = s.binPoison := rfl
@[simp] theorem modLaunch_frameModes (s : State) (n : Nat) (h : Launch → Launch) : (s.modLaunch n h).frameModes = s.frameModes := rfl
@[simp] theorem modLaunch_roots (s : State) (n : Nat) (h : Launch → Launch) : (s.modLaunch n h).roots = s.roots := rfl
@[simp] theorem modLaunch_pcieUp (s : State) (n : Nat) (h : Launch → Launch) : (s.modLaunch n h).pcieUp = s.pcieUp := rfl
@[simp] theorem modLaunch_outFrame (s : State) (n : Nat) (h : Launch → Launch) : (s.modLaunch n h).outFrame = s.outFrame := rfl
@[simp] theorem modLaunch_outFrames (s : State) (n : Nat) (h : Launch → Launch) : (s.modLaunch n h).outFrames = s.outFrames := rfl
@[simp] theorem modLaunch_bufs (s : State) (n : Nat) (h : Launch → Launch) : (s.modLaunch n h).bufs = s.bufs := rfl
@[simp] theorem modLaunch_tags (s : State) (n : Nat) (h : Launch → Launch) : (s.modLaunch n h).tags = s.tags := rfl
@[simp] theorem modLaunch_icache (s : State) (n : Nat) (h : Launch → Launch) : (s.modLaunch n h).icache = s.icache := rfl
@[simp] theorem modLaunch_tlbs (s : State) (n : Nat) (h : Launch → Launch) : (s.modLaunch n h).tlbs = s.tlbs := rfl
@[simp] theorem modLaunch_misses (s : State) (n : Nat) (h : Launch → Launch) : (s.modLaunch n h).misses = s.misses := rfl
@[simp] theorem modLaunch_heldMisses (s : State) (n : Nat) (h : Launch → Launch) : (s.modLaunch n h).heldMisses = s.heldMisses := rfl
@[simp] theorem modLaunch_asks (s : State) (n : Nat) (h : Launch → Launch) : (s.modLaunch n h).asks = s.asks := rfl
@[simp] theorem modLaunch_walkerEntry (s : State) (n : Nat) (h : Launch → Launch) : (s.modLaunch n h).walkerEntry = s.walkerEntry := rfl
@[simp] theorem modLaunch_allocatable (s : State) (n : Nat) (h : Launch → Launch) : (s.modLaunch n h).allocatable = s.allocatable := rfl
@[simp] theorem modLaunch_allocated (s : State) (n : Nat) (h : Launch → Launch) : (s.modLaunch n h).allocated = s.allocated := rfl
@[simp] theorem modLaunch_badFrames (s : State) (n : Nat) (h : Launch → Launch) : (s.modLaunch n h).badFrames = s.badFrames := rfl
@[simp] theorem modLaunch_retired (s : State) (n : Nat) (h : Launch → Launch) : (s.modLaunch n h).retired = s.retired := rfl
@[simp] theorem modLaunch_keyAsks (s : State) (n : Nat) (h : Launch → Launch) : (s.modLaunch n h).keyAsks = s.keyAsks := rfl
@[simp] theorem modLaunch_keyRefused (s : State) (n : Nat) (h : Launch → Launch) : (s.modLaunch n h).keyRefused = s.keyRefused := rfl
@[simp] theorem modLaunch_devid (s : State) (n : Nat) (h : Launch → Launch) : (s.modLaunch n h).devid = s.devid := rfl
@[simp] theorem modLaunch_route (s : State) (n : Nat) (h : Launch → Launch) : (s.modLaunch n h).route = s.route := rfl
@[simp] theorem modLaunch_linksUp (s : State) (n : Nat) (h : Launch → Launch) : (s.modLaunch n h).linksUp = s.linksUp := rfl
@[simp] theorem modLaunch_walkFails (s : State) (n : Nat) (h : Launch → Launch) : (s.modLaunch n h).walkFails = s.walkFails := rfl
@[simp] theorem modLaunch_sideLog (s : State) (n : Nat) (h : Launch → Launch) : (s.modLaunch n h).sideLog = s.sideLog := rfl
@[simp] theorem modLaunch_moor (s : State) (n : Nat) (h : Launch → Launch) : (s.modLaunch n h).moor = s.moor := rfl
@[simp] theorem modLaunch_dir (s : State) (n : Nat) (h : Launch → Launch) : (s.modLaunch n h).dir = s.dir := rfl
@[simp] theorem modLaunch_census (s : State) (n : Nat) (h : Launch → Launch) : (s.modLaunch n h).census = s.census := rfl
@[simp] theorem modLaunch_censusGen (s : State) (n : Nat) (h : Launch → Launch) : (s.modLaunch n h).censusGen = s.censusGen := rfl
@[simp] theorem modLaunch_exited (s : State) (n : Nat) (h : Launch → Launch) : (s.modLaunch n h).exited = s.exited := rfl
@[simp] theorem modLaunch_crews (s : State) (n : Nat) (h : Launch → Launch) : (s.modLaunch n h).crews = s.crews := rfl
@[simp] theorem modLaunch_nextLaunch (s : State) (n : Nat) (h : Launch → Launch) : (s.modLaunch n h).nextLaunch = s.nextLaunch := rfl
@[simp] theorem modLaunch_stops (s : State) (n : Nat) (h : Launch → Launch) : (s.modLaunch n h).stops = s.stops := rfl
@[simp] theorem modLaunch_accepted (s : State) (n : Nat) (h : Launch → Launch) : (s.modLaunch n h).accepted = s.accepted := rfl
@[simp] theorem modLaunch_copyJobs (s : State) (n : Nat) (h : Launch → Launch) : (s.modLaunch n h).copyJobs = s.copyJobs := rfl
@[simp] theorem modLaunch_nextJob (s : State) (n : Nat) (h : Launch → Launch) : (s.modLaunch n h).nextJob = s.nextJob := rfl
@[simp] theorem modLaunch_tcJobs (s : State) (n : Nat) (h : Launch → Launch) : (s.modLaunch n h).tcJobs = s.tcJobs := rfl
@[simp] theorem modLaunch_mxJobs (s : State) (n : Nat) (h : Launch → Launch) : (s.modLaunch n h).mxJobs = s.mxJobs := rfl
@[simp] theorem modLaunch_arrays (s : State) (n : Nat) (h : Launch → Launch) : (s.modLaunch n h).arrays = s.arrays := rfl
@[simp] theorem modLaunch_kicks (s : State) (n : Nat) (h : Launch → Launch) : (s.modLaunch n h).kicks = s.kicks := rfl
@[simp] theorem modLaunch_fifo (s : State) (n : Nat) (h : Launch → Launch) : (s.modLaunch n h).fifo = s.fifo := rfl
@[simp] theorem modLaunch_records (s : State) (n : Nat) (h : Launch → Launch) : (s.modLaunch n h).records = s.records := rfl
@[simp] theorem modLaunch_sessions (s : State) (n : Nat) (h : Launch → Launch) : (s.modLaunch n h).sessions = s.sessions := rfl
@[simp] theorem modLaunch_lens (s : State) (n : Nat) (h : Launch → Launch) : (s.modLaunch n h).lens = s.lens := rfl
@[simp] theorem modLaunch_dumps (s : State) (n : Nat) (h : Launch → Launch) : (s.modLaunch n h).dumps = s.dumps := rfl
@[simp] theorem modLaunch_samplers (s : State) (n : Nat) (h : Launch → Launch) : (s.modLaunch n h).samplers = s.samplers := rfl
@[simp] theorem modLaunch_lanes (s : State) (n : Nat) (h : Launch → Launch) : (s.modLaunch n h).lanes = s.lanes := rfl
@[simp] theorem modLaunch_energy (s : State) (n : Nat) (h : Launch → Launch) : (s.modLaunch n h).energy = s.energy := rfl
@[simp] theorem modLaunch_energyPj (s : State) (n : Nat) (h : Launch → Launch) : (s.modLaunch n h).energyPj = s.energyPj := rfl
@[simp] theorem modLaunch_moved (s : State) (n : Nat) (h : Launch → Launch) : (s.modLaunch n h).moved = s.moved := rfl
@[simp] theorem modLaunch_leftCrews (s : State) (n : Nat) (h : Launch → Launch) : (s.modLaunch n h).leftCrews = s.leftCrews := rfl
@[simp] theorem modLaunch_energyEarly (s : State) (n : Nat) (h : Launch → Launch) : (s.modLaunch n h).energyEarly = s.energyEarly := rfl
@[simp] theorem modLaunch_intervalAt (s : State) (n : Nat) (h : Launch → Launch) : (s.modLaunch n h).intervalAt = s.intervalAt := rfl
@[simp] theorem modLaunch_intervalTick (s : State) (n : Nat) (h : Launch → Launch) : (s.modLaunch n h).intervalTick = s.intervalTick := rfl
@[simp] theorem modLaunch_day (s : State) (n : Nat) (h : Launch → Launch) : (s.modLaunch n h).day = s.day := rfl
@[simp] theorem modLaunch_outbox (s : State) (n : Nat) (h : Launch → Launch) : (s.modLaunch n h).outbox = s.outbox := rfl
@[simp] theorem modLaunch_ctrl (s : State) (n : Nat) (h : Launch → Launch) : (s.modLaunch n h).ctrl = s.ctrl := rfl
@[simp] theorem modLaunch_inbound (s : State) (n : Nat) (h : Launch → Launch) : (s.modLaunch n h).inbound = s.inbound := rfl
@[simp] theorem modLaunch_nextReq (s : State) (n : Nat) (h : Launch → Launch) : (s.modLaunch n h).nextReq = s.nextReq := rfl
@[simp] theorem modLaunch_hostFails (s : State) (n : Nat) (h : Launch → Launch) : (s.modLaunch n h).hostFails = s.hostFails := rfl
@[simp] theorem modLaunch_replies (s : State) (n : Nat) (h : Launch → Launch) : (s.modLaunch n h).replies = s.replies := rfl
@[simp] theorem modLaunch_msix (s : State) (n : Nat) (h : Launch → Launch) : (s.modLaunch n h).msix = s.msix := rfl
@[simp] theorem modLaunch_aer (s : State) (n : Nat) (h : Launch → Launch) : (s.modLaunch n h).aer = s.aer := rfl
@[simp] theorem modLaunch_bringup (s : State) (n : Nat) (h : Launch → Launch) : (s.modLaunch n h).bringup = s.bringup := rfl
@[simp] theorem modLaunch_images (s : State) (n : Nat) (h : Launch → Launch) : (s.modLaunch n h).images = s.images := rfl
@[simp] theorem modLaunch_rollback (s : State) (n : Nat) (h : Launch → Launch) : (s.modLaunch n h).rollback = s.rollback := rfl
@[simp] theorem modLaunch_startDue (s : State) (n : Nat) (h : Launch → Launch) : (s.modLaunch n h).startDue = s.startDue := rfl
@[simp] theorem modLaunch_powerCap (s : State) (n : Nat) (h : Launch → Launch) : (s.modLaunch n h).powerCap = s.powerCap := rfl
@[simp] theorem modLaunch_hot (s : State) (n : Nat) (h : Launch → Launch) : (s.modLaunch n h).hot = s.hot := rfl
@[simp] theorem modLaunch_temps (s : State) (n : Nat) (h : Launch → Launch) : (s.modLaunch n h).temps = s.temps := rfl
@[simp] theorem modLaunch_dramErrors (s : State) (n : Nat) (h : Launch → Launch) : (s.modLaunch n h).dramErrors = s.dramErrors := rfl
@[simp] theorem modLaunch_corrected (s : State) (n : Nat) (h : Launch → Launch) : (s.modLaunch n h).corrected = s.corrected := rfl
@[simp] theorem modLaunch_badIc (s : State) (n : Nat) (h : Launch → Launch) : (s.modLaunch n h).badIc = s.badIc := rfl
@[simp] theorem modLaunch_badBufs (s : State) (n : Nat) (h : Launch → Launch) : (s.modLaunch n h).badBufs = s.badBufs := rfl
@[simp] theorem modLaunch_badDay (s : State) (n : Nat) (h : Launch → Launch) : (s.modLaunch n h).badDay = s.badDay := rfl
@[simp] theorem modLaunch_agenda (s : State) (n : Nat) (h : Launch → Launch) : (s.modLaunch n h).agenda = s.agenda := rfl
@[simp] theorem modLaunch_free (s : State) (n : Nat) (h : Launch → Launch) : (s.modLaunch n h).free = s.free := rfl

@[simp] theorem modCrew_now (s : State) (n c i : Nat) (h : Crew → Crew) : (s.modCrew n c i h).now = s.now := rfl
@[simp] theorem modCrew_timeBase (s : State) (n c i : Nat) (h : Crew → Crew) : (s.modCrew n c i h).timeBase = s.timeBase := rfl
@[simp] theorem modCrew_timeSlow (s : State) (n c i : Nat) (h : Crew → Crew) : (s.modCrew n c i h).timeSlow = s.timeSlow := rfl
@[simp] theorem modCrew_cur (s : State) (n c i : Nat) (h : Crew → Crew) : (s.modCrew n c i h).cur = s.cur := rfl
@[simp] theorem modCrew_issued (s : State) (n c i : Nat) (h : Crew → Crew) : (s.modCrew n c i h).issued = s.issued := rfl
@[simp] theorem modCrew_carry (s : State) (n c i : Nat) (h : Crew → Crew) : (s.modCrew n c i h).carry = s.carry := rfl
@[simp] theorem modCrew_units (s : State) (n c i : Nat) (h : Crew → Crew) : (s.modCrew n c i h).units = s.units := rfl
@[simp] theorem modCrew_tried (s : State) (n c i : Nat) (h : Crew → Crew) : (s.modCrew n c i h).tried = s.tried := rfl
@[simp] theorem modCrew_spent (s : State) (n c i : Nat) (h : Crew → Crew) : (s.modCrew n c i h).spent = s.spent := rfl
@[simp] theorem modCrew_groups (s : State) (n c i : Nat) (h : Crew → Crew) : (s.modCrew n c i h).groups = s.groups := rfl
@[simp] theorem modCrew_fresh (s : State) (n c i : Nat) (h : Crew → Crew) : (s.modCrew n c i h).fresh = s.fresh := rfl
@[simp] theorem modCrew_startSeq (s : State) (n c i : Nat) (h : Crew → Crew) : (s.modCrew n c i h).startSeq = s.startSeq := rfl
@[simp] theorem modCrew_mem (s : State) (n c i : Nat) (h : Crew → Crew) : (s.modCrew n c i h).mem = s.mem := rfl
@[simp] theorem modCrew_hostMem (s : State) (n c i : Nat) (h : Crew → Crew) : (s.modCrew n c i h).hostMem = s.hostMem := rfl
@[simp] theorem modCrew_peerMem (s : State) (n c i : Nat) (h : Crew → Crew) : (s.modCrew n c i h).peerMem = s.peerMem := rfl
@[simp] theorem modCrew_frameKey (s : State) (n c i : Nat) (h : Crew → Crew) : (s.modCrew n c i h).frameKey = s.frameKey := rfl
@[simp] theorem modCrew_keys (s : State) (n c i : Nat) (h : Crew → Crew) : (s.modCrew n c i h).keys = s.keys := rfl
@[simp] theorem modCrew_sealed (s : State) (n c i : Nat) (h : Crew → Crew) : (s.modCrew n c i h).sealed = s.sealed := rfl
@[simp] theorem modCrew_binPoison (s : State) (n c i : Nat) (h : Crew → Crew) : (s.modCrew n c i h).binPoison = s.binPoison := rfl
@[simp] theorem modCrew_frameModes (s : State) (n c i : Nat) (h : Crew → Crew) : (s.modCrew n c i h).frameModes = s.frameModes := rfl
@[simp] theorem modCrew_roots (s : State) (n c i : Nat) (h : Crew → Crew) : (s.modCrew n c i h).roots = s.roots := rfl
@[simp] theorem modCrew_pcieUp (s : State) (n c i : Nat) (h : Crew → Crew) : (s.modCrew n c i h).pcieUp = s.pcieUp := rfl
@[simp] theorem modCrew_outFrame (s : State) (n c i : Nat) (h : Crew → Crew) : (s.modCrew n c i h).outFrame = s.outFrame := rfl
@[simp] theorem modCrew_outFrames (s : State) (n c i : Nat) (h : Crew → Crew) : (s.modCrew n c i h).outFrames = s.outFrames := rfl
@[simp] theorem modCrew_bufs (s : State) (n c i : Nat) (h : Crew → Crew) : (s.modCrew n c i h).bufs = s.bufs := rfl
@[simp] theorem modCrew_tags (s : State) (n c i : Nat) (h : Crew → Crew) : (s.modCrew n c i h).tags = s.tags := rfl
@[simp] theorem modCrew_icache (s : State) (n c i : Nat) (h : Crew → Crew) : (s.modCrew n c i h).icache = s.icache := rfl
@[simp] theorem modCrew_tlbs (s : State) (n c i : Nat) (h : Crew → Crew) : (s.modCrew n c i h).tlbs = s.tlbs := rfl
@[simp] theorem modCrew_misses (s : State) (n c i : Nat) (h : Crew → Crew) : (s.modCrew n c i h).misses = s.misses := rfl
@[simp] theorem modCrew_heldMisses (s : State) (n c i : Nat) (h : Crew → Crew) : (s.modCrew n c i h).heldMisses = s.heldMisses := rfl
@[simp] theorem modCrew_asks (s : State) (n c i : Nat) (h : Crew → Crew) : (s.modCrew n c i h).asks = s.asks := rfl
@[simp] theorem modCrew_walkerEntry (s : State) (n c i : Nat) (h : Crew → Crew) : (s.modCrew n c i h).walkerEntry = s.walkerEntry := rfl
@[simp] theorem modCrew_allocatable (s : State) (n c i : Nat) (h : Crew → Crew) : (s.modCrew n c i h).allocatable = s.allocatable := rfl
@[simp] theorem modCrew_allocated (s : State) (n c i : Nat) (h : Crew → Crew) : (s.modCrew n c i h).allocated = s.allocated := rfl
@[simp] theorem modCrew_badFrames (s : State) (n c i : Nat) (h : Crew → Crew) : (s.modCrew n c i h).badFrames = s.badFrames := rfl
@[simp] theorem modCrew_retired (s : State) (n c i : Nat) (h : Crew → Crew) : (s.modCrew n c i h).retired = s.retired := rfl
@[simp] theorem modCrew_keyAsks (s : State) (n c i : Nat) (h : Crew → Crew) : (s.modCrew n c i h).keyAsks = s.keyAsks := rfl
@[simp] theorem modCrew_keyRefused (s : State) (n c i : Nat) (h : Crew → Crew) : (s.modCrew n c i h).keyRefused = s.keyRefused := rfl
@[simp] theorem modCrew_devid (s : State) (n c i : Nat) (h : Crew → Crew) : (s.modCrew n c i h).devid = s.devid := rfl
@[simp] theorem modCrew_route (s : State) (n c i : Nat) (h : Crew → Crew) : (s.modCrew n c i h).route = s.route := rfl
@[simp] theorem modCrew_linksUp (s : State) (n c i : Nat) (h : Crew → Crew) : (s.modCrew n c i h).linksUp = s.linksUp := rfl
@[simp] theorem modCrew_walkFails (s : State) (n c i : Nat) (h : Crew → Crew) : (s.modCrew n c i h).walkFails = s.walkFails := rfl
@[simp] theorem modCrew_sideLog (s : State) (n c i : Nat) (h : Crew → Crew) : (s.modCrew n c i h).sideLog = s.sideLog := rfl
@[simp] theorem modCrew_moor (s : State) (n c i : Nat) (h : Crew → Crew) : (s.modCrew n c i h).moor = s.moor := rfl
@[simp] theorem modCrew_dir (s : State) (n c i : Nat) (h : Crew → Crew) : (s.modCrew n c i h).dir = s.dir := rfl
@[simp] theorem modCrew_census (s : State) (n c i : Nat) (h : Crew → Crew) : (s.modCrew n c i h).census = s.census := rfl
@[simp] theorem modCrew_censusGen (s : State) (n c i : Nat) (h : Crew → Crew) : (s.modCrew n c i h).censusGen = s.censusGen := rfl
@[simp] theorem modCrew_exited (s : State) (n c i : Nat) (h : Crew → Crew) : (s.modCrew n c i h).exited = s.exited := rfl
@[simp] theorem modCrew_launches (s : State) (n c i : Nat) (h : Crew → Crew) : (s.modCrew n c i h).launches = s.launches := rfl
@[simp] theorem modCrew_nextLaunch (s : State) (n c i : Nat) (h : Crew → Crew) : (s.modCrew n c i h).nextLaunch = s.nextLaunch := rfl
@[simp] theorem modCrew_stops (s : State) (n c i : Nat) (h : Crew → Crew) : (s.modCrew n c i h).stops = s.stops := rfl
@[simp] theorem modCrew_accepted (s : State) (n c i : Nat) (h : Crew → Crew) : (s.modCrew n c i h).accepted = s.accepted := rfl
@[simp] theorem modCrew_copyJobs (s : State) (n c i : Nat) (h : Crew → Crew) : (s.modCrew n c i h).copyJobs = s.copyJobs := rfl
@[simp] theorem modCrew_nextJob (s : State) (n c i : Nat) (h : Crew → Crew) : (s.modCrew n c i h).nextJob = s.nextJob := rfl
@[simp] theorem modCrew_tcJobs (s : State) (n c i : Nat) (h : Crew → Crew) : (s.modCrew n c i h).tcJobs = s.tcJobs := rfl
@[simp] theorem modCrew_mxJobs (s : State) (n c i : Nat) (h : Crew → Crew) : (s.modCrew n c i h).mxJobs = s.mxJobs := rfl
@[simp] theorem modCrew_arrays (s : State) (n c i : Nat) (h : Crew → Crew) : (s.modCrew n c i h).arrays = s.arrays := rfl
@[simp] theorem modCrew_kicks (s : State) (n c i : Nat) (h : Crew → Crew) : (s.modCrew n c i h).kicks = s.kicks := rfl
@[simp] theorem modCrew_fifo (s : State) (n c i : Nat) (h : Crew → Crew) : (s.modCrew n c i h).fifo = s.fifo := rfl
@[simp] theorem modCrew_records (s : State) (n c i : Nat) (h : Crew → Crew) : (s.modCrew n c i h).records = s.records := rfl
@[simp] theorem modCrew_sessions (s : State) (n c i : Nat) (h : Crew → Crew) : (s.modCrew n c i h).sessions = s.sessions := rfl
@[simp] theorem modCrew_lens (s : State) (n c i : Nat) (h : Crew → Crew) : (s.modCrew n c i h).lens = s.lens := rfl
@[simp] theorem modCrew_dumps (s : State) (n c i : Nat) (h : Crew → Crew) : (s.modCrew n c i h).dumps = s.dumps := rfl
@[simp] theorem modCrew_samplers (s : State) (n c i : Nat) (h : Crew → Crew) : (s.modCrew n c i h).samplers = s.samplers := rfl
@[simp] theorem modCrew_lanes (s : State) (n c i : Nat) (h : Crew → Crew) : (s.modCrew n c i h).lanes = s.lanes := rfl
@[simp] theorem modCrew_energy (s : State) (n c i : Nat) (h : Crew → Crew) : (s.modCrew n c i h).energy = s.energy := rfl
@[simp] theorem modCrew_energyPj (s : State) (n c i : Nat) (h : Crew → Crew) : (s.modCrew n c i h).energyPj = s.energyPj := rfl
@[simp] theorem modCrew_moved (s : State) (n c i : Nat) (h : Crew → Crew) : (s.modCrew n c i h).moved = s.moved := rfl
@[simp] theorem modCrew_leftCrews (s : State) (n c i : Nat) (h : Crew → Crew) : (s.modCrew n c i h).leftCrews = s.leftCrews := rfl
@[simp] theorem modCrew_energyEarly (s : State) (n c i : Nat) (h : Crew → Crew) : (s.modCrew n c i h).energyEarly = s.energyEarly := rfl
@[simp] theorem modCrew_intervalAt (s : State) (n c i : Nat) (h : Crew → Crew) : (s.modCrew n c i h).intervalAt = s.intervalAt := rfl
@[simp] theorem modCrew_intervalTick (s : State) (n c i : Nat) (h : Crew → Crew) : (s.modCrew n c i h).intervalTick = s.intervalTick := rfl
@[simp] theorem modCrew_day (s : State) (n c i : Nat) (h : Crew → Crew) : (s.modCrew n c i h).day = s.day := rfl
@[simp] theorem modCrew_outbox (s : State) (n c i : Nat) (h : Crew → Crew) : (s.modCrew n c i h).outbox = s.outbox := rfl
@[simp] theorem modCrew_ctrl (s : State) (n c i : Nat) (h : Crew → Crew) : (s.modCrew n c i h).ctrl = s.ctrl := rfl
@[simp] theorem modCrew_inbound (s : State) (n c i : Nat) (h : Crew → Crew) : (s.modCrew n c i h).inbound = s.inbound := rfl
@[simp] theorem modCrew_nextReq (s : State) (n c i : Nat) (h : Crew → Crew) : (s.modCrew n c i h).nextReq = s.nextReq := rfl
@[simp] theorem modCrew_hostFails (s : State) (n c i : Nat) (h : Crew → Crew) : (s.modCrew n c i h).hostFails = s.hostFails := rfl
@[simp] theorem modCrew_replies (s : State) (n c i : Nat) (h : Crew → Crew) : (s.modCrew n c i h).replies = s.replies := rfl
@[simp] theorem modCrew_msix (s : State) (n c i : Nat) (h : Crew → Crew) : (s.modCrew n c i h).msix = s.msix := rfl
@[simp] theorem modCrew_aer (s : State) (n c i : Nat) (h : Crew → Crew) : (s.modCrew n c i h).aer = s.aer := rfl
@[simp] theorem modCrew_bringup (s : State) (n c i : Nat) (h : Crew → Crew) : (s.modCrew n c i h).bringup = s.bringup := rfl
@[simp] theorem modCrew_images (s : State) (n c i : Nat) (h : Crew → Crew) : (s.modCrew n c i h).images = s.images := rfl
@[simp] theorem modCrew_rollback (s : State) (n c i : Nat) (h : Crew → Crew) : (s.modCrew n c i h).rollback = s.rollback := rfl
@[simp] theorem modCrew_startDue (s : State) (n c i : Nat) (h : Crew → Crew) : (s.modCrew n c i h).startDue = s.startDue := rfl
@[simp] theorem modCrew_powerCap (s : State) (n c i : Nat) (h : Crew → Crew) : (s.modCrew n c i h).powerCap = s.powerCap := rfl
@[simp] theorem modCrew_hot (s : State) (n c i : Nat) (h : Crew → Crew) : (s.modCrew n c i h).hot = s.hot := rfl
@[simp] theorem modCrew_temps (s : State) (n c i : Nat) (h : Crew → Crew) : (s.modCrew n c i h).temps = s.temps := rfl
@[simp] theorem modCrew_dramErrors (s : State) (n c i : Nat) (h : Crew → Crew) : (s.modCrew n c i h).dramErrors = s.dramErrors := rfl
@[simp] theorem modCrew_corrected (s : State) (n c i : Nat) (h : Crew → Crew) : (s.modCrew n c i h).corrected = s.corrected := rfl
@[simp] theorem modCrew_badIc (s : State) (n c i : Nat) (h : Crew → Crew) : (s.modCrew n c i h).badIc = s.badIc := rfl
@[simp] theorem modCrew_badBufs (s : State) (n c i : Nat) (h : Crew → Crew) : (s.modCrew n c i h).badBufs = s.badBufs := rfl
@[simp] theorem modCrew_badDay (s : State) (n c i : Nat) (h : Crew → Crew) : (s.modCrew n c i h).badDay = s.badDay := rfl
@[simp] theorem modCrew_agenda (s : State) (n c i : Nat) (h : Crew → Crew) : (s.modCrew n c i h).agenda = s.agenda := rfl
@[simp] theorem modCrew_free (s : State) (n c i : Nat) (h : Crew → Crew) : (s.modCrew n c i h).free = s.free := rfl

@[simp] theorem group_modSplit_core (g : Group) (i : Nat) (h : Split → Split) : (g.modSplit i h).core = g.core := rfl
@[simp] theorem group_modSplit_slot (g : Group) (i : Nat) (h : Split → Split) : (g.modSplit i h).slot = g.slot := rfl
@[simp] theorem group_modSplit_launch (g : Group) (i : Nat) (h : Split → Split) : (g.modSplit i h).launch = g.launch := rfl
@[simp] theorem group_modSplit_crew (g : Group) (i : Nat) (h : Split → Split) : (g.modSplit i h).crew = g.crew := rfl
@[simp] theorem group_modSplit_gidx (g : Group) (i : Nat) (h : Split → Split) : (g.modSplit i h).gidx = g.gidx := rfl
@[simp] theorem group_modSplit_nv (g : Group) (i : Nat) (h : Split → Split) : (g.modSplit i h).nv = g.nv := rfl
@[simp] theorem group_modSplit_ns (g : Group) (i : Nat) (h : Split → Split) : (g.modSplit i h).ns = g.ns := rfl
@[simp] theorem group_modSplit_v (g : Group) (i : Nat) (h : Split → Split) : (g.modSplit i h).v = g.v := rfl
@[simp] theorem group_modSplit_s (g : Group) (i : Nat) (h : Split → Split) : (g.modSplit i h).s = g.s := rfl
@[simp] theorem group_modSplit_p (g : Group) (i : Nat) (h : Split → Split) : (g.modSplit i h).p = g.p := rfl
@[simp] theorem group_modSplit_absent (g : Group) (i : Nat) (h : Split → Split) : (g.modSplit i h).absent = g.absent := rfl
@[simp] theorem group_modSplit_fstat (g : Group) (i : Nat) (h : Split → Split) : (g.modSplit i h).fstat = g.fstat := rfl
@[simp] theorem group_modSplit_late (g : Group) (i : Nat) (h : Split → Split) : (g.modSplit i h).late = g.late := rfl
@[simp] theorem group_modSplit_cause (g : Group) (i : Nat) (h : Split → Split) : (g.modSplit i h).cause = g.cause := rfl
@[simp] theorem group_modSplit_epc (g : Group) (i : Nat) (h : Split → Split) : (g.modSplit i h).epc = g.epc := rfl
@[simp] theorem group_modSplit_eregion (g : Group) (i : Nat) (h : Split → Split) : (g.modSplit i h).eregion = g.eregion := rfl
@[simp] theorem group_modSplit_ecount (g : Group) (i : Nat) (h : Split → Split) : (g.modSplit i h).ecount = g.ecount := rfl
@[simp] theorem group_modSplit_tvec (g : Group) (i : Nat) (h : Split → Split) : (g.modSplit i h).tvec = g.tvec := rfl
@[simp] theorem group_modSplit_scheck (g : Group) (i : Nat) (h : Split → Split) : (g.modSplit i h).scheck = g.scheck := rfl
@[simp] theorem group_modSplit_role (g : Group) (i : Nat) (h : Split → Split) : (g.modSplit i h).role = g.role := rfl
@[simp] theorem group_modSplit_hdepth (g : Group) (i : Nat) (h : Split → Split) : (g.modSplit i h).hdepth = g.hdepth := rfl
@[simp] theorem group_modSplit_trapSplit (g : Group) (i : Nat) (h : Split → Split) : (g.modSplit i h).trapSplit = g.trapSplit := rfl
@[simp] theorem group_modSplit_heldSplits (g : Group) (i : Nat) (h : Split → Split) : (g.modSplit i h).heldSplits = g.heldSplits := rfl
@[simp] theorem group_modSplit_domain (g : Group) (i : Nat) (h : Split → Split) : (g.modSplit i h).domain = g.domain := rfl
@[simp] theorem group_modSplit_privileged (g : Group) (i : Nat) (h : Split → Split) : (g.modSplit i h).privileged = g.privileged := rfl
@[simp] theorem group_modSplit_perf (g : Group) (i : Nat) (h : Split → Split) : (g.modSplit i h).perf = g.perf := rfl
@[simp] theorem group_modSplit_startSeq (g : Group) (i : Nat) (h : Split → Split) : (g.modSplit i h).startSeq = g.startSeq := rfl
@[simp] theorem group_modSplit_nextAge (g : Group) (i : Nat) (h : Split → Split) : (g.modSplit i h).nextAge = g.nextAge := rfl
@[simp] theorem group_modSplit_nextSeq (g : Group) (i : Nat) (h : Split → Split) : (g.modSplit i h).nextSeq = g.nextSeq := rfl
@[simp] theorem group_modSplit_status (g : Group) (i : Nat) (h : Split → Split) : (g.modSplit i h).status = g.status := rfl
@[simp] theorem group_modSplit_hist (g : Group) (i : Nat) (h : Split → Split) : (g.modSplit i h).hist = g.hist := rfl
@[simp] theorem group_modSplit_infl (g : Group) (i : Nat) (h : Split → Split) : (g.modSplit i h).infl = g.infl := rfl
@[simp] theorem group_modSplit_faults (g : Group) (i : Nat) (h : Split → Split) : (g.modSplit i h).faults = g.faults := rfl
@[simp] theorem group_modSplit_longs (g : Group) (i : Nat) (h : Split → Split) : (g.modSplit i h).longs = g.longs := rfl
@[simp] theorem group_modSplit_resp (g : Group) (i : Nat) (h : Split → Split) : (g.modSplit i h).resp = g.resp := rfl
@[simp] theorem group_modSplit_walk (g : Group) (i : Nat) (h : Split → Split) : (g.modSplit i h).walk = g.walk := rfl
@[simp] theorem group_modSplit_walkAt (g : Group) (i : Nat) (h : Split → Split) : (g.modSplit i h).walkAt = g.walkAt := rfl
@[simp] theorem group_modSplit_walkFilled (g : Group) (i : Nat) (h : Split → Split) : (g.modSplit i h).walkFilled = g.walkFilled := rfl
@[simp] theorem group_modSplit_walkStale (g : Group) (i : Nat) (h : Split → Split) : (g.modSplit i h).walkStale = g.walkStale := rfl
@[simp] theorem group_modSplit_ctx (g : Group) (i : Nat) (h : Split → Split) : (g.modSplit i h).ctx = g.ctx := rfl
@[simp] theorem group_modSplit_stepping (g : Group) (i : Nat) (h : Split → Split) : (g.modSplit i h).stepping = g.stepping := rfl
@[simp] theorem group_modSplit_markLoss (g : Group) (i : Nat) (h : Split → Split) : (g.modSplit i h).markLoss = g.markLoss := rfl
@[simp] theorem group_modSplit_stored (g : Group) (i : Nat) (h : Split → Split) : (g.modSplit i h).stored = g.stored := rfl
@[simp] theorem group_modSplit_haltedAt (g : Group) (i : Nat) (h : Split → Split) : (g.modSplit i h).haltedAt = g.haltedAt := rfl
@[simp] theorem group_modSplit_parked (g : Group) (i : Nat) (h : Split → Split) : (g.modSplit i h).parked = g.parked := rfl
@[simp] theorem group_modSplit_stepIssued (g : Group) (i : Nat) (h : Split → Split) : (g.modSplit i h).stepIssued = g.stepIssued := rfl
@[simp] theorem group_modSplit_bad (g : Group) (i : Nat) (h : Split → Split) : (g.modSplit i h).bad = g.bad := rfl
@[simp] theorem group_modSplit_pending (g : Group) (i : Nat) (h : Split → Split) : (g.modSplit i h).pending = g.pending := rfl
@[simp] theorem group_modSplit_perfAt (g : Group) (i : Nat) (h : Split → Split) : (g.modSplit i h).perfAt = g.perfAt := rfl
@[simp] theorem group_modSplit_resumeDue (g : Group) (i : Nat) (h : Split → Split) : (g.modSplit i h).resumeDue = g.resumeDue := rfl

end Sys2Proof.Machine
end

