-- ==== Sys2Proof/Laws/Ops.lean ====
section
/-! SUPPORT. What the shared operations can do, said once: carrying an instruction to its own effect, issuing it, and writing registers. -/

namespace Sys2Proof.Machine

/-! ## Carrying an instruction to its own effect -/

/-- The ends that one instruction can come to (R70, R73, R75, R187, R357). -/
theorem runOp_next {s t : State} {h : Head} {u : Use} {len : Nat} {body : Fr → State → Except Halt State}
    (ht : runOp s h u len body = .next t) :
    ∃ fr, s.frame? h = some fr ∧
      ((∃ c, decodeCause fr.g u = some c ∧ t = fr.s.takeTrap fr.key fr.sp.idx (fr.trap c)) ∨
        (decodeCause fr.g u = none ∧
          (fr.operandsPending u = true ∧ t = fr.s.stall fr.key fr.sp.idx ∨
            fr.badOperand u = true ∧ t = fr.s.takeTrap fr.key fr.sp.idx (fr.trap .regfileUncorrectable) ∨
            fr.deferredHit u = true ∧ t = fr.s.raiseDeferred fr.key fr.sp.idx fr.sp.pc ∨
            fr.undersized u = true ∧ t = fr.s.takeTrap fr.key fr.sp.idx (fr.trap .stallUndersized) ∨
            body fr (fr.issue u.cost len u.every) = .ok t ∨
            (∃ ti, body fr (fr.issue u.cost len u.every) = .error (.trap ti) ∧ t = fr.s.takeTrap fr.key fr.sp.idx ti) ∨
            (∃ s', body fr (fr.issue u.cost len u.every) = .error (.block s') ∧ t = s'.block fr.key fr.sp.idx) ∨
            body fr (fr.issue u.cost len u.every) = .error .full ∧ t = fr.s.waitFull fr.key fr.sp.idx ∨
            body fr (fr.issue u.cost len u.every) = .error .stall ∧ t = fr.s.stall fr.key fr.sp.idx))) := by
  unfold runOp at ht
  split at ht
  · cases ht
  · next fr hf =>
    refine ⟨fr, hf, ?_⟩
    have ht : fr.run u len body = t := by simpa using ht
    unfold Fr.run at ht
    split at ht
    · next c hc => exact .inl ⟨c, hc, ht.symm⟩
    · next hc =>
      refine .inr ⟨hc, ?_⟩
      split at ht
      · next h1 => exact .inl ⟨h1, ht.symm⟩
      · split at ht
        · next h1 => exact .inr (.inl ⟨h1, ht.symm⟩)
        · split at ht
          · next h1 => exact .inr (.inr (.inl ⟨h1, ht.symm⟩))
          · split at ht
            · next h1 => exact .inr (.inr (.inr (.inl ⟨h1, ht.symm⟩)))
            · refine .inr (.inr (.inr (.inr ?_)))
              split at ht
              · next s1 hb => exact .inl (by rw [hb, ht])
              · next ti hb => exact .inr (.inl ⟨ti, hb, ht.symm⟩)
              · next s1 hb => exact .inr (.inr (.inl ⟨s1, hb, ht.symm⟩))
              · next hb => exact .inr (.inr (.inr (.inl ⟨hb, ht.symm⟩)))
              · next hb => exact .inr (.inr (.inr (.inr ⟨hb, ht.symm⟩)))

/-- Where nothing comes before its own effect, an instruction's end is that of its body. -/
theorem runOp_reaches {s : State} {h : Head} {u : Use} {len : Nat} {body : Fr → State → Except Halt State} {fr : Fr}
    (hr : Safety.Reaches s h u fr) :
    runOp s h u len body = .next (match body fr (fr.issue u.cost len u.every) with
      | .ok t => t
      | .error (.trap ti) => fr.s.takeTrap fr.key fr.sp.idx ti
      | .error (.block t) => t.block fr.key fr.sp.idx
      | .error .full => fr.s.waitFull fr.key fr.sp.idx
      | .error .stall => fr.s.stall fr.key fr.sp.idx) := by
  simp only [runOp, hr.executor, Fr.run, hr.decodes, hr.operands, hr.storage, hr.faults, hr.stall]
  rfl

/-- A decode check that fails is the whole of an instruction (R70). -/
theorem runOp_decodeCause {s : State} {h : Head} {u : Use} {len : Nat} {body : Fr → State → Except Halt State} {fr : Fr} {c : Cause}
    (hf : s.frame? h = some fr) (hc : decodeCause fr.g u = some c) :
    runOp s h u len body = .next (fr.s.takeTrap fr.key fr.sp.idx (fr.trap c)) := by
  simp only [runOp, hf, Fr.run, hc]

/-- With no split to execute it, an instruction faults by name. -/
theorem runOp_noExecutor {s : State} {h : Head} {u : Use} {len : Nat} {body : Fr → State → Except Halt State} (hf : s.frame? h = none) :
    runOp s h u len body = .fault .noExecutor := by
  simp only [runOp, hf]

/-! ## Issue -/

@[simp] theorem answered_groups (s : State) (k i : Nat) : (s.answered k i).groups = s.groups := rfl
@[simp] theorem answered_mem (s : State) (k i : Nat) : (s.answered k i).mem = s.mem := rfl

@[simp] theorem issue_mem (fr : Fr) (cost len : Nat) (every : Bool) : (fr.issue cost len every).mem = fr.s.mem := rfl
@[simp] theorem issue_bufs (fr : Fr) (cost len : Nat) (every : Bool) : (fr.issue cost len every).bufs = fr.s.bufs := rfl
@[simp] theorem issue_launches (fr : Fr) (cost len : Nat) (every : Bool) : (fr.issue cost len every).launches = fr.s.launches := rfl
@[simp] theorem issue_free (fr : Fr) (cost len : Nat) (every : Bool) : (fr.issue cost len every).free = fr.s.free + 1 := rfl

/-- Issue leaves every other group as it was. -/
theorem issue_group?_ne (fr : Fr) (cost len : Nat) (every : Bool) {k : Nat} (h : k ≠ fr.key) :
    (fr.issue cost len every).group? k = fr.s.group? k :=
  mapFind_mapInsert_ne h _ _

/-- The issuing group keeps its registers. -/
theorem issue_group?_same (fr : Fr) (cost len : Nat) (every : Bool) :
    ∃ g, (fr.issue cost len every).group? fr.key = some g ∧ g.v = fr.g.v ∧ g.s = fr.g.s ∧ g.p = fr.g.p ∧ g.fstat = fr.g.fstat ∧
      Safety.special g = Safety.special fr.g :=
  ⟨_, mapFind_mapInsert_same _ _ _, rfl, rfl, rfl, rfl, rfl⟩

@[simp] theorem block_mem (s : State) (k i : Nat) : (s.block k i).mem = s.mem := by simp [State.block]
@[simp] theorem waitFull_mem (s : State) (k i : Nat) : (s.waitFull k i).mem = s.mem := by simp [State.waitFull]
@[simp] theorem stall_mem (s : State) (k i : Nat) : (s.stall k i).mem = s.mem := by simp [State.stall]

/-! ## Registers -/

@[simp] theorem kill_v (g : Group) (i : Nat) (vec : Bool) (r : Nat) (m : BitVec 32) : (g.kill i vec r m).v = g.v := rfl
@[simp] theorem kill_s (g : Group) (i : Nat) (vec : Bool) (r : Nat) (m : BitVec 32) : (g.kill i vec r m).s = g.s := rfl
@[simp] theorem kill_p (g : Group) (i : Nat) (vec : Bool) (r : Nat) (m : BitVec 32) : (g.kill i vec r m).p = g.p := rfl

@[simp] theorem mend_v (g : Group) (ks : List Nat) : (g.mend ks).v = g.v := by unfold Group.mend; split <;> rfl
@[simp] theorem mend_s (g : Group) (ks : List Nat) : (g.mend ks).s = g.s := by unfold Group.mend; split <;> rfl
@[simp] theorem mend_p (g : Group) (ks : List Nat) : (g.mend ks).p = g.p := by unfold Group.mend; split <;> rfl
@[simp] theorem mend_fstat (g : Group) (ks : List Nat) : (g.mend ks).fstat = g.fstat := by unfold Group.mend; split <;> rfl
@[simp] theorem mend_splits (g : Group) (ks : List Nat) : (g.mend ks).splits = g.splits := by unfold Group.mend; split <;> rfl

/-- What a register write leaves of a group (R61, R74). -/
theorem write_frame (g : Group) (i : Nat) (w : Wr) :
    (g.write i w).fstat = g.fstat ∧ (g.write i w).splits = g.splits ∧ Safety.special (g.write i w) = Safety.special g := by
  cases w with
  | p r vals =>
    simp only [Group.write]
    generalize (if vals.length = 32 then [predBadKey r] else []) = ks
    unfold Group.mend; split <;> exact ⟨rfl, rfl, rfl⟩
  | v r vals =>
    simp only [Group.write]
    split
    · exact ⟨rfl, rfl, rfl⟩
    · unfold Group.mend; split <;> exact ⟨rfl, rfl, rfl⟩
  | s r x =>
    simp only [Group.write]
    split
    · exact ⟨rfl, rfl, rfl⟩
    · unfold Group.mend; split <;> exact ⟨rfl, rfl, rfl⟩

/-- Index 80 discards a write (R61). -/
theorem write_zero (g : Group) (i r : Nat) (h : 80 ≤ r) (vals : List (Nat × Word)) (w : Word) :
    g.write i (.v r vals) = g ∧ g.write i (.s r w) = g := by
  simp [Group.write, h]

/-- A scalar register reads as it was last written; the others are as before. -/
theorem sreg_write_s (g : Group) (i r q : Nat) (w : Word) (hr : r < 80) (hq : q < 80) :
    (g.write i (.s r w)).sreg q = if q = r then w else g.sreg q := by
  have h1 : ¬ 80 ≤ r := by omega
  have h2 : ¬ 80 ≤ q := by omega
  simp only [Group.sreg, Group.write, h1, h2, if_false]
  exact mapGet_mapSet wzero g.s r q w

/-- A write of a vector register leaves the scalar registers, and the other way round. -/
theorem write_other_file (g : Group) (i r : Nat) (vals : List (Nat × Word)) (w : Word) (q l : Nat) :
    (g.write i (.v r vals)).sreg q = g.sreg q ∧ (g.write i (.s r w)).vreg q l = g.vreg q l := by
  constructor
  · simp only [Group.write]; split
    · rfl
    · simp [Group.sreg]
  · simp only [Group.write]; split
    · rfl
    · simp [Group.vreg]

end Sys2Proof.Machine
end

