-- ==== Sys2Proof/Tests/Slice0.lean ====
section
/-! SUPPORT. The model's own tests: words of the spec's encodings and what they decode to, an ill-formed term for each check of
WellFormed, single steps on a small state against results worked out by hand from the rules, and for each statement with hypotheses
states and operands that meet them. -/

open Sys2Proof Sys2Proof.Machine Sys2Proof.Safety

namespace Sys2Proof.Tests

set_option Elab.async false

/-! ## A small state -/

/-- A head with a stall count, a predicate index and a sense. -/
def hd (stall pred : Nat) (sense : Int) : Head := ⟨Tern.ofIndex 2 stall, Tern.ofIndex 2 pred, Tern.ofInt 1 sense⟩
/-- No predicate, no stall. -/
def h0 : Head := hd 0 8 0
/-- Predicated on c0 being +1. -/
def hp : Head := hd 0 0 1
def reg (n : Nat) : Tern 4 := Tern.ofIndex 4 n
def word (x : Int) : Word := Tern.ofInt 27 x
def addr (x : Int) : Addr := Tern.ofInt 54 x
/-- Format R with shape, overflow mode and source. -/
def rf (h : Head) (d a b : Nat) (shape ovf src : Int) : RFmt := ⟨h, reg d, reg a, reg b, Tern.ofInt 3 (9 * shape + 3 * ovf + src), Tern.ofInt 1 0⟩
/-- Format R with every field unused but D, A and B. -/
def rx (d a b : Nat) : RFmt := rf h0 d a b 0 0 0
def im (d a : Nat) (i : Int) : IFmt := ⟨h0, reg d, reg a, Tern.ofInt 8 i⟩
def mf (d a rec : Nat) (ofs : Int) : MFmt := ⟨h0, reg d, reg a, Tern.ofIndex 2 rec, Tern.ofInt 6 ofs⟩
def lf (r : RFmt) (ext : Int) : LFmt := ⟨r, word ext⟩
/-- The lowest address of a path, plus trytes: page position 0 of page 0 of the physical domain. -/
def low : Int := -(half 46 : Int)
/-- A global address of page `p` of the physical domain. -/
def phys (p : Nat) (ofs : Int) : Int := low + 59049 * p + ofs
/-- A buffer address: path -1 A, -2 W, -3 C, a RANK index and a tryte position. -/
def bufAddr (path : Int) (rank pos : Nat) : Int := path * 3 ^ 51 + ((rank : Int) - 4) * 3 ^ 49 + ((pos : Int) - (half 12 : Int))

/-- A group in slot `slot` of core 0 in launch 1: lanes 0 to 2 live, sixteen vector and eighty scalar registers. -/
def grp (slot : Nat) : Group :=
  { newGroup 0 slot (addr 3000) 7#32 with nv := 16, ns := 80, launch := 1, tvec := addr 9000, nextSeq := 5 }

/-- A region, a launch on cluster 0 with two groups in one crew per core, and its crew on core 0. -/
def lau : Launch :=
  { id := 1, queue := 0, index := 0, domain := 0, privileged := false, x := 0, y := 0, logw := 1, logh := 1, crewsPer := 1, groupsPer := 1
    nv := 8, ns := 80, aTiles := 4, wTiles := 4, cTiles := 4, sliceUs := 10, entry := addr 3000, seqEntry := azero, argptr := addr 42
    counter := azero, increment := 0, expectKi := 0, idempotent := false, gangBit := false, role := 0, jcb := azero, nslot := 0
    handler := addr 12000, laypos := 0, lcount := 0, waitTo := 5, tkAge := 0, drain := 1, foot := []
    records := List.replicate 8 (List.replicate 12 wzero), layouts := [], started := true, complete := false, placed := [(0, 0)]
    crewsEnded := []
    shares := [{ cluster := 0, state := .resident, slice := 0, savedGroups := [], savedCrews := [], savedBufs := [], savedTags := []
                 savedLog := [], savedJobs := [], savedArrays := [], kept := [], asked := false, replaying := false }]
    gang := none, gangState := .no, armedAt := 0, armedReports := [], memberLost := false, xbarGen := 1, xbarAbsent := [], seqMoved := 0, seqLeft := [], ctxs := []
    dbg := DebugSet.none, halted := none, haltedAt := 0, tkReclaimed := 0, seqEnergy := 0, seqEnergyPj := 0, crewEnergy := 0
    seqEnergyCr := 0, abort := none }

def cre : Crew :=
  { newCrew lau 0 0 0 [0, 0, 0] with records := List.replicate 8 (List.replicate 12 wzero) }

/-- The machine with one launch, one crew and one group, which executes. -/
def mach (g : Group) : State :=
  { State.reset with groups := [(0, g)], launches := [lau], crews := [cre], ctrl := { State.reset.ctrl with ready := true } }

/-- A group with scalar registers, given as register and value. -/
def withS (g : Group) (rs : List (Nat × Int)) : Group := { g with s := rs.foldl (fun m e => mapSet wzero m e.1 (word e.2)) g.s }
/-- A pair of scalar registers. -/
def withP (g : Group) (r : Nat) (a : Int) : Group :=
  { g with s := mapSet wzero (mapSet wzero g.s r (pairLo (addr a))) (r + 1) (pairHi (addr a)) }
/-- Vector registers, as register, lane and value. -/
def withV (g : Group) (rs : List (Nat × Nat × Int)) : Group :=
  { g with v := rs.foldl (fun m e => mapSet wzero m (32 * e.1 + e.2.1) (word e.2.2)) g.v }
/-- A lane's pair of vector registers. -/
def withVP (g : Group) (r : Nat) (as : List (Nat × Int)) : Group :=
  withV g (as.flatMap (fun e => [(r, e.1, (pairLo (addr e.2)).val), (r + 1, e.1, (pairHi (addr e.2)).val)]))
/-- Predicate trits, as register, lane and value. -/
def withC (g : Group) (rs : List (Nat × Nat × Int)) : Group :=
  { g with p := rs.foldl (fun m e => mapSet (Tern.zero 1) m (32 * e.1 + e.2.1) (Tern.ofInt 1 e.2.2)) g.p }
/-- Its first split changed. -/
def withX (g : Group) (f : Split → Split) : Group := { g with splits := match g.splits with | x :: t => f x :: t | [] => [] }

/-- The next state of an instruction, or the same state where it stops. -/
def after (i : Instr) (s : State) : State := match exec i s with | .next t => t | _ => s
def goes (i : Instr) (s : State) : Bool := match exec i s with | .next _ => true | _ => false
/-- A scalar, a lane of a vector register, the PC of the first split, and the last cause of group 0. -/
def sOf (s : State) (r : Nat) : Int := match s.group? 0 with | some g => (g.sreg r).val | none => 0
def vOf (s : State) (r l : Nat) : Int := match s.group? 0 with | some g => (g.vreg r l).val | none => 0
def cOf (s : State) (r l : Nat) : Int := match s.group? 0 with | some g => (g.preg r l).val | none => 0
def pcOf (s : State) : Int := match s.group? 0 with | some g => (match g.splits with | x :: _ => x.pc.val | [] => 0) | none => 0
def codeOf (s : State) : Int := match s.group? 0 with | some g => (g.cause.field 0 5).val | none => 0

/-! ## Meeting hypotheses -/

/-- Some frame of the state reaches the instruction's own effect and meets a condition. -/
def Met (s : State) (h : Head) (u : Use) (P : Fr → Prop) : Prop := ∃ fr, Reaches s h u fr ∧ P fr

/-- The same, computed. -/
def metB (s : State) (h : Head) (u : Use) (P : Fr → Bool) : Bool :=
  match s.frame? h with
  | none => false
  | some fr => (decodeCause fr.g u).isNone && !fr.operandsPending u && !fr.badOperand u && !fr.deferredHit u && !fr.undersized u && P fr

theorem Met.of {s : State} {h : Head} {u : Use} {P : Fr → Prop} [DecidablePred P]
    (hm : metB s h u (fun fr => decide (P fr)) = true) : Met s h u P := by
  unfold metB at hm
  split at hm
  · cases hm
  · next fr hf =>
    simp only [Bool.and_eq_true, Bool.not_eq_true', Option.isNone_iff_eq_none, decide_eq_true_eq] at hm
    exact ⟨fr, ⟨hf, hm.1.1.1.1.1, hm.1.1.1.1.2, hm.1.1.1.2, hm.1.1.2, hm.1.2⟩, hm.2⟩

/-- A lane's result is a value, or is a cause. -/
def good {ε α : Type} (r : Except ε α) : Bool := match r with | .ok _ => true | .error _ => false
def fails {α : Type} (c : Cause) (r : Except Cause α) : Bool := match r with | .ok _ => false | .error e => e == c


/-! ## The statements on registers -/

/-- All lanes have a result; no lane is active; the third lane is the first without one; shift counts past and at the width; the last
allocated register and the zero register. -/
theorem witness_IntegerForms :
    Met (mach (withV (grp 0) [(1, 0, 5), (2, 0, 3)])) h0 (elemUse (rf h0 3 1 2 0 0 (-1)) true false true true)
      (fun fr => fr.any = true ∧ ∀ l ∈ fr.formLanes true, good (byElement (rf h0 3 1 2 0 0 (-1)) (fun n a b _ => narrow 0 n (a + b)) fr l) = true) ∧
    Met (mach (grp 0)) hp (elemUse (rf hp 3 1 2 0 0 (-1)) true true true true) (fun fr => fr.any = false) ∧
    Met (mach (withV (grp 0) [(1, 2, 9841), (2, 2, 1)])) h0 (elemUse (rf h0 3 1 2 (-1) 1 (-1)) true false true true)
      (fun fr => fr.any = true ∧ fr.formLanes true = [0, 1] ++ 2 :: [] ∧
        (∀ k ∈ [0, 1], good (byElement (rf h0 3 1 2 (-1) 1 (-1)) (fun n a b _ => narrow 1 n (a + b)) fr k) = true) ∧
        fails .intOverflow (byElement (rf h0 3 1 2 (-1) 1 (-1)) (fun n a b _ => narrow 1 n (a + b)) fr 2) = true) ∧
    Met (mach (withS (grp 0) [(1, 1), (2, 28)])) h0 (elemUse (rf h0 3 1 2 0 0 0) true false true true) (fun fr => (fr.readS 2 2).val = 28) ∧
    Met (mach (withS (grp 0) [(1, 1), (2, 27)])) h0 (elemUse (rf h0 3 1 2 0 0 0) true false true false) (fun fr => (fr.readS 2 2).val = 27) ∧
    Met (mach (grp 0)) h0 (elemUse (rf h0 80 79 40 1 0 0) false false true false) (fun fr => fr.formLanes false = [0]) := by
  and_intros <;> exact Met.of (by decide +kernel)

theorem witness_TritwiseForms :
    Met (mach (grp 0)) h0 (elemUse (rf h0 15 0 1 0 0 (-1)) true false false false) (fun fr => fr.any = true) ∧
    Met (mach (grp 0)) hp (elemUse (rf hp 3 1 2 0 0 1) true false false false) (fun fr => fr.any = false) ∧
    Met (mach (grp 0)) h0 { vector := true, opds := [regOpd true 80 false true, regOpd false 79 true false] } (fun fr => fr.any = true) := by
  and_intros <;> exact Met.of (by decide +kernel)

/-- Lanes 31 and 32 of SHUF; a reduction that fits; one that traps in every lane; a prefix that traps in the second. -/
theorem witness_CrossLaneForms :
    Met (mach (withS (grp 0) [(2, 31)])) h0 (crossUse (rf h0 3 1 2 0 0 1) false false true) (fun fr => (fr.readS 2 2).val = 31 ∧ fr.any = true) ∧
    Met (mach (withS (grp 0) [(2, 32)])) h0 (crossUse (rf h0 3 1 2 0 0 1) false false true) (fun fr => (fr.readS 2 2).val = 32) ∧
    Met (mach (withV (grp 0) [(1, 0, 9), (1, 1, 6)])) h0 (crossUse (rf h0 3 1 40 1 0 (-1)) true true false)
      (fun fr => fr.any = true ∧ good (narrow 0 3 (fr.lanes.map (fun k => el (fr.readV 1 1 k 3) 0 3)).sum) = true) ∧
    Met (mach (withV (grp 0) [(1, 0, 9), (1, 1, 6)])) h0 (crossUse (rf h0 3 1 40 1 1 (-1)) true true false)
      (fun fr => fr.any = true ∧ fr.formLanes true = [0] ++ 1 :: [2] ∧
        good (narrow 1 3 ((fr.lanes.filter (fun k => decide (k ≤ 0))).map (fun k => el (fr.readV 1 1 k 3) 0 3)).sum) = true ∧
        fails .intOverflow (narrow 1 3 ((fr.lanes.filter (fun k => decide (k ≤ 1))).map (fun k => el (fr.readV 1 1 k 3) 0 3)).sum) = true) ∧
    Met (mach (grp 0)) h0 { vector := true, resv := resvPred h0 || resvReg (reg 40), opds := [regOpd true 3 false true, predOpd 7 true false] }
      (fun fr => fr.any = true) := by
  and_intros <;> exact Met.of (by decide +kernel)

theorem witness_ImmediateForms :
    Met (mach (grp 0)) h0 (immUse (im 3 1 (1093 - 2187)) true) (fun fr => fr.any = true ∧ fr.formLanes true = [0, 1, 2]) ∧
    Met (mach (grp 0)) h0 (immUse (im 3 1 27) true false (immCount (im 3 1 27))) (fun fr => fr.any = true) ∧
    Met (mach (grp 0)) h0 (fieldUse (im 3 1 ((0 - 13) * 81 + (26 - 13) * 3)) true) (fun fr => fr.any = true) ∧
    Met (mach (grp 0)) h0 (subUse (im 3 1 2) true) (fun fr => fr.any = true) ∧
    Met (mach (grp 0)) h0 { vector := true, resv := resvPred h0, opds := [regOpd true 15 false true] } (fun fr => fr.any = true) ∧
    Met (mach (grp 0)) h0 { opds := [regOpd false 79 false true] } (fun fr => fr.any = true) ∧
    Met (mach (withS (grp 0) [(2, -31)])) h0
      { vector := true, opds := [regOpd true 3 false true, regOpd false 1 true false, regOpd false 2 true false] }
      (fun fr => fr.act.getLsbD ((fr.readS 2 2).val % 32).toNat = true) ∧
    Met (mach (withS (grp 0) [(2, 31)])) h0
      { vector := true, opds := [regOpd true 3 false true, regOpd false 1 true false, regOpd false 2 true false] }
      (fun fr => fr.act.getLsbD ((fr.readS 2 2).val % 32).toNat = false) := by
  and_intros <;> exact Met.of (by decide +kernel)

/-- A vector and a scalar source; predicate registers 0 and 7; SEL with a predicate, and without one. -/
theorem witness_PredicateForms :
    Met (mach (grp 0)) h0 { vector := true, opds := [predOpd 7 false true, regOpd true 0 true false, regOpd true 15 true false] }
      (fun fr => fr.any = true) ∧
    Met (mach (grp 0)) h0 (predUse (rf h0 0 7 1 0 0 0) true) (fun fr => fr.any = true) ∧
    Met (mach (grp 0)) h0 { vector := kVec (im 2 1 (-1093 - 2187)).k, opds := [predOpd 2 false true, regOpd true 1 true false] } (fun fr => fr.any = true) ∧
    Met (mach (grp 0)) h0 { vector := true, cost := fmtCost 0, opds := [predOpd 1 false true, fOpd true 0 1 true false, fOpd true 0 2 true false] }
      (fun fr => fr.any = true) ∧
    Met (mach (withC (grp 0) [(0, 0, 1), (0, 2, -1)])) h0
      { vector := true, every := true, opds := [regOpd true 3 true true, regOpd true 1 true false, regOpd true 2 true false] ++ [predOpd 0 true false] }
      (fun fr => fr.readP 0 0 = 1 ∧ fr.readP 0 1 = 0 ∧ fr.readP 0 2 = -1) ∧
    Met (mach (grp 0)) h0 { every := true, opds := [regOpd false 3 true true, regOpd false 1 true false, regOpd false 2 true false] ++ [] }
      (fun fr => fr.lanes = [0, 1, 2]) := by
  and_intros <;> exact Met.of (by decide +kernel)

/-- Every lane has a result; none is active; a NaN element traps in the trapping mode; two words of TF54. -/
theorem witness_FloatForms :
    Met (mach (grp 0)) h0 (floatUse (rf h0 3 1 2 0 0 (-1)) true false true)
      (fun fr => fr.any = true ∧ ∀ l ∈ fr.formLanes true,
        good (fr.floatLane (rf h0 3 1 2 0 0 (-1)) true false (fun a b _ => (fadd (fval tf27 a) (fval tf27 b)).pack tf27 (ovfMode 0)) l) = true) ∧
    Met (mach (grp 0)) hp (floatUse (rf hp 4 2 6 1 1 (-1)) true true true) (fun fr => fr.any = false) ∧
    Met (mach (withV (grp 0) [(1, 0, nanCode)])) h0 (floatUse (rf h0 3 1 2 0 1 (-1)) true false true)
      (fun fr => fr.any = true ∧ fr.formLanes true = [] ++ 0 :: [1, 2] ∧
        fails .nanConsumed (fr.floatLane (rf h0 3 1 2 0 1 (-1)) true false (fun a b _ => (fadd (fval tf27 a) (fval tf27 b)).pack tf27 (ovfMode 1)) 0) = true) ∧
    Met (mach (grp 0)) h0 (floatUse (rf h0 14 2 6 1 0 (-1)) true false true) (fun fr => fr.any = true) ∧
    Met (mach (grp 0)) h0 { vector := true, cost := fmtCost (-1), opds := [fOpd true (-1) 3 true true, fOpd true 0 1 true false] } (fun fr => fr.any = true) := by
  and_intros <;> exact Met.of (by decide +kernel)

theorem witness_ComplexForms :
    Met (mach (grp 0)) h0 { floatUse (rf h0 4 2 6 0 0 (-1)) true true true with
        opds := [cOpd true 0 4 true true, cOpd true 0 2 true false, cOpd true 0 6 true false] } (fun fr => fr.any = true) ∧
    Met (mach (grp 0)) h0 { floatUse (rf h0 12 8 4 1 0 (-1)) true false true with
        opds := [cOpd true 1 12 false true, cOpd true 1 8 true false, cOpd true 1 4 true false] } (fun fr => fr.any = true) ∧
    Met (mach (grp 0)) h0 { floatUse (rf h0 3 1 40 0 0 (-1)) false false true with vector := true } (fun fr => fr.any = true) := by
  and_intros <;> exact Met.of (by decide +kernel)

/-- A result of the divider that waits in its unit: register 3 of lane 0. -/
def longGroup : Group :=
  { grp 0 with longs := [{ split := 0, lanes := 7#32, vec := true, parts := [(3, [(0, word 7)])], flags := Flags.none, float := false }] }

theorem witness_LongLatencyForms :
    Met (mach (withV (grp 0) [(1, 0, 8), (2, 0, 3), (2, 1, 1), (2, 2, 1)])) h0 (elemUse (rf h0 3 1 2 0 1 (-1)) true false true true)
      (fun fr => fr.any = true ∧ fr.unitFree 0 = true ∧ ∀ l ∈ fr.formLanes true, (fr.readV 2 2 l).val ≠ 0) ∧
    Met (mach (withV (grp 0) [(1, 0, 8), (2, 0, 3)])) h0 (elemUse (rf h0 3 1 2 0 1 (-1)) true false true true)
      (fun fr => fr.formLanes true = [0] ++ 1 :: [2] ∧ fr.unitFree 0 = true ∧ (fr.readV 2 2 0).val ≠ 0 ∧ (fr.readV 2 2 1).val = 0) ∧
    Met (mach (grp 0)) h0 (floatUse (rf h0 3 1 2 0 0 (-1)) true false true) (fun fr => fr.any = true ∧ fr.unitFree 1 = true) ∧
    Met (mach (grp 0)) hp (floatUse (rf hp 3 1 40 0 0 (-1)) false false true) (fun fr => fr.any = false) ∧
    ((mach longGroup).group? (gkey 0 0) = some longGroup ∧ longGroup.longs[0]?.isSome = true ∧
      ∀ r ∈ longGroup.longs, ∀ q ∈ r.parts, ∀ e ∈ q.2, e.1 < 32) := by
  refine ⟨Met.of (by decide +kernel), Met.of (by decide +kernel), Met.of (by decide +kernel), Met.of (by decide +kernel), ?_⟩
  decide +kernel

/-- SHUF whose named lane is sound, is uncorrectable, and is read too early; MVS of a sound and of an uncorrectable lane. -/
theorem witness_AcrossLanes :
    (let u := { crossUse (rf h0 3 1 2 0 0 1) false false true with
          opds := [regOpd true 3 false true, { regOpd true 1 true false with across := true }, regOpd false 2 true false] };
      let v : Use := { vector := true, resv := resvPred h0 || plainR (rx 3 1 2)
                       opds := [regOpd false 3 false true, { regOpd true 1 true false with across := true }, regOpd false 2 true false] };
      let hurt := { withS (grp 0) [(2, 9)] with bad := [(32 * 1 + 9, 2)] };
      let early := withX { withS (grp 0) [(2, 9)] with scheck := true }
        (fun x => { x with pend := [{ file := 0, reg := 1, lam := 4, dist := 2, old := [(9, word 5)] }] });
      Met (mach (withS (grp 0) [(2, 31)])) h0 u (fun fr => fr.acrossCause 1 [31] = none) ∧
      Met (mach hurt) h0 u (fun fr => fr.acrossCause 1 [9] = some .regfileUncorrectable) ∧
      Met (mach early) h0 u (fun fr => fr.acrossCause 1 [9] = some .stallUndersized) ∧
      Met (mach (withS (grp 0) [(2, -1)])) h0 v (fun fr => fr.any = true ∧ fr.acrossCause 1 [31] = none) ∧
      Met (mach hurt) h0 v (fun fr => fr.any = true ∧ fr.acrossCause 1 [9] = some .regfileUncorrectable)) := by
  and_intros <;> exact Met.of (by decide +kernel)


/-! ## The statements on control and traps -/

/-- Displacements; an indirect target that is, and one that is not, a multiple of 3; an allocation that holds the link; LOOP's last turn and
LOOP of the zero register. -/
theorem witness_Transfers :
    Met (mach (grp 0)) { h0 with pred := Tern.ofIndex 2 8, psense := Tern.zero 1 }
      { resv := resvPred h0 || resvReg (reg 40) || resvReg (reg 40) || resvReg (reg 40) || plainR (rx 40 40 40) } (fun _ => True) ∧
    Met (mach (grp 0)) h0 (branchUse ⟨h0, Tern.ofInt 16 21523360⟩) (fun fr => fr.any = true ∧ fr.act = fr.sp.mask) ∧
    Met (mach (withC (grp 0) [(0, 1, 1)])) hp (branchUse ⟨hp, Tern.ofInt 16 (-2)⟩) (fun fr => fr.any = true ∧ fr.act ≠ fr.sp.mask) ∧
    Met (mach (grp 0)) hp (branchUse ⟨hp, Tern.ofInt 16 (-2)⟩) (fun fr => fr.any = false) ∧
    Met (mach (grp 0)) h0 { branchUse ⟨h0, Tern.ofInt 16 4⟩ with opds := [pairOpd 78 false true] } (fun fr => fr.any = true) ∧
    Met (mach (withP (grp 0) 10 3000)) h0 (indirectUse (rx 40 10 40) true) (fun fr => fr.any = true ∧ (fr.readS2 1 10).trit 0 = 0) ∧
    Met (mach (withP (grp 0) 10 3001)) h0 (indirectUse (rx 40 10 40) true) (fun fr => fr.any = true ∧ (fr.readS2 1 10).trit 0 ≠ 0) ∧
    Met (mach (grp 0)) hp (indirectUse (rf hp 40 80 40 0 0 0) false) (fun fr => fr.any = false) ∧
    Met (mach (withS (grp 0) [(3, 1)])) h0 { opds := [regOpd false 3 true true] } (fun fr => fr.any = true ∧ (fr.readS 0 3).val = 1) ∧
    Met (mach (grp 0)) h0 { opds := [regOpd false 80 true true] } (fun fr => fr.any = true ∧ (fr.readS 0 80).val = 0) := by
  and_intros <;> exact Met.of (by decide +kernel)

/-- A group whose split table is full, with `n` fallback entries on the split that executes. -/
def full (n : Nat) : Group :=
  let g := grp 0
  { withX g (fun x => { x with falls := List.replicate n ⟨addr 3300, 0x100#32, false⟩ }) with
    splits := (withX g (fun x => { x with falls := List.replicate n ⟨addr 3300, 0x100#32, false⟩ })).splits ++
      (match g.splits with
        | x :: _ => [{ x with idx := 1, mask := 8#32 }, { x with idx := 2, mask := 16#32 }, { x with idx := 3, mask := 32#32 }]
        | [] => []) }

/-- All lanes, no lane, some lanes with a free record, with none and eight fallback entries, and with nine. -/
theorem witness_Branch :
    Met (mach (grp 0)) h0 (branchUse ⟨h0, Tern.ofInt 16 5⟩) (fun fr => fr.sp.mask &&& ~~~ fr.act = 0#32) ∧
    Met (mach (grp 0)) hp (branchUse ⟨hp, Tern.ofInt 16 5⟩) (fun fr => fr.sp.mask &&& ~~~ fr.act ≠ 0#32 ∧ fr.act = 0#32) ∧
    Met (mach (withC (grp 0) [(0, 1, 1)])) hp (branchUse ⟨hp, Tern.ofInt 16 5⟩)
      (fun fr => fr.sp.mask &&& ~~~ fr.act ≠ 0#32 ∧ fr.act ≠ 0#32 ∧ freeSplit fr.g = some 1) ∧
    Met (mach (withC (full 8) [(0, 1, 1)])) hp (branchUse ⟨hp, Tern.ofInt 16 5⟩)
      (fun fr => fr.sp.mask &&& ~~~ fr.act ≠ 0#32 ∧ fr.act ≠ 0#32 ∧ freeSplit fr.g = none ∧ fr.sp.falls.length < 9) ∧
    Met (mach (withC (full 9) [(0, 1, 1)])) hp (branchUse ⟨hp, Tern.ofInt 16 5⟩)
      (fun fr => fr.sp.mask &&& ~~~ fr.act ≠ 0#32 ∧ fr.act ≠ 0#32 ∧ freeSplit fr.g = none ∧ 9 ≤ fr.sp.falls.length) := by
  and_intros <;> exact Met.of (by decide +kernel)

/-- A group of two splits with the given waits and tokens. -/
def two (w1 w2 : Wait) (tk : List Int) : Group :=
  let g := grp 0
  { g with splits := match g.splits with
      | x :: _ => [{ x with wait := w1, tokens := tk }, { x with idx := 1, mask := 8#32, wait := w2, tokens := tk, age := 1 }]
      | [] => [] }

theorem witness_JoinsAndMerges :
    (Met (mach (withX (grp 0) (fun x => { x with tokens := List.replicate 8 3280 }))) h0 (joinUse (im 41 40 (-3280)))
      (fun fr => fr.sp.tokens.length < 9) ∧
    Met (mach (withX (grp 0) (fun x => { x with tokens := List.replicate 9 0 }))) h0 (joinUse (im 41 40 0)) (fun fr => 9 ≤ fr.sp.tokens.length) ∧
    Met (mach (two .none .none [7])) h0 (joinUse (im 40 40 7))
      (fun fr => fr.sp.falls = [] ∧ fr.sp.tokens.head? = some 7 ∧ ∃ y ∈ fr.g.splits, y.idx ≠ fr.sp.idx ∧ y.carries 7 = true ∧ y.wait = .none) ∧
    Met (mach (withX (grp 0) (fun x => { x with tokens := [7] }))) h0 (joinUse (im 40 40 7))
      (fun fr => fr.sp.falls = [] ∧ fr.sp.tokens.head? = some 7 ∧ fr.g.splits = [fr.sp]) ∧
    Met (mach (full 1)) h0 (joinUse (im 40 40 7)) (fun fr => fr.sp.falls = ⟨addr 3300, 0x100#32, false⟩ :: []) ∧
    Met (mach (grp 0)) h0 (joinUse (im 40 40 7)) (fun fr => fr.sp.falls = [] ∧ fr.sp.tokens.head? ≠ some 7)) ∧
    (let g := two (.join 7) (.join 7) [7];
      (mach g).group? (gkey 0 0) = some g ∧ g.splits.length = 2 ∧ g.splits.map (·.idx) = [0, 1] ∧ g.trapSplit = none ∧ g.status = .running ∧
        g.splits.map (·.wait) = [.join 7, .join 7] ∧ g.splits.map (·.pc) = [addr 3000, addr 3000]) ∧
    (let g := two .none .none [];
      (mach g).group? (gkey 0 0) = some g ∧ g.splits.length = 2 ∧ g.canMerge 0 1 = true) := by
  refine ⟨by and_intros <;> exact Met.of (by decide +kernel), by decide +kernel, by decide +kernel⟩

/-- Some lanes leave; a fallback entry goes on; the last lanes leave while an access is outstanding, and with nothing outstanding. -/
def loadOut : Access :=
  { seq := 4, kind := .load, pc := addr 2997, split := 0, path := 0, counters := [0], lanes := [], dest := some ⟨true, 3, 1⟩, killed := [], before := [0], joined := []
    conv := none, size := 3, region := none, ecount := wzero, done := false, acq := false, rel := false, scope := 0, events := []
    hold := false, watch := none }

theorem witness_ExitsAndRoles :
    (Met (mach (withC (grp 0) [(0, 1, 1)])) hp { resv := resvPred hp || plainR (rf hp 40 40 40 0 0 0) }
      (fun fr => fr.any = true ∧ fr.sp.mask &&& ~~~ fr.act ≠ 0#32) ∧
    Met (mach (full 2)) h0 {} (fun fr => fr.any = true ∧ fr.sp.mask &&& ~~~ fr.act = 0#32 ∧ fr.sp.falls ≠ []) ∧
    Met (mach { grp 0 with infl := [loadOut] }) h0 {}
      (fun fr => fr.g.lastExit fr.sp fr.act = true ∧ fr.g.isWalker = false ∧ fr.g.isSeq = false ∧ fr.s.quiet fr.g = false) ∧
    Met (mach (grp 0)) h0 {}
      (fun fr => fr.g.lastExit fr.sp fr.act = true ∧ fr.g.isWalker = false ∧ fr.g.isSeq = false ∧ fr.s.quiet fr.g = true ∧ fr.g.faults = [] ∧ fr.g.key = fr.key) ∧
    Met (mach (grp 0)) h0 {} (fun fr => fr.any = true ∧ fr.g.isSeq = false) ∧
    Met (mach (grp 0)) h0 (regionUse (im 40 40 1)) (fun fr => fr.any = true ∧ fr.sp.region = none) ∧
    Met (mach (withX (grp 0) (fun x => { x with region := some (addr 2700) }))) h0 (regionUse (im 40 40 (-1)))
      (fun fr => fr.any = true ∧ fr.sp.region.isSome = true ∧ (∀ a ∈ fr.g.infl, a.split = fr.sp.idx → a.done = true) ∧
        ∀ d ∈ fr.g.faults, d.split ≠ fr.sp.idx)) ∧
    (let g := withX (grp 0) (fun x => { x with wait := .ending });
      (mach g).group? (gkey 0 0) = some g ∧ g.key = gkey 0 0 ∧ (g.splits.find? (fun x => x.wait == .ending)).isSome = true ∧
        g.status = .running ∧ g.parked = false ∧ g.isSeq = false ∧ (mach g).quiet g = true ∧ g.faults = []) ∧
    -- classes of ROLE at the ends of the legal range, and one past
    (∀ i ∈ [(-1 : Int), 1], -1 ≤ (im 40 40 i).imm.val ∧ (im 40 40 i).imm.val ≤ 1) ∧ 1 < (im 40 40 2).imm.val ∧ (im 40 40 (-2)).imm.val < -1 := by
  refine ⟨by and_intros <;> exact Met.of (by decide +kernel), by decide +kernel, by decide +kernel, by decide +kernel, by decide +kernel⟩

theorem witness_TrapEntry :
    (96 ≤ 96 ∧ 31 ≤ 31 ∧ 3 ≤ 3 ∧ 1 ≤ 1 ∧ (-3280 : Int) ≤ -3280 ∧ (3280 : Int) ≤ 3280) ∧
    (mach (grp 0)).group? 0 = some (grp 0) ∧ ((grp 0).split? 0).isSome = true ∧ (grp 0).isWalker = false ∧
    (mach (grp 0)).toHandler (grp 0).launch .divideByZero = true ∧ (grp 0).hdepth = 0 ∧ (grp 0).tvec ≠ azero := by decide +kernel

theorem witness_TrapWithoutHandler :
    (let g := { grp 0 with hdepth := 1, trapSplit := some 0 };
      (mach g).group? 0 = some g ∧ (g.split? 0).isSome = true ∧ g.isWalker = false ∧ (mach g).toHandler g.launch .shiftRange = true ∧
        Cause.shiftRange.delivery ≠ .debugger) ∧
    (let g := { grp 0 with tvec := azero };
      (mach g).group? 0 = some g ∧ (g.split? 0).isSome = true ∧ (mach g).toHandler g.launch .shiftRange = true ∧ g.hdepth = 0 ∧ g.tvec = azero) := by
  decide +kernel

/-- What a state must hold so that its group takes a cause into its handler. -/
def takes (fr : Fr) (c : Cause) : Bool := !fr.g.isWalker && fr.s.toHandler fr.g.launch c && fr.g.hdepth == 0 && fr.g.tvec != azero

theorem witness_TrapInstructions :
    Met (mach (grp 0)) h0 { resv := sysI (im 40 40 (-3280)) false false } (fun fr => fr.any = true ∧ takes fr .softwareTrap = true) ∧
    Met (mach (grp 0)) h0 { resv := resvPred h0 || resvReg (reg 40) || resvReg (reg 40) } (fun fr => fr.any = true ∧ takes fr .breakpoint = true) ∧
    Met (mach (grp 0)) ⟨Tern.ofIndex 2 0, Tern.ofIndex 2 8, Tern.zero 1⟩ {} (fun fr => takes fr .zeroWord = true ∧ takes fr .illegalOpcode = true) := by
  and_intros <;> exact Met.of (by decide +kernel)

theorem witness_ReturnFromTrap :
    Met (mach { grp 0 with hdepth := 1, trapSplit := some 0, eregion := addr 2700 }) h0 (eretUse (rx 41 40 40))
      (fun fr => fr.any = true ∧ fr.g.hdepth ≠ 0 ∧ fr.g.eregion ≠ azero) ∧
    Met (mach { grp 0 with hdepth := 1, trapSplit := some 0 }) h0 (eretUse (rx 40 40 40)) (fun fr => fr.any = true ∧ fr.g.hdepth ≠ 0 ∧ fr.g.eregion = azero) ∧
    Met (mach (grp 0)) h0 (eretUse (rx 40 40 40)) (fun fr => fr.any = true ∧ fr.g.hdepth = 0) := by
  and_intros <;> exact Met.of (by decide +kernel)


/-! ## The statements on state registers, fences, waits and time -/

/-- Reaching an RDST of a register. -/
def rd (i : Int) (pair : Bool) : Use :=
  { priv := decide (i < 0), resv := sysI (im 10 40 i) true false || (stPair i).isNone,
    opds := [if pair then pairOpd 10 false true else regOpd false 10 false true] }

/-- A miss of group 5 of core 0, and a walker that serves it. -/
def miss0 : Miss := { core := 0, domain := 7, va := addr (phys 3 1), access := -1, path := 0, key := 5, split := 0 }
def walkGrp : Group := { grp 0 with privileged := true, walk := some miss0 }

/-- Every index that the statement names, the privileged ones in a privileged group. -/
theorem witness_ReadStateRegister :
    (∀ i ∈ [(1 : Int), 2, 5, 7, 8, 9, 11, 12, 13, 15], metB (mach (grp 0)) h0 (rd i false) (fun fr => fr.any && !fr.g.isSeq && fr.g.longs.isEmpty) = true) ∧
    (∀ i ∈ [(3 : Int), 4, 6, 14, 16], metB (mach (grp 0)) h0 (rd i true) (fun fr => fr.any && (fr.s.launch? fr.g.launch).isSome) = true) ∧
    (∀ i ∈ [(-4 : Int), -5], metB (mach walkGrp) h0 (rd i false) (fun fr => fr.any && fr.g.walk.isSome) = true) ∧
    metB (mach walkGrp) h0 (rd (-2) true) (fun fr => fr.any && fr.g.walk.isSome) = true := by decide +kernel

/-- Reaching a WRST of a register from s10. -/
def wr (i : Int) (pair : Bool) : Use :=
  { priv := decide (i < 0), resv := sysI (im 40 10 i) false true || (stPair i).isNone || !stWritable i,
    opds := [if pair then pairOpd 10 true false else regOpd false 10 true false] }

/-- A legal and an illegal value of each register that can be written; the ends of the ranges of SCHECK, ROLEST and DOMAIN. -/
theorem witness_WriteStateRegister :
    (∀ e ∈ [(1, 0), (1, 40), (1, 2), (2, 96), (2, 97), (5, -9), (7, 0), (7, 1), (8, -1), (8, 1)],
      metB (mach (withS (grp 0) [(10, e.2)])) h0 (wr e.1 false) (fun fr => fr.any && !fr.g.isSeq) = true) ∧
    (∀ e ∈ [(3, 3000), (3, 3001), (4, 3), (6, 0), (16, 9)],
      metB (mach (withP (grp 0) 10 e.2)) h0 (wr e.1 true) (fun fr => fr.any) = true) ∧
    (∀ d ∈ [(-9841 : Int), 9841],
      metB (mach (withS { grp 0 with privileged := true } [(10, d)])) h0 (wr (-6) false) (fun fr => fr.any && ((fr.readS 1 10).field 9 18).val == 0) = true) ∧
    Flags.ofWord (word 40) = some ⟨true, true, true, true⟩ ∧ Flags.ofWord (word 2) = none ∧
    causeLegal (word 96) = true ∧ causeLegal (word 97) = false := by decide +kernel

theorem witness_Privilege :
    ((mach (grp 0)).frame? h0).isSome = true ∧ (grp 0).priv = false ∧ (rx 40 10 11).h = h0 ∧ (im 10 40 (-1)).h = h0 ∧ (im 10 40 (-1)).imm.val < 0 := by
  decide +kernel

theorem witness_FencesAndCaches :
    Met (mach (grp 0)) h0 (fenceUse (im 40 40 (-36))) (fun fr => fr.any = true ∧ fr.g.faults = [] ∧
      (∀ a ∈ fr.g.infl, a.split = fr.sp.idx → a.done = true) ∧ ∀ e ∈ fr.s.sideLog, ¬ (e.key = fr.key ∧ e.split = fr.sp.idx)) ∧
    Met (mach (withVP (grp 0) 10 [(0, phys 0 0), (1, phys 1 5), (2, phys 1 59048)])) h0 { vector := true, opds := [regOpd true 10 true false 2 2] }
      (fun fr => fr.any = true ∧ fr.g.inflight 1 < 81 ∧ good (cflushLanes fr (mOp (mf 41 10 8 0) true 1 .load) none fr.lanes) = true) ∧
    Met (mach (grp 0)) h0 (icinvUse (rx 41 40 40)) (fun fr => fr.any = true ∧ (fr.s.launch? fr.g.launch).isSome = true) := by
  and_intros <;> exact Met.of (by decide +kernel)

/-- A leaf of frame `f`: packed, writable, TYPE +1. -/
def leafOf (f : Int) : Int := 729 * (f - 10460353203 + 10460353203) + 243 + 81 + 27

/-- The lowest and the highest frame, the frame past it, a large page, and a word that is no leaf. -/
theorem witness_TranslationInstructions :
    (let u := fun (d : Nat) => ({ priv := true, resv := resvPred h0 || plainR (rx d 10 12) || ((reg d).index != 40 && (reg d).index != 41),
                                  opds := [pairOpd 10 true false, regOpd false 12 true false] } : Use);
      (∀ f ∈ [(0 : Int), 10099855],
        metB (mach (withS (withP { grp 0 with privileged := true } 10 (phys 3 1)) [(12, leafOf f)])) h0 (u 40)
          (fun fr => fr.any && pteType (fr.readS 2 12) == 1 && (fr.readS 2 12).trit 0 == 0 && pteFrame (fr.readS 2 12) == f && !fr.g.walkStale) = true) ∧
      metB (mach (withS { grp 0 with privileged := true } [(12, leafOf 10099856)])) h0 (u 40) (fun fr => pteFrame (fr.readS 2 12) == (frameCount : Int)) = true ∧
      metB (mach (withS { grp 0 with privileged := true } [(12, leafOf 0)])) h0 (u 41) (fun fr => fr.any && pteType (fr.readS 2 12) == 1) = true ∧
      metB (mach { grp 0 with privileged := true }) h0 (u 40) (fun fr => pteType (fr.readS 2 12) != 1) = true) ∧
    Met (mach (withP { grp 0 with privileged := true } 10 (phys 3 1))) h0 (tlbinvUse (rx 40 10 40)) (fun fr => fr.any = true) := by
  refine ⟨by decide +kernel, Met.of (by decide +kernel)⟩

/-- The word of a barrier, COUNT and PHASE. -/
def barWord (count phase : Int) : Int := phase * 3 ^ 26 + count

theorem witness_WaitsBegin :
    Met (mach (withS (grp 0) [(2, 0)])) h0 { resv := sysI (im 40 2 4) false true || decide ((im 40 2 4).imm.val < 0) || decide (4 < (im 40 2 4).imm.val),
                                              opds := [regOpd false 2 true false] }
      (fun fr => fr.any = true ∧ (∀ d ∈ fr.g.faults, d.path ≠ 4) ∧ fr.g.inflight 4 ≤ 0) ∧
    Met (mach { grp 0 with infl := [loadOut] }) h0 { opds := [regOpd false 2 true false] } (fun fr => fr.any = true ∧ ¬ fr.g.inflight 0 ≤ 0) ∧
    Met (mach (grp 0)) h0 { resv := sysI (im 40 40 3280) false false || decide ((im 40 40 3280).imm.val < 0) } (fun fr => fr.any = true) ∧
    Met (mach (grp 0)) h0 { vector := true, resv := sysI (im 40 40 8) false false || decide ((im 40 40 8).imm.val < 0) || decide (8 < (im 40 40 8).imm.val) }
      (fun fr => fr.any = true ∧ fr.g.resp = none ∧ ∀ e ∈ fr.s.groups, e.2.launch = fr.g.launch → ∀ m ∈ e.2.bars, m = 8) ∧
    Met (mach (grp 0)) h0 { vector := true, resv := sysI (im 40 40 (-364)) false false || ((im 40 40 (-364)).imm.field 6 2).val != 0 }
      (fun fr => fr.any = true) ∧
    Met (mach (grp 0)) h0
      { vector := true, opds := [regOpd false 10 false true],
        resv := resvPred h0 || decide (xbarMembers (word (3 ^ 18)) < 1) || decide (384 < xbarMembers (word (3 ^ 18))) }
      (fun fr => fr.any = true) ∧
    Met (mach (withP (withP (grp 0) 10 (bufAddr (-1) 0 1)) 12 0)) h0 { opds := [pairOpd 14 false true, pairOpd 10 true false, pairOpd 12 true false] }
      (fun fr => fr.any = true ∧ (fr.readS2 2 12).val = 0) ∧
    Met (mach (withP (grp 0) 10 (bufAddr (-1) 0 1))) h0 { resv := resvPred h0, opds := scalarOpds (mf 14 10 8 0) true true }
      (fun fr => fr.any = true ∧ good (fr.wordPlace (mf 14 10 8 0) (barrierReq false)) = true) := by
  and_intros <;> exact Met.of (by decide +kernel)

/-- A machine whose group waits. -/
def waits (w : Wait) : State := mach (withX { grp 0 with infl := [] } (fun x => { x with wait := w }))
def waiterIs (s : State) : Bool := match s.waiter 0 0 0 with | some (_, x) => x.wait != .none | none => false
/-- The same once a time has passed. -/
def later (n : Nat) (s : State) : State := { s with now := n }

theorem witness_WaitsEnd :
    waiterIs (waits (.waitp 4 0)) = true ∧ (grp 0).inflight 4 ≤ 0 ∧
    waiterIs (waits (.sleep 0)) = true ∧ (waits (.sleep 0)).now = 0 ∧
    -- a counter in page 0 of DRAM that reads 0, and its target 0
    (let locs := (List.range 8).map (fun i => Loc.binary 0 i);
      waiterIs (waits (.waitge locs 0 14 0 0)) = true ∧ good ((waits .none).readLocs locs) = true) ∧
    -- a barrier word 0 in A: COUNT 0, PHASE 0
    (let locs := [Loc.buf 0 0 0, .buf 0 0 1, .buf 0 0 2];
      waiterIs (waits (.bwait locs 0 14 0 wzero)) = true ∧ good ((waits .none).readLocs locs) = true ∧ barrierCount wzero = 0) ∧
    (later (5 * usCycles + 1) (waits .none)).passed ((waits .none).waitLimit 1) 0 = true ∧
    (waits .none).toHandler 1 .waitTimeout = true ∧ (waits .none).toHandler 1 .barrierTimeout = true ∧
    waiterIs (waits (.xbar 2 1 14 0)) = true ∧ lau.xbarAbsent = [] ∧ (∀ sh ∈ lau.shares, sh.state = .resident) ∧
    (later (usCycles + 1) (waits .none)).passed usCycles 0 = true := by decide +kernel

/-- A crew whose only group waits at BAR 8; one core's sub-rectangle at RBAR; a launch on one core at XBAR, alone and as one of two. -/
def small : Launch := { lau with logw := 0, logh := 0 }
def smallMach (w : Wait) : State := { waits w with launches := [small] }

theorem witness_BarriersComplete :
    ((waits (.bar 8)).crewGroups 1 0 0 ≠ [] ∧
      ∀ g ∈ (waits (.bar 8)).crewGroups 1 0 0, g.arrived (fun w => w == .bar 8) = true ∧ (waits (.bar 8)).settled g = true) ∧
    (let imm := (im 40 40 (-364)).imm; let s := smallMach (.rbar imm);
      (s.launch? 1).isSome = true ∧ (subRect 0 0 (rbarW imm) (rbarH imm)).length = 1 ∧
        ∀ c ∈ subRect 0 0 (rbarW imm) (rbarH imm), s.crewArrived small c 0 (fun w => w == .rbar imm) = true) ∧
    (let s := smallMach (.xbar 1 0 14 0);
      s.crewArrived small (coreOf 0 0) 0 atXbar = true ∧ small.xbarAbsent = [] ∧ small.memberLost = false ∧
        ∃ e ∈ s.groups, e.2.launch = 1 ∧ e.2.isSeq = false ∧ e.2.arrived atXbar = true) := by decide +kernel

/-- A session that takes every record of kind 1. -/
def tracing (s : State) (types : Nat) : State :=
  { s with sessions := [(0, { desc := [1#8, BitVec.ofNat 8 types] ++ zeroBytes 62, prog := [0x88000000#32], wrptr := 0, rdptr := 0, drops := 0
                              counters := List.replicate 64 0#64, fullPending := false })] }

theorem witness_ClocksAndMarks :
    Met (mach (grp 0)) h0 (clockUse (rx 10 40 40)) (fun fr => fr.any = true) ∧
    Met (mach (grp 0)) h0 { resv := sysI (im 10 40 7) true false || decide ((im 10 40 7).imm.val < 0) || decide (7 < (im 10 40 7).imm.val),
                            opds := [regOpd false 10 false true] } (fun fr => fr.any = true) ∧
    Met (mach (grp 0)) h0 { resv := sysI (im 40 10 5) false true, opds := [regOpd false 10 true false] }
      (fun fr => fr.any = true ∧ fr.s.traced 1 fr.g.launch = false) ∧
    Met (tracing (mach (grp 0)) 255) h0 { resv := sysI (im 40 10 5) false true, opds := [regOpd false 10 true false] }
      (fun fr => fr.any = true ∧ fr.s.traced 1 fr.g.launch = true ∧ ∀ r ∈ fr.s.records, r.die ≠ dieOf fr.g.core) := by
  and_intros <;> exact Met.of (by decide +kernel)

theorem witness_StopsForDebugger :
    Met (mach (grp 0)) h0 (stopUse (im 40 40 15))
      (fun fr => fr.any = true ∧ fr.g.isWalker = false ∧ fr.g.hdepth = 0 ∧ (fr.s.launch? fr.g.launch).isSome = true) ∧
    lau.halted = none ∧ lau.complete = false ∧ (grp 0).status = .running ∧ ((grp 0).split? (grp 0).stopSplit).isSome = true := by
  refine ⟨Met.of (by decide +kernel), by decide +kernel⟩

/-- The remaining values of WRST: an address that is no multiple of 3, a switch and a role outside their ranges, a role on a sequencer,
no active lane, and a register taken whole. -/
theorem witness_WriteStateRegisterMore :
    (∀ e ∈ [(4, 1), (6, -1), (16, 10)],
      metB (mach (withP (grp 0) 10 e.2)) h0 (wr e.1 true) (fun fr => fr.any && decide ((fr.readS2 1 10).trit 0 ≠ 0)) = true) ∧
    (∀ e ∈ [(7, 2), (7, -1), (8, 2), (8, -2)],
      metB (mach (withS (grp 0) [(10, e.2)])) h0 (wr e.1 false) (fun fr => fr.any && !fr.g.isSeq && decide ((fr.readS 1 10).val = e.2)) = true) ∧
    metB { mach (grp 0) with groups := [(192, withS { grp 192 with nv := 0 } [(10, 1)])], cur := (192, 0) } h0 (wr 8 false)
      (fun fr => fr.any && fr.g.isSeq) = true ∧
    (let u := fun (f : IFmt) => ({ resv := sysI f false true || (stPair 5).isNone || !stWritable 5, opds := [regOpd false 10 true false] } : Use);
      metB (mach (grp 0)) hp (u ⟨hp, reg 40, reg 10, Tern.ofInt 8 5⟩) (fun fr => !fr.any) = true ∧
      metB (mach (grp 0)) h0 (u (im 40 10 5)) (fun fr => fr.any && (fr.g.stWrite 5 (mkPair (fr.readS 1 10) wzero)).isSome) = true) ∧
    metB (mach { grp 0 with late := [⟨1, 9, Flags.none⟩] }) h0 (rd 1 false)
      (fun fr => fr.any && fr.g.longs.isEmpty && fr.g.late.all (fun r => decide (r.split ≠ fr.sp.idx))) = true := by
  decide +kernel

/-- An access that a fence does not order, one that is done, and a logged store of another split; a barrier beside a saved share and
a wait whose counter no earlier access holds; a group that no machine cause stopped; a leaf of the reserved TILING. -/
theorem witness_SystemMore :
    (let a := { loadOut with before := [1] }; let b := { loadOut with done := true };
      Met (mach { grp 0 with infl := [a, b] }) h0 (fenceUse (im 40 40 (-36)))
        (fun fr => fr.any = true ∧ fr.g.faults = [] ∧ (∀ a ∈ fr.g.infl, fr.sp.idx ∈ a.before → a.done = true) ∧
          (∀ e ∈ fr.s.sideLog, ¬ (e.key = fr.key ∧ fr.sp.idx ∈ e.before)))) ∧
    Met (mach (grp 0)) h0 { vector := true, resv := sysI (im 40 40 (-364)) false false || ((im 40 40 (-364)).imm.field 6 2).val != 0 }
      (fun fr => fr.any = true ∧ fr.s.savedOf fr.g.launch = [] ∧
        ∀ e ∈ fr.s.groups, e.2.launch = fr.g.launch → ∀ x ∈ e.2.splits, x.wait = .none) ∧
    Met { mach (withP (withP { grp 0 with domain := 7 } 10 (phys 3 0)) 12 0) with
          tlbs := [{ unit_ := 0, domain := 7, page := pageNum (addr (phys 3 0)), large := false, pte := word (leafOf 0 - 54) }] } h0
      { resv := resvPred h0 || plainR (rx 14 10 12), opds := [pairOpd 14 false true, pairOpd 10 true false, pairOpd 12 true false] }
      (fun fr => fr.any = true ∧ (fr.readS2 2 12).val = 0 ∧ fr.s.logged fr.key fr.sp.idx (fr.readS2 1 10) = false ∧
        (match laneCheck fr.s (fr.g.agent fr.sp.idx) counterReq false [fr.readS2 1 10] with | .ok _ => true | _ => false) = true) ∧
    (let locs := (List.range 8).map (fun i => Loc.binary 0 i);
      (waits (.waitge locs 0 14 0 0)).readFree { grp 0 with infl := [] } 0 locs = true ∧
      (mach (grp 0)).fresh = [] ∧ (grp 0).machineStopped = false) ∧
    metB (mach (withS { grp 0 with privileged := true } [(12, leafOf 0 - 3)])) h0
      { priv := true, resv := resvPred h0 || plainR (rx 40 10 12) || ((reg 40).index != 40 && (reg 40).index != 41)
        opds := [pairOpd 10 true false, regOpd false 12 true false] }
      (fun fr => fr.any && pteTiling (fr.readS 2 12) == -1 && pteType (fr.readS 2 12) == 1) = true := by
  refine ⟨Met.of (by decide +kernel), Met.of (by decide +kernel), Met.of (by decide +kernel), by decide +kernel, by decide +kernel⟩


/-! ## The statements on accesses, tickets and copies -/

/-- A failed first check, a failed lane, and an access that goes out. -/
def refused (check : Fr → Except Cause (Option Rec)) (fr : Fr) : Bool := fr.any && (match check fr with | .error _ => true | .ok _ => false)
def lanesOut (m : MemOp) (check : Fr → Except Cause (Option Rec)) (rq : Option Rec → Req) (fr : Fr) : Option (List LaneIn × Option TrapInfo) :=
  match check fr with
  | .error _ => none
  | .ok r => match checkLanes fr (fr.g.agent fr.sp.idx) m r (rq r) (if m.vec then fr.lanes else [0]) with
    | .ok ls => some (ls, none)
    | .error (.trap ti) => some ([], some ti)
    | .error _ => none
def issuesB (m : MemOp) (check : Fr → Except Cause (Option Rec)) (rq : Option Rec → Req) (fr : Fr) : Bool :=
  match lanesOut m check rq fr with
  | some (x :: ls, none) =>
    let cs := (x :: ls).flatMap (fun x => x.addrs.map (fun a => pathCounter (addrPath a) (ownBuf a && !fr.g.isSeq) m.kind.logs));
    let logged := ((x :: ls).filter (fun x => (placeLocs x.run x.places).isNone)).flatMap (fun x => x.entries fr.s fr.g fr.sp m fr.g.nextSeq);
    fr.any && cs.all (fun c => fr.g.inflight c < 81) && decide ((fr.s.sideLog.filter (fun e => e.core == fr.g.core)).length + logged.length ≤ 729)
  | _ => false
def trapsB (c : Cause) (m : MemOp) (check : Fr → Except Cause (Option Rec)) (rq : Option Rec → Req) (fr : Fr) : Bool :=
  match lanesOut m check rq fr with | some (_, some ti) => fr.any && ti.cause == c | _ => false

/-- Three lanes with addresses in the physical domain. -/
def gv : Group := withVP (grp 0) 10 [(0, phys 0 1), (1, phys 1 7), (2, phys 2 59047)]
/-- The extension word with no record. -/
def ext0 : Word := word (4 * 3 ^ 25 - 4 * 3 ^ 17)

/-- A vector load, a misaligned one and a bad record; a scalar store to path 0; a store with a release; an atomic and a reduction. -/
theorem witness_MemoryIssue :
    (let f := mf 12 10 8 0; let m := mOp f true 3 .load; let ck := fun (fr : Fr) => recordCheck fr.s fr.g m;
      metB (mach gv) h0 (memUse f m) (issuesB m ck m.req) = true ∧
      metB (mach (withC gv [])) hp (memUse { f with h := hp } m) (fun fr => !fr.any) = true ∧
      metB (mach (withVP (grp 0) 10 [(0, phys 0 1), (1, phys 1 8), (2, phys 2 0)])) h0 (memUse f m) (trapsB .misaligned m ck m.req) = true) ∧
    (let f := mf 12 10 3 0; let m := mOp f true 3 .load;
      metB (mach gv) h0 (memUse f m) (refused (fun fr => recordCheck fr.s fr.g m)) = true) ∧
    (let f := mf 20 10 8 0; let m := mOp f false 6 .store; let ck := fun (fr : Fr) => recordCheck fr.s fr.g m;
      metB (mach (withP (grp 0) 10 (phys 0 1))) h0 (memUse f m) (issuesB m ck m.req) = true) ∧
    (let f := lf (rf h0 20 10 40 0 0 0) (4 * 3 ^ 25 - 2 * 3 ^ 17); let m := scopedOp f 3 true; let ck := fun (fr : Fr) => recordCheck fr.s fr.g m;
      m.recIdx = 8 ∧ m.scope = 2 ∧ metB (mach (withP (grp 0) 10 (phys 0 4))) h0 (scopedUse f m) (issuesB m ck m.req) = true) ∧
    (∀ d ∈ [20, 80], let f := lf (rf h0 d 10 12 0 0 0) (4 * 3 ^ 25); let m := atomicOp f .add; let ck := fun (fr : Fr) => recordCheck fr.s fr.g m;
      metB (mach (withP (grp 0) 10 (phys 0 4))) h0 (atomicUse f .add true true) (issuesB m ck m.req) = true) := by decide +kernel

/-- One lane of an access to words of page 0. -/
def lane0 (locs : List Loc) (data : List Tryte) : LaneAcc :=
  { lane := 0, locs := locs, va := addr low, data := data, l1 := false, l2 := false, cls := 0, stream := false, b := azero, cmp := azero }
def word0 : List Loc := [.packed 0 0, .packed 0 1, .packed 0 2]
/-- An access of group 0 in flight. -/
def inFlight (k : AccKind) (locs : List Loc) (data : List Tryte) : Access := { loadOut with kind := k, lanes := [lane0 locs data] }
def flying (a : Access) : State := mach { grp 0 with infl := [a] }
def addTo : AtomOp := ⟨.add, Tern.ofInt 1 0, Tern.ofInt 1 0⟩
/-- A state has the access and may return it. -/
def returns (s : State) (a : Access) : Bool :=
  match s.group? (gkey 0 0) with
  | some g => g.key == gkey 0 0 && g.infl.find? (fun b => b.seq == 4) == some a && s.mayReturn g a && a.lanes.all (fun la => s.farFault la == none && la.lane < 32)
  | none => false
/-- Places are placed. -/
def placedB (s : State) (locs : List Loc) (n : Nat) : Bool :=
  decide locs.Nodup && locs.length == n && locs.all (fun l => match l with
    | .packed f pos => f < frameCount && pos < 59049
    | .buf core path idx => core < 256 && path < 3 && idx < 177147 && mapGet 0 s.badBufs (bufKey core path (idx / 3)) < 2
    | _ => false)

/-- A load, a store, an atomic to memory and to a register, a flush; a fault of the host port and poisoned data of one lane. -/
theorem witness_AccessesReturn :
    (let a := inFlight .load word0 [];
      returns (flying a) a = true ∧ a.conv = none ∧ (flying a).l1 = [] ∧ tilesOf word0 = [(0, 0, true)] ∧
        (match (flying a).readLane 0 (lane0 word0 []) with | .ok ts => ts.length == 3 && (match loadValue none 3 ts with | (.ok _, _) => true | _ => false) | _ => false) = true) ∧
    (let a := inFlight .store word0 (trytesOfWord (word 7)); returns (flying a) a = true ∧ placedB (flying a) word0 3 = true ∧ lanesApart a.lanes = true) ∧
    (∀ r ∈ [true, false], let a := inFlight (.atomic addTo r) word0 [];
      returns (flying a) a = true ∧ lanesApart a.lanes = true ∧ (∀ l ∈ word0, (flying a).locPoisoned l = false) ∧
      (match (flying a).readLocs word0 with | .ok old => placedB (flying a) word0 (atomTrytes addTo old azero azero).length | _ => false) = true) ∧
    (let a := inFlight .flush [] []; returns (flying a) a = true) ∧
    (let a := inFlight .load [.host 0 5] []; let s := { flying a with pcieUp := [] };
      (match s.group? 0 with | some g => s.mayReturn g a | none => false) = true ∧ s.farFault (lane0 [.host 0 5] []) = some .hostWindowError ∧
        a.hold = false ∧ Cause.hostWindowError.delivery ≠ .machine ∧ tilesOf [Loc.host 0 5] = []) ∧
    (let a := inFlight .load [.binary 3 0] []; let s := { flying a with binPoison := [tileCoord 3 0] };
      returns s a = true ∧ (match s.readLane 0 (lane0 [.binary 3 0] []) with | .error c => c.delivery != .machine | .ok _ => false) = true) := by
  decide +kernel

/-- A side-log entry for word 0 of page 0. -/
def entry0 (op : SideOp) (served : Bool) : SideEntry :=
  { core := 0, va := addr (match op with | .store _ => low | .reduce _ _ _ => low + 1), domain := 0, op := op, key := 0, split := 0, pc := addr 3000, region := none, ecount := wzero, seq := 3, path := 1
    served := some served, rel := false , acq := false, scope := 0, before := [0], joined := [] }
def logging (e : SideEntry) : State := { mach (grp 0) with sideLog := [e] }

theorem witness_SideLogAndPrefetch :
    (∀ e ∈ [entry0 (.store (trytesOfWord (word 7))) true, entry0 (.reduce addTo azero azero) true],
      (logging e).logHead 0 = some e ∧ e.served = some true ∧ (grp 0).infl = [] ∧
      (match (logging e).sysPlace 0 e.va true with
        | .ok (mk, _) => let locs := e.op.span.map mk;
          placedB (logging e) locs 3 && !badByte locs (trytesOfWord (word 7)) && (match (logging e).readLocs locs with | .ok _ => true | _ => false)
        | .error _ => false) = true) ∧
    (let e := entry0 (.store []) false; (logging e).logHead 0 = some e ∧ e.served = some false ∧ (logging e).group? e.key = some (grp 0)) ∧
    metB (mach gv) h0 (prefUse (mf 41 10 8 0)) (fun fr => fr.any) = true := by decide +kernel

/-- A mooring entry of group 0's launch and domain, and its handle. -/
def moor0 (st : MoorState) (data : List Word) (src : List (List Loc)) (red : Option Redemption) : Moor :=
  { state := st, gen := 1, end_ := .none, domain := 0, launch := 1, extent := true, len := 1, data := data, poison := false, age := 0, src := src
    key := 0, seq := 4, red := red, locked := false, exited := false, bad := [] }
def handle0 : Int := (handleOf 0 0 1).val
def moored (g : Group) (m : Moor) : State := { mach g with moor := [(moorKey 0 0, m)] }
/-- Slice 0 with no free entry. -/
def mooredFull (g : Group) : State := { mach g with moor := (List.range 243).map (fun e => (moorKey 0 e, moor0 .moored [wzero] [] none)) }

/-- TKLD of one word: an entry is free; none is free, polled and waited for. -/
def tkldOk (n : Nat) (fr : Fr) : Bool :=
  let f := lf (rf h0 20 10 40 0 0 0) (4 * 3 ^ 25 + 3 ^ 14 - 40 * 3 ^ 10);
  let asked := fr.tkldAddrs f none true (tkldLen f true);
  fr.any && tkldLen f true == 1 && decide (fr.g.inflight 0 < 81) &&
    (match laneCheck fr.s (fr.g.agent fr.sp.idx) (tkldReq true) asked.2 asked.1 with
      | .ok ps => (match placeLocs (tkldRun true) ps with | some locs => locs.head?.bind Loc.tile == some (0, 0, true) | none => false)
      | _ => false) && homeSlice (tileCoord 0 0) == 0 && fr.s.tkWaiters 0 == [] && (fr.s.freeMoor 0).isSome == (n == 1)

theorem witness_Tickets :
    (let g := withP (grp 0) 10 (phys 0 1);
      let f := fun (w : Int) => lf (rf h0 20 10 40 0 0 0) (4 * 3 ^ 25 + 3 ^ 14 - 40 * 3 ^ 10 + w);
      metB (mach g) h0 (tkldUse (f 0)) (tkldOk 1) = true ∧
      metB (mooredFull g) h0 (tkldUse (f (3 ^ 15))) (fun fr => tkldOk 0 fr && (f (3 ^ 15)).ext.trit 15 == 1) = true ∧
      metB (mooredFull g) h0 (tkldUse (f 0)) (fun fr => tkldOk 0 fr && (f 0).ext.trit 15 != 1) = true) ∧
    (let g := withS (grp 0) [(10, handle0)]; let f := rf h0 12 10 40 0 0 0;
      (∀ m ∈ [moor0 .moored [word 7] [] none, moor0 .pending [] [word0] none],
        metB (moored g m) h0 (redeemUse f) (fun fr => fr.any && (match fr.s.redeemable fr.g.domain (fr.elect f.src f.a.index) with | .ok m' => m' == m && redeemSpan m.len == 0 | _ => false)) = true) ∧
      metB (moored g (moor0 .redeeming [word 7] [] none)) h0 (redeemUse f) (fun fr => fr.any && fails .ticketRedeemed (fr.s.redeemable fr.g.domain (fr.elect f.src f.a.index))) = true) ∧
    (let g := withP (withP (withS (grp 0) [(10, handle0)]) 12 (bufAddr (-1) 0 121)) 14 (bufAddr (-1) 0 244); let f := lf (rf h0 14 10 12 0 0 0) 0;
      metB (moored g (moor0 .moored [word 7] [] none)) h0 (redeembUse f) (fun fr =>
        let target := addrAdd (fr.readS2 2 f.r.b.index) (f.ext.field 21 6).val;
        let barrier := addrAdd (fr.readS2 0 f.r.d.index) (f.ext.field 15 6).val;
        let ag := fr.g.agent fr.sp.idx;
        fr.any && bufPairCheck fr.s ag (redeembReq false) target (redeembReq true) barrier == none
          && (match fr.s.redeemable fr.g.domain (fr.elect f.r.src f.r.a.index) with
            | .ok m => decide ((bufPos target : Int) + m.firstOfs + 3 * (m.len : Int) - 1 < bufLimit fr.s ag ((bufPath (addrPath target)).getD 0) target) && !m.poison
            | _ => false)) = true) ∧
    (let g := withS (grp 0) [(10, handle0)]; let f := rf h0 40 10 40 0 0 0; let q := rf h0 20 10 40 0 0 0;
      metB (moored g (moor0 .moored [word 7] [] none)) h0 (tkdropUse f) (fun fr => fr.any && fr.s.tkLook fr.g.domain (fr.elect 0 10) == .entry (moor0 .moored [word 7] [] none)) = true ∧
      metB (moored g (moor0 .redeeming [word 7] [] none)) h0 (tkdropUse f) (fun fr => fr.any && fr.s.tkLook fr.g.domain (fr.elect 0 10) == .entry (moor0 .redeeming [word 7] [] none)) = true ∧
      metB (mach g) h0 (tkdropUse f) (fun fr => fr.any && fr.s.tkLook fr.g.domain (fr.elect 0 10) == .stale) = true ∧
      metB (mach (grp 0)) h0 (tkdropUse f) (fun fr => fr.any && fr.s.tkLook fr.g.domain (fr.elect 0 10) == .malformed) = true ∧
      metB (moored g { moor0 .moored [word 7] [] none with domain := 5 }) h0 (tkdropUse f) (fun fr => fr.any && fr.s.tkLook fr.g.domain (fr.elect 0 10) == .foreign) = true ∧
      metB (moored g { moor0 .moored [word 7] [] none with domain := 5 }) h0 (tkqUse q) (fun fr => fr.any && fr.s.tkLook fr.g.domain (fr.elect 0 10) == .foreign) = true ∧
      metB (moored g (moor0 .moored [word 7] [] none)) h0 (tkqUse q) (fun fr => fr.any && fr.s.tkLook fr.g.domain (fr.elect 0 10) != .foreign) = true) := by
  decide +kernel

theorem witness_TicketEvents :
    (let a := { inFlight (.snapshot 0 moorEntries) word0 [] with dest := some ⟨false, 20, 1⟩ };
      let g := withX { grp 0 with infl := [a] } (fun x => { x with wait := .tkld 0 0 });
      (mach g).freeMoor 0 = some 0 ∧ (mach g).tkWaiters 0 = [(0, 0, 0)] ∧ (mach g).group? 0 = some g ∧
        g.infl.find? (fun a => a.split == 0 && a.kind == .snapshot 0 moorEntries) = some a) ∧
    (let a := inFlight (.snapshot 0 0) word0 []; let m := moor0 .pending [] [word0] none; let s := moored { grp 0 with infl := [a] } m;
      mapFind (moorKey 0 0) s.moor = some m ∧ s.snapshots 0 0 = [(m.key, a)] ∧ m.seq = a.seq ∧
        (match s.group? m.key with | some g => s.mayReturn g a | none => false) = true) ∧
    (let a := { inFlight (.delivery 0 0) [] [] with dest := some ⟨true, 12, 1⟩ }; let m := moor0 .redeeming [word 7] [] (some (.regs 0 4 12 7#32));
      let s := moored { grp 0 with infl := [a] } m;
      mapFind (moorKey 0 0) s.moor = some m ∧ s.group? 0 = some { grp 0 with infl := [a] } ∧
        ({ grp 0 with infl := [a] } : Group).infl.find? (fun a => a.seq == 4 && a.kind == .delivery 0 0) = some a) ∧
    (let target := [Loc.buf 0 0 0, .buf 0 0 1, .buf 0 0 2]; let barrier := [Loc.buf 0 0 243, .buf 0 0 244, .buf 0 0 245];
      let m := moor0 .redeeming [word 7] [] (some (.buffer 0 target barrier)); let s := moored (grp 0) m;
      placedB s target (3 * m.data.length) = true ∧ placedB s barrier 3 = true ∧ (∀ l ∈ barrier, l ∉ target) ∧
        (match s.readLocs barrier with | .ok _ => true | _ => false) = true) ∧
    (let m := { moor0 .moored [word 7] [] none with age := 10 }; let s := { moored (grp 0) m with launches := [{ lau with tkAge := 9 }] };
      mapFind (moorKey 0 0) s.moor = some m ∧ m.state = .moored ∧ (s.launch? m.launch).map (fun l => l.tkAge) = some 9) := by decide +kernel

/-- A layout of one 9-row, 27-column T9 tensor at page 0, in slot 0 of A, generation 1; and a crew that sees it. -/
def layWords : List (Nat × Word) :=
  [(0, pairLo (addr (phys 0 0))), (1, pairHi (addr (phys 0 0))), (3, word 3), (4, word 9), (5, word 27), (6, word 27), (12, wzero), (17, word 1)].map
    (fun e => (bufKey 0 0 e.1, e.2))
def layMach (g : Group) : State :=
  { mach g with launches := [{ lau with lcount := 1 }], crews := [{ cre with tiles := [4, 4, 4] }], bufs := layWords }
def copyF : LFmt := lf (rf h0 20 10 12 0 0 0) (-4 * 3 ^ 25 - 4 * 3 ^ 23)
def copyGrp (h : Int) : Group := withP (withP (withS (grp 0) [(10, h), (20, 0)]) 12 (bufAddr (-2) 0 121)) 14 (bufAddr (-1) 0 (243 + 1))
/-- Handle of slot 0, generation 1. -/
def handleL : Int := 3 ^ 6 - 364

theorem witness_TensorCopies :
    metB (layMach (copyGrp handleL)) h0 (tcopyUse copyF) (fun fr => fr.any && (match fr.tcopyJob copyF with | .ok _ => true | .error _ => false)) = true ∧
    metB (layMach (copyGrp 0)) h0 (tcopyUse copyF) (fun fr => fr.any && (match fr.tcopyJob copyF with | .error (.trap _) => true | _ => false)) = true ∧
    (let g := { grp 192 with ctx := some (ctxStart lau 0) };
      let s := { mach (grp 0) with groups := [(192, g)], cur := (192, 0) };
      metB s h0 (tcopyUse copyF) (fun fr => fr.any && fr.g.isSeq) = true) ∧
    (match (layMach (copyGrp handleL)).frame? h0 with
      | none => false
      | some fr => match fr.tcopyJob copyF with
        | .error _ => false
        | .ok (j, _) =>
          let s := { fr.s with tcJobs := [(0, j)] };
          let full := { fr.s with tcJobs := [(0, { j with done := [(0, 0)] })] };
          j.waits == [] && j.extent == (1, 1) && (mapFind 0 full.tcJobs).isSome &&
            (match s.copyWrite j 0 with
              | some (s1, _) => placedB s1 j.barrier 3 && (match s1.readLocs j.barrier with | .ok _ => true | _ => false) && s1.tcJobs == s.tcJobs
              | none => false)) = true := by decide +kernel

/-- Domain 7: page 0 in binary frame 47, by way of tables in frames 41 to 44. -/
def mapped (s : State) : State :=
  let put := fun (st : State) (f : Nat) (w : Int) => st.writeLocs [.packed f 0, .packed f 1, .packed f 2] (trytesOfWord (word w));
  let dir := fun (f : Int) => 729 * f - 243;
  { put (put (put (put s 41 (dir 42)) 42 (dir 43)) 43 (dir 44)) 44 (729 * 47 + 243 + 81 - 27 + 9) with roots := [(7, 41)] }
/-- Bytes of queue 0's descriptor. -/
def queueBytes (s : State) (es : List (Nat × Nat)) : State :=
  { s with mem := es.foldl (fun m e => memPut m (frameAddr s.ctrl.qtable + e.1) (BitVec.ofNat 8 e.2)) s.mem }
/-- Queue 0: sixteen slots in domain 7 at page position 0, enabled, READ 0, RESERVE `r`, quantum 1. -/
def queued (s : State) (r : Nat) : State :=
  let s1 := mapped { s with ctrl := { s.ctrl with qtable := 31, qset := true } };
  let ring := (codeRing s1);
  queueBytes s1 ((List.range 64).map (fun i => (i, 0)) ++ ring ++ [(11, 4), (12, 1), (14, 7), (16, r), (40, 1)])
where
  /-- the ring's address as eleven P5 bytes -/
  codeRing (_ : State) : List (Nat × Nat) := ((p5enc (addr low)).map (fun b => b.toNat)).zipIdx.map (fun e => (e.2, e.1))
/-- An image of type 5 in A. -/
def imgBufs : FMap Word := [(bufKey 0 0 0, wordOfTrytes [byteTryte 5#8, byteTryte 0#8, byteTryte 0#8])]
def binitUse (f : MFmt) : Use := { resv := resvPred f.h, opds := scalarOpds f true false }

theorem witness_BarrierRecordQueue :
    (let f := mf 20 10 8 0; let g := withP (grp 0) 10 (bufAddr (-1) 0 1); let m := barrierOp f .store;
      metB (mach (withS g [(20, 5)])) h0 (binitUse f) (fun fr => decide (0 ≤ barrierCount (fr.readS 0 20)) && issuesB m (fun fr => nativeRecord fr.s fr.g 8) (barrierRq true) fr) = true ∧
      metB (mach (withS g [(20, -5)])) h0 (binitUse f) (fun fr => fr.any && decide (barrierCount (fr.readS 0 20) < 0)) = true ∧
      metB (mach g) h0 { resv := resvPred f.h, opds := scalarOpds f false true } (issuesB (barrierOp f .load) (fun fr => nativeRecord fr.s fr.g 8) (barrierRq false)) = true ∧
      -- BARRV of 5 at a word of 0, 1, 4, 5 and −1
      (∀ c ∈ [(0 : Int), 1, 4, 5, -1], metB { mach (withS g [(20, 5)]) with bufs := [(bufKey 0 0 0, word c)] } h0 (binitUse f) (fun fr =>
        fr.any && fr.drained && (match fr.wordPlace f (barrierReq true) with | .ok (_, locs) => placedB fr.s locs 3 && locs == [.buf 0 0 0, .buf 0 0 1, .buf 0 0 2] | _ => false)) = true)) ∧
    (let f := mf 2 10 8 0;
      metB (mach (withP (grp 0) 10 (phys 0 1))) h0 (recldUse f) (fun fr => fr.any && fr.g.key == fr.key &&
        (match laneCheck fr.s (fr.g.agent fr.sp.idx) recldReq (fr.recldAddrs f none).2 (fr.recldAddrs f none).1 with
          | .ok ps =>
            let las := recldLanes fr.g.isSeq (fr.recldAddrs f none).1 ps;
            !fr.recldWaits (fr.recldAddrs f none).1 (las.flatMap (fun la => la.locs)) && fr.s.l1 == [] && las.length == 12
              && las.all (fun la => tilesOf la.locs == [(0, 0, true)] && good (fr.s.readLane fr.g.core la))
          | _ => false)) = true) ∧
    (let f := fun (e : Int) => lf (rf h0 20 10 12 0 0 0) e;
      let u := fun (f : LFmt) => ({ resv := resvPred f.r.h || plainR f.r || f.ext.trit 26 == -1 || (f.ext.field 0 26).val != 0,
                                    opds := [pairOpd f.r.d.index false true, pairOpd f.r.a.index true false, regOpd false f.r.b.index true false] } : Use)
      let g := withP (withS { grp 0 with domain := 7 } [(12, 0)]) 10 (bufAddr (-1) 0 0);
      let st := fun (r : Nat) => { queued (mach g) r with bufs := imgBufs };
      metB (st 0) h0 (u (f 0)) (fun fr => fr.any && good (fr.enqImage (fr.readS2 1 10)) && fr.drained && fr.s.mayAppend fr.g 0
        && fr.s.qReserve 0 < fr.s.qRead 0 + fr.s.qSlots 0 && good (fr.s.byteLocs (fr.s.qDomain 0) true (fr.s.slotAddr 0 0) 64)) = true ∧
      metB (st 16) h0 (u (f (3 ^ 26))) (fun fr => fr.any && good (fr.enqImage (fr.readS2 1 10)) && fr.drained && fr.s.mayAppend fr.g 0 && fr.s.qRead 0 + fr.s.qSlots 0 ≤ fr.s.qReserve 0) = true ∧
      metB { mach { g with domain := 0 } with bufs := imgBufs } h0 (u (f 0)) (fun fr => fr.any && good (fr.enqImage (fr.readS2 1 10)) && fr.drained && !fr.s.mayAppend fr.g 0) = true) := by
  decide +kernel

/-- The further cases of the side log, TKLD, tensor copies, barriers, records and queues: an entry whose frame's key slot is not loaded, one whose
page has no translation; no entry of the side log in TKLD's way; a tryte of a tile; no active lane, a bad record and a bad address of RECLD; an image
that is no packet, and a full queue that is waited for. -/
theorem witness_SideLogCauses :
    (let e := entry0 (.store (trytesOfWord (word 7))) true; let s := { logging e with frameKey := [(0, 3)] };
      s.logHead 0 = some e ∧ (match s.entryPlace e with | .key k => k == 2 | _ => false) = true) ∧
    (let e := { entry0 (.store (trytesOfWord (word 7))) true with domain := 9 }; let s := logging e;
      s.logHead 0 = some e ∧ s.group? e.key = some (grp 0) ∧ (match s.entryPlace e with | .fail _ => true | _ => false) = true) ∧
    (let e := entry0 (.store (trytesOfWord (word 7))) true;
      (match (logging e).entryPlace e with | .at_ _ _ => true | _ => false) = true ∧
      ({ grp 0 with infl := [] } : Group).infl.all (fun a => !a.precedes e) = true) ∧
    (let g := withP (grp 0) 10 (phys 0 1);
      metB (mach g) h0 (tkldUse (lf (rf h0 20 10 40 0 0 0) (4 * 3 ^ 25 + 3 ^ 14 - 40 * 3 ^ 10))) (fun fr =>
        (fr.tkldAddrs (lf (rf h0 20 10 40 0 0 0) (4 * 3 ^ 25 + 3 ^ 14 - 40 * 3 ^ 10)) none true 1).1.all (fun a => !fr.s.logged fr.key fr.sp.idx a)) = true) := by
  decide +kernel

theorem witness_CopyTryte :
    (match (layMach (copyGrp handleL)).frame? h0 with
      | none => false
      | some fr => match fr.tcopyJob copyF with
        | .error _ => false
        | .ok (j, _) => (match j.work with
          | .tcopy l o factors pages core path tile0 =>
            o.tiles l == 1 && l.planes == 1 && l.n == 9 && l.e == 27 && core == 0 && path == 1 && tile0 == 0 && j.waits == [] && j.done == [] &&
              j.early == [] && j.fixed == [] && (fr.s.copyWait j).isNone &&
              -- the last tryte of the tile, read now or read before
              ([(fr.s.copyCell j.launch l o factors pages 0 8 26).2.1, [5]].all (fun codes => (planeTrytes l [codes] 0)[0]?.isSome)) &&
              (mapFind 242 [(242, [(5 : Int)])]).isSome
          | _ => false)) = true := by decide +kernel

theorem witness_RecordQueueCauses :
    (let f := mf 2 10 8 0;
      metB (mach (withP (grp 0) 10 (phys 0 1))) hp (recldUse { f with h := hp }) (fun fr => !fr.any) = true ∧
      metB (mach (withP (grp 0) 10 (phys 0 0))) h0 (recldUse f) (fun fr => fr.any &&
        (match laneCheck fr.s (fr.g.agent fr.sp.idx) recldReq (fr.recldAddrs f none).2 (fr.recldAddrs f none).1 with | .fail _ => true | _ => false)) = true ∧
      metB (mach (withP (grp 0) 10 (phys 0 1))) h0 (recldUse (mf 2 10 0 0)) (fun fr => fr.any && fails .badRecord ((nativeRecord fr.s fr.g 0).map (fun _ => ()))) = true) ∧
    (let f := lf (rf h0 20 10 12 0 0 0) 0;
      let u : Use := { resv := resvPred f.r.h || plainR f.r || f.ext.trit 26 == -1 || (f.ext.field 0 26).val != 0
                       opds := [pairOpd f.r.d.index false true, pairOpd f.r.a.index true false, regOpd false f.r.b.index true false] }
      let g := withP (withS { grp 0 with domain := 7 } [(12, 0)]) 10 (bufAddr (-1) 0 0);
      metB (queued (mach g) 0) h0 u (fun fr => fr.any && !good (fr.enqImage (fr.readS2 1 10))) = true ∧
      metB { queued (mach g) 16 with bufs := imgBufs } h0 u (fun fr => fr.any && good (fr.enqImage (fr.readS2 1 10)) && fr.drained && fr.s.mayAppend fr.g 0
        && fr.s.qRead 0 + fr.s.qSlots 0 ≤ fr.s.qReserve 0 && f.ext.trit 26 != 1) = true) := by
  decide +kernel


/-! ## The statements on matrices, solicitation, Lens and translation -/

/-- A context of cluster 0 with the array of rank 0 claimed, and the machine that runs it. -/
def seqG : Group := { grp 192 with nv := 0, ctx := some { ctxStart lau 0 with claims := [0] } }
def seqM (g : Group) : State := { mach (grp 0) with groups := [(192, g)], cur := (192, 0), crews := [{ cre with tiles := [4, 4, 4] }] }
/-- Type tags of C's first two tiles, and a loaded descriptor of rank 0's array. -/
def tagged (t : Int) : FMap Int := [(tagKey 0 2 0, t), (tagKey 0 2 1, t)]
def desc0 (t : Int) : MxDesc :=
  { job := 0, ty := t, k := 1, n := 1, words := [], waddr := azero, saddr := none, op := .void, void := false, seq := 0, pc := azero, region := none, ecount := wzero, crews := [] }
def loaded (t : Int) : FMap MxArray := [(0, { MxArray.empty with desc := some (desc0 t) })]
/-- A plan is made, and the queues have room; or its first failing check is `c`. -/
def plans (plan : Fr → Except Cause MxPlan) (fr : Fr) : Bool :=
  fr.any && !fr.mxWaits && (match plan fr with | .ok p => p.arrays.all (fun c => !fr.s.mxFull c) && !p.arrays.isEmpty | .error _ => false)
def refuses (c : Cause) (plan : Fr → Except Cause MxPlan) (fr : Fr) : Bool := fr.any && !fr.mxWaits && fails c (plan fr)
/-- A matrix job of the context. -/
def mxJob0 (op : MxOp) (foot : List Foot) (barrier : List Loc) : MxJob :=
  { launch := 1, cluster := 0, nth := 0, seq := 0, op := op, arrays := [0], words := [], pc := addr 3000, region := none, ecount := wzero, ops := []
    crews := [(0, 0)], foot := foot, barrier := barrier, arrive := 243, units := 1, done := [], tags := [], fault := none, complete := false }
def cReg (t : Int) (tile : Nat) : MxRegion := ⟨0, 2, tile, t, 1, 1⟩
def aReg (t : Int) : MxRegion := ⟨0, 0, 0, t, 1, 1⟩
/-- A claim or release of rank 0: mask trit 0. -/
def claimI (n : Int) : IFmt := im 40 40 n

theorem witness_MatrixIssue :
    (let wG := withP (withP (withP seqG 10 (bufAddr (-2) 1 121)) 12 (bufAddr (-1) 1 121)) 14 (bufAddr (-3) 1 121);
      let g := withP (withP wG 16 (bufAddr (-3) 1 364)) 18 (bufAddr (-1) 1 364);
      let st := fun (t : Int) => { seqM g with tags := tagged t, arrays := loaded t };
      let f := fun (d a : Nat) (e : Int) => lf (rf h0 d a 40 0 0 0) e;
      let ld := f 40 10 (3 * 3 ^ 25 - 121 * 3 ^ 20 - 40 * 3 ^ 16); let ma := f 14 12 (3 * 3 ^ 25 + 4 * 3 ^ 19 - 364 * 3 ^ 13 + 3 ^ 12);
      let mc := f 14 12 (-4 * 3 ^ 25 - 4 * 3 ^ 19 - 364 * 3 ^ 13 + 3 ^ 12); let mz := f 14 40 (4 * 3 ^ 25 - 364 * 3 ^ 19 - 40 * 3 ^ 15);
      let ac := f 14 16 (4 * 3 ^ 25 - 364 * 3 ^ 19 - 40 * 3 ^ 15); let mo := f 12 14 (4 * 3 ^ 25 + 4 * 3 ^ 23 - 364 * 3 ^ 17 - 40 * 3 ^ 13);
      metB (st 3) h0 (mldwUse ld) (plans (fun fr => fr.mldwPlan ld)) = true ∧ metB (st 3) h0 (mmaUse ma) (plans (fun fr => fr.mmaPlan false ma)) = true ∧
      metB (st (-4)) h0 (mmaUse mc) (plans (fun fr => fr.mmaPlan true mc)) = true ∧ metB (st 3) h0 (mzeroUse mz) (plans (fun fr => fr.mzeroPlan mz)) = true ∧
      metB (st 4) h0 (maccUse ac) (plans (fun fr => fr.maccPlan ac)) = true ∧ metB (st 4) h0 (moutUse mo) (plans (fun fr => fr.moutPlan mo)) = true ∧
      metB (seqM g) h0 (mmaUse ma) (refuses .arrayNotLoaded (fun fr => fr.mmaPlan false ma)) = true ∧
      metB (seqM { g with ctx := some (ctxStart lau 0) }) h0 (mzeroUse mz) (refuses .matrixRankAbsent (fun fr => fr.mzeroPlan mz)) = true) ∧
    (((seqM seqG).frame? h0).map (fun fr => decodeCause fr.g (mwaitUse (im 40 40 (-1)))) = some (some .reservedField) ∧
      metB (seqM seqG) h0 (mwaitUse (im 40 40 0)) (fun fr => fr.any && decide ((fr.s.mxIncomplete fr.g : Int) ≤ 0) && fr.s.mxFaulted fr.g == none) = true ∧
      metB { seqM seqG with mxJobs := [(0, { mxJob0 .void [] [] with complete := true, fault := some .formatCode })] } h0 (mwaitUse (im 40 40 0))
        (fun fr => fr.any && decide ((fr.s.mxIncomplete fr.g : Int) ≤ 0) && (fr.s.mxFaulted fr.g).isSome) = true) ∧
    (∀ n ∈ [0, 7], metB (seqM seqG) h0 (mstatUse (rx 20 n 40)) (fun fr => fr.any && fr.g.ctx.isSome) = true) ∧
    -- claim of rank 0, release, K-split 4, binding 0: the ends of each range
    (∀ e ∈ [((1 : Int), false), (-364, splitBad (im 40 40 (-364))), (2, false), (-4, (seqM seqG).bindBad (im 40 40 (-4)))],
      metB (seqM seqG) h0 (mcfgUse (im 40 40 e.1) false) (fun fr => fr.any && fr.g.ctx.isSome && (fr.s.mxOpen fr.g).isEmpty && fr.s.mxFaulted fr.g == none) = true) ∧
    (maskBad (im 40 40 (1 - 3 ^ 7 - 3 ^ 6)) = false ∧ splitBad (im 40 40 (-2)) = false ∧ (seqM seqG).bindBad (im 40 40 (-364)) = false) ∧
    (let f := im 40 40 (1 - 3 ^ 7 - 3 ^ 6); (f.imm.field 6 2).index ≤ 3 ∧ maskBad f = false ∧ maskRanks f = [0] ∧ (seqM seqG).claimAll seqG 0 [] [0] = ([0], none)) ∧
    (let f := im 40 40 (-2); (f.imm.field 0 2).index ≤ 2 ∧ (f.imm.field 2 4).val = 0) ∧
    (let f := im 40 40 (-364); (f.imm.field 0 6).index < lau.crewsPer) := by decide +kernel

/-- A job's unit may run. -/
def unitRuns (s : State) (j : MxJob) : Bool :=
  mapFind 0 s.mxJobs == some j && !j.complete && (match s.launch? j.launch with | some l => l.halted.isNone | none => false) && j.done.length < j.units
    && s.mxReady 0 j && !s.mxVoid j && !s.footBad (s.mxReads j) && s.groups.all (fun e => !e.2.parked)

theorem witness_MatrixUnits :
    (let load := mxJob0 (.load ⟨0, 1, 0, 3, 1, 1⟩ false 324 []) [] [];
      ∀ j ∈ [mxJob0 (.zero (cReg 4 0)) [(cReg 4 0).foot true] [], mxJob0 (.mma (aReg 3) (cReg 4 0) 1 true 0 false 27) [] [], load],
        unitRuns { seqM seqG with mxJobs := [(0, j)], arrays := loaded 3 } j = true) ∧
    (let load := mxJob0 (.load ⟨0, 1, 0, 3, 1, 1⟩ false 324 []) [] []; ((seqM seqG).expand (load.desc 0 ⟨0, 1, 0, 3, 1, 1⟩)).isSome = true) ∧
    (∀ f ∈ [none, some Cause.formatCode], let j := { mxJob0 (.zero (cReg 4 0)) [] [.buf 0 0 0, .buf 0 0 1, .buf 0 0 2] with done := [0], fault := f };
      let s := { seqM seqG with mxJobs := [(0, j)] };
      mapFind 0 s.mxJobs = some j ∧ j.units ≤ j.done.length ∧ j.op ≠ .void ∧ placedB s j.barrier 3 = true ∧
        (match s.readLocs j.barrier with | .ok _ => true | .error _ => false) = true) ∧
    (let g := withX seqG (fun x => { x with wait := .ending });
      (seqM g).group? (gkey 0 192) = some g ∧ g.key = gkey 0 192 ∧ (g.splits.find? (fun x => x.wait == .ending)).isSome = true ∧ g.status = .running ∧
        g.parked = false ∧ g.isSeq = true ∧ (seqM g).quiet g = true ∧ (seqM g).mxOpen g = [] ∧ (seqM g).mxFaulted g = none ∧ g.faults = []) := by
  decide +kernel

/-- A census of core 0 for tensor 5 over its own core, a directory entry of the tile at position 121 of A, and a responder. -/
def cen (complete : Bool) (resps : List Resp) (arrived : List Nat) : Census :=
  { gen := 1, core := 0, launch := 1, domain := 0, op := 0, scope := 0, tensor := word 5, row0 := 0, nrows := 2, col0 := 0, ncols := 2, level := 0, px := 0
    py := 0, arrived := arrived, matched := 0, resps := resps, fault := none, complete := complete, orphan := false, result := wzero, sat := false }
def ent (pins : Nat) : DirEntry :=
  { state := .live, pins := pins, tensor := word 5, trow := 0, tcol := 0, buf := 0, pos := 121, launch := 1, crew := 0, domain := 0, peer := none }
def rsp (started finished : Bool) : Resp := { core := 0, launch := 1, crew := 0, hits := [0], started := started, finished := finished, reply := none, fault := none }
def rspOf : Responder := { census := 0, gen := 1, handle := censusHandle 0 1, replied := false, hits := [0] }
def dirM (g : Group) (pins : Nat) : State := { mach g with dir := [(0, ent pins)], crews := [{ cre with tiles := [4, 4, 4] }] }
def tileA : Int := bufAddr (-1) 0 121
def at0 : DirAt := ⟨0, 1, 0, 0, 121⟩

theorem witness_Solicitation :
    (let f := lf (rf h0 20 12 14 0 0 0) (3 ^ 18 + 3 ^ 9); let nil := lf (rf h0 20 12 14 0 0 0) (3 ^ 9);
      let g := withS (grp 0) [(12, 5), (14, 0)];
      let full : FMap Census := (List.range 9).map (fun i => (i, cen false [] []));
      metB (mach g) h0 (solicitUse f) (fun fr => fr.any && 0 < (fr.readS 1 12).val && coordRow (fr.readS 2 14) == 0 && !fr.s.censusFull fr.g.askCore && fr.drained
        && (fr.s.launch? fr.g.launch).isSome && !fr.s.freeCensus.isEmpty) = true ∧
      metB { mach g with census := full } h0 (solicitUse f) (fun fr => fr.any && fr.s.censusFull fr.g.askCore) = true ∧
      metB (mach g) h0 (solicitUse nil) (fun fr => fr.any) = true ∧ (nil.ext.field 18 9).val = 0 ∧
      metB (mach (grp 0)) h0 (solicitUse f) (fun fr => fr.any && (fr.readS 1 12).val == 0) = true) ∧
    metB { mach { grp 0 with resp := some rspOf } with census := [(0, cen false [rsp true false] [0])] } h0 (sreplyUse (rx 40 10 40))
      (fun fr => fr.any && fr.sp.falls.isEmpty && fr.g.splits.all (fun x => x.idx == fr.sp.idx) && fr.drained && (mapFind 0 fr.s.census).isSome) = true ∧
    (let g := withS (grp 0) [(10, (censusHandle 0 1).val)];
      ∀ b ∈ [false, true], metB { mach g with census := [(0, cen b [] [0])] } h0 (swaitUse (rx 20 10 40))
        (fun fr => fr.any && handleCensus (fr.readS 1 10) == 0 && handleCensusGen (fr.readS 1 10) == 1 && fr.g.resp == none && fr.g.awake fr.sp.idx
          && (fr.s.censusWaiters 0).isEmpty) = true) ∧
    (let f := lf (rf h0 20 10 14 0 0 0) 0; let g := withP (withS (grp 0) [(14, 5), (20, 0)]) 10 tileA;
      let ok := fun (fr : Fr) => fr.any && !fr.g.isSeq && bufCheck fr.s (fr.g.agent fr.sp.idx) (tileReq true false) (fr.readS2 1 10) == none
        && (fr.g.agent fr.sp.idx).dirAt (fr.readS2 1 10) == at0 && fr.drained;
      (∀ n ∈ [0, 1], metB (dirM g n) h0 (publishUse f) (fun fr => ok fr && (fr.s.dirLive? at0).isSome && fr.s.dirPinned at0 == (n == 1)) = true) ∧
      metB { dirM g 0 with dir := [] } h0 (publishUse f) (fun fr => ok fr && (fr.s.dirLive? at0).isNone && (mapFind 0 fr.s.dir).isNone) = true ∧
      (∀ n ∈ [0, 1], metB (dirM g n) h0 (withdrawUse (rx 20 10 40)) (fun fr => ok fr && !fr.g.pinsOwn 0 && fr.s.withdrawDelayed at0 == (n == 1)) = true) ∧
      metB { dirM g 0 with dir := [] } h0 (withdrawUse (rx 20 10 40)) (fun fr => ok fr && !fr.s.withdrawDelayed at0 && (fr.s.dirLive? at0).isNone) = true) ∧
    (∀ k ∈ [(0 : Int), 1, -1], metB { mach (withS { grp 0 with resp := some rspOf } [(10, k)]) with dir := [(0, ent 1)] } h0 (sqryUse (rx 20 10 40))
      (fun fr => fr.any && fr.g.resp.isSome) = true) ∧
    (let f := lf (rf h0 20 10 14 0 0 0) 0; let g := withP (withP (withP (grp 0) 10 tileA) 14 (bufAddr (-1) 0 244)) 20 (bufAddr (-2) 0 121);
      ∀ n ∈ [0, 1], metB (dirM g n) h0 (migrateUse f) (fun fr =>
        let ag := fr.g.agent fr.sp.idx; let src := fr.readS2 1 10; let dst := addrAdd (fr.readS2 0 20) 0; let bar := addrAdd (fr.readS2 2 14) 0;
        fr.any && !fr.g.isSeq && bufPath (addrPath src) == some 0 && bufPath (addrPath dst) == some 1 && ownBuf src && bufPath (addrPath bar) == some 0
          && earlyCheck fr.s ag (tileReq true false) false src == none && earlyCheck fr.s ag (tileReq false true) false dst == none
          && earlyCheck fr.s ag (tcopyReq true) false bar == none && !fr.s.migrateClash fr.g (ag.dirAt src) (ag.dirAt dst) && !fr.s.tcFull ag.core && fr.drained
          && (mapFind 1 fr.s.dir).isNone && (fr.s.dirLive? (ag.dirAt src)).isSome && fr.s.dirPinned (ag.dirAt src) == (n == 1)) = true) := by
  decide +kernel

/-- A migration's two entries and its job. -/
def migJob : TcJob :=
  { core := 0, launch := 1, domain := 0, work := .migrate 0 1 (0, 0, 0) (0, 1, 0), barrier := [.buf 0 0 243, .buf 0 0 244, .buf 0 0 245], crews := [(0, 0)]
    done := [], fault := none, foot := [], waits := [] }
def atW : DirAt := ⟨0, 1, 0, 1, 121⟩

/-- A directory with a FREE entry gives one, whichever that is. -/
theorem dirFree_some (s : State) (core i : Nat) (hi : i < dirEntries) (hm : mapFind (dirEntries * core + i) s.dir = none) :
    ∃ kd, s.dirFree? core = some kd := by
  have hmem : i ∈ (List.range dirEntries).filter (fun i => (mapFind (dirEntries * core + i) s.dir).isNone) :=
    List.mem_filter.mpr ⟨List.mem_range.mpr hi, by simp [hm]⟩
  have hl := Nat.mod_lt (Config.pick s.free) (List.length_pos_of_mem hmem)
  exact ⟨_, by unfold State.dirFree?; exact congrArg (Option.map _) (List.getElem?_eq_getElem hl)⟩

theorem witness_SolicitationEvents :
    (let s := fun (w : DirOp) => { waits (.pins w) with dir := [(0, ent 0)] };
      let seen := fun (w : DirOp) => ((s w).waiter 0 0 0).isSome && (s w).dirLive? at0 == some (0, ent 0) && !(s w).withdrawDelayed at0;
      seen (.publish at0 (word 6) 1 1) = true ∧ seen (.withdraw at0 20) = true ∧
      (let w := DirOp.migrate at0 atW []; seen w = true ∧ (s w).tcFull 0 = false ∧ (s w).migrateClash (grp 0) at0 atW = false ∧
        1 < dirEntries ∧ mapFind (dirEntries * atW.core + 1) (s w).dir = none)) ∧
    (let s := { mach (grp 0) with tcJobs := [(0, migJob)], dir := [(0, { ent 0 with state := .forwarded, peer := some 1 }), (1, { ent 0 with state := .incoming, buf := 1, peer := some 0 })] };
      mapFind 0 s.tcJobs = some migJob ∧ (mapFind 0 s.dir).map (·.peer) = some (some 1) ∧ (mapFind 1 s.dir).map (·.peer) = some (some 0) ∧
        (match s.readLocs (tileLocs 0 0 0) with | .ok _ => true | .error _ => false) = true ∧ placedB s (tileLocs 0 1 0) 243 = true ∧
        placedB s migJob.barrier 3 = true ∧ (∀ l ∈ migJob.barrier, l ∉ tileLocs 0 1 0) ∧
        (match s.readLocs migJob.barrier with | .ok _ => true | .error _ => false) = true) ∧
    (∀ d ∈ [[], [(0, ent 0)]], let c := cen false [] []; let s := { mach (grp 0) with census := [(0, c)], dir := d };
      mapFind 0 s.census = some c ∧ 0 ∉ c.arrived ∧ 0 ∈ c.clusters ∧ (s.hitCrews c 0 = [] ∨ d ≠ [])) ∧
    (let c := cen false [rsp false false] [0]; let s := { mach (grp 0) with census := [(0, c)], dir := [(0, ent 1)] };
      (s.launch? 1).isSome = true ∧ (s.crew? 1 0 0).isSome = true ∧ (s.pickSlot 0).isSome = true ∧
        c.resps.find? (fun r => r.core == 0 && r.launch == 1 && r.crew == 0 && !r.started) = some (rsp false false) ∧ (ent 1).state ≠ .incoming ∧
        s.groupsFit 0 1 lau.nv = true ∧ lau.halted = none ∧ cre.reserved = false ∧ lau.live 0 = true ∧ lau.abort = none) ∧
    (∀ o ∈ [true, false], let c := { cen false [rsp true true] [0] with orphan := o }; let s := { mach (grp 0) with census := [(0, c)] };
      mapFind 0 s.census = some c ∧ (∀ k ∈ c.clusters, k ∈ c.arrived) ∧ (∀ r ∈ c.resps, r.finished = true) ∧ s.censusWaiters 0 = []) := by
  refine ⟨?_, ?_, ?_, ?_, ?_⟩ <;> decide +kernel

/-- A session with a ring of `size` units of 256 bytes (0: sixteen bytes), and a record on which its program runs. -/
def sess (flags size : Nat) : Session :=
  { desc := [BitVec.ofNat 8 flags, 255#8] ++ zeroBytes 22 ++ [if size = 0 then 16#8 else 0#8, BitVec.ofNat 8 size] ++ zeroBytes 38
    prog := [0x88000000#32], wrptr := 0, rdptr := 0, drops := 0, counters := List.replicate 64 0#64, fullPending := false }
def rec0 : TraceRec := { bytes := zeroBytes 24, kind := 1, launch := 1, die := 0, src := 0 }
def runOn (rest : List Nat) : LensRun := { session := 0, prog := [0x88000000#32], pc := 0, k := List.replicate 8 1#64, record := rec0, rest := rest }
def lensM (x : Session) (rest : List Nat) : State := { mach (grp 0) with sessions := [(0, x), (1, sess 1 16)], lens := some (runOn rest) }

/-- A record that fits, one that does not, a trigger that halts, a further session; the first and the last counter. -/
theorem witness_LensOperations :
    (∀ flags ∈ [1, 5], let s := lensM (sess flags 16) []; let x := sess flags 16;
      s.lens = some (runOn []) ∧ mapFind 0 s.sessions = some x ∧ x.fullPending = false ∧ x.ringSize ≠ 0 ∧ x.full 24 = false ∧ x.pad 24 = 0 ∧
        x.counters.length = 64 ∧ x.trigHalt = (flags == 5)) ∧
    (let x := sess 1 0; x.fullPending = false ∧ x.ringSize ≠ 0 ∧ x.full 24 = true ∧ x.fullStop = false) ∧
    lau.halted = none ∧ lau.complete = false ∧ (0#18).toNat < 64 ∧ (63#18).toNat < 64 ∧
    (let s := lensM (sess 1 16) [1]; (mapFind 1 s.sessions).isSome = true ∧ (sess 1 16).accepts s 1 1 = true) := by decide +kernel

/-- Domain 7's tables with a given leaf word; the miss and the ask of its page 0. -/
def mappedLeaf (w : Int) : State := (mapped (mach (grp 0))).writeLocs [.packed 44 0, .packed 44 1, .packed 44 2] (trytesOfWord (word w))
def miss7 (access : Int) : Miss := { core := 0, domain := 7, va := addr low, access := access, path := 0, key := 0, split := 0 }
def region7 : AllocRegion :=
  { domain := 7, page := 0, pages := 1, write := Tern.ofInt 1 1, mode := Tern.ofInt 1 1, cache := Tern.ofInt 1 1, tiling := Tern.ofInt 1 0, key := none }
def walkIs (s : State) (n : Nat) : Bool :=
  match s.walk 7 (addr low), n with | .leaf _ _, 0 => true | .invalid l, k => l == k | .bad, 9 => true | _, _ => false

theorem witness_TranslationService :
    (let s := { mach (grp 0) with misses := [miss7 (-1)] };
      s.group? (gkey 0 191) = none ∧ s.firstMiss 0 = some (miss7 (-1)) ∧ ({ s with walkerEntry := addr 600 } : State).walkerEntry ≠ azero ∧ s.walkerEntry = azero ∧
        walkIs (mapped s) 0 = true ∧ walkIs (mappedLeaf 0) 1 = true ∧
        walkIs (mappedLeaf (729 * 10099856 + 243)) 9 = true ∧ walkIs s 4 = true ∧ (miss7 (-1)).core = 0) ∧
    (let s := { mach (grp 0) with groups := [(191, { walkGrp with slot := 191, walkAt := 0 })], now := 4097 };
      (s.group? (gkey 0 191)).isSome = true ∧ walkGrp.walk = some miss0 ∧ 0 + 4096 < s.now) ∧
    (let s := { mappedLeaf 0 with asks := [⟨miss7 0⟩], allocatable := [region7] };
      s.asks[0]? = some ⟨miss7 0⟩ ∧ s.regionOf 7 (pageNum (addr low)) = some region7 ∧ mapFind 7 s.roots = some 41 ∧ s.tableAt (addr low) 1 4 41 = some 44 ∧
        s.frameFree 60 = true ∧ s.frameFree 10099855 = true ∧ 44 < frameCount ∧ s.poisoned 44 0 = false ∧ levelIndex (addr low) 1 = 0 ∧
        ({ s with allocatable := [] } : State).regionOf 7 0 = none) ∧
    (∀ a ∈ [(-1 : Int), 1], let s := { mach (grp 0) with asks := [⟨miss7 a⟩] }; walkIs s 4 = true ∧ s.regionOf 7 0 = none ∧ (miss7 a).access ≠ 0) ∧
    (let s := mapped (mach (grp 0)); (∀ l ∈ [1, 4], s.tableAt (addr low) l 4 41 = some (45 - l) ∧ s.poisoned (45 - l) 0 = false) ∧
      (∀ f ∈ [(0 : Int), 10099855], 0 ≤ pteFrame (word (729 * f - 243)) ∧ pteFrame (word (729 * f - 243)) < frameCount)) ∧
    (5 ∉ (mach (grp 0)).badFrames ∧ 5 ∉ (mach (grp 0)).retired) := by decide +kernel

/-- The further cases of the matrix class: no lane; an outstanding buffer load; a full queue; too many incomplete; a recorded fault; a claim that
another context's or an absent rank fails. -/
theorem witness_MatrixWaits :
    (let mz := lf (rf h0 14 40 40 0 0 0) (4 * 3 ^ 25 - 364 * 3 ^ 19 - 40 * 3 ^ 15); let g := withP seqG 14 (bufAddr (-3) 1 121);
      let busy : Access := { loadOut with lanes := [{ lane := 0, locs := [.buf 0 0 0], va := azero, data := [], l1 := false, l2 := false, cls := 0, stream := false, b := azero, cmp := azero }] };
      let jobs := fun (n : Nat) (j : MxJob) => (List.range n).map (fun i => (i, j));
      let j0 := mxJob0 (.zero (cReg 4 0)) [] [];
      metB (seqM g) hp (mzeroUse { mz with r := { mz.r with h := hp } }) (fun fr => !fr.any) = true ∧
      metB (seqM { g with infl := [busy] }) h0 (mzeroUse mz) (fun fr => fr.any && fr.mxWaits) = true ∧
      metB { seqM g with mxJobs := jobs 9 j0 } h0 (mzeroUse mz) (fun fr => fr.any && !fr.mxWaits &&
        (match fr.mzeroPlan mz with | .ok p => p.arrays.any (fun c => fr.s.mxFull c) | .error _ => false)) = true ∧
      metB { seqM { g with ctx := some { ctxStart lau 0 with issuedMx := 1 } } with mxJobs := jobs 1 j0 } h0 (mwaitUse (im 40 40 0)) (fun fr => fr.any && decide (0 < (fr.s.mxIncomplete fr.g : Int))) = true ∧
      metB { seqM g with mxJobs := jobs 1 j0 } h0 (mcfgUse (im 40 40 1) false) (fun fr => fr.any && !(fr.s.mxOpen fr.g).isEmpty) = true ∧
      metB { seqM g with mxJobs := jobs 1 { j0 with complete := true, fault := some .formatCode } } h0 (mcfgUse (im 40 40 1) false)
        (fun fr => fr.any && (fr.s.mxOpen fr.g).isEmpty && (fr.s.mxFaulted fr.g).isSome) = true ∧
      (let s := { seqM seqG with crews := [] }; s.claimAll seqG 0 [] [0] = ([], some .matrixRankAbsent))) := by decide +kernel

/-- The cases in which solicitation traps or waits: limits, replies that may not be, handles that name no census, places that may not be published,
keys of one's own, a full directory. -/
theorem witness_SolicitationTraps :
    (let f := lf (rf h0 20 12 14 0 0 0) (3 ^ 18 + 3 ^ 9); let g := withS (grp 0) [(12, 5), (14, 0)];
      metB (mach g) hp (solicitUse { f with r := { f.r with h := hp } }) (fun fr => !fr.any) = true ∧
      metB (mach { g with infl := [loadOut] }) h0 (solicitUse f) (fun fr => fr.any && !fr.s.censusFull fr.g.askCore && !fr.drained) = true ∧
      metB (mach (grp 0)) h0 (sreplyUse (rx 40 10 40)) (fun fr => fr.any && fr.g.resp == none) = true ∧
      metB (mach { grp 0 with resp := some { rspOf with replied := true } }) h0 (sreplyUse (rx 40 10 40)) (fun fr => fr.any && fr.g.resp.isSome) = true ∧
      metB (mach (withX { grp 0 with resp := some rspOf } (fun x => { x with falls := [⟨addr 3300, 7#32, false⟩] }))) h0 (sreplyUse (rx 40 10 40))
        (fun fr => fr.any && fr.g.resp == some rspOf && !fr.sp.falls.isEmpty) = true) ∧
    (let g := withS (grp 0) [(10, (censusHandle 0 1).val)]; let u := swaitUse (rx 20 10 40);
      metB (mach g) h0 u (fun fr => fr.any && handleCensus (fr.readS 1 10) == 0 && (mapFind 0 fr.s.census).isNone) = true ∧
      metB { mach g with census := [(0, { cen true [] [0] with gen := 2 })] } h0 u (fun fr => fr.any && (mapFind 0 fr.s.census).isSome && handleCensusGen (fr.readS 1 10) == 1) = true ∧
      metB { mach { g with resp := some rspOf } with census := [(0, cen true [] [0])] } h0 u (fun fr => fr.any && fr.g.resp == some rspOf) = true) ∧
    (let f := lf (rf h0 20 10 14 0 0 0) 0; let g := withP (withS (grp 0) [(14, 5), (20, 0)]) 10 tileA;
      let chk := fun (fr : Fr) => fr.any && !fr.g.isSeq && bufCheck fr.s (fr.g.agent fr.sp.idx) (tileReq true false) (fr.readS2 1 10) == none;
      let fullDir : FMap DirEntry := (List.range dirEntries).map (fun i => (i, { ent 0 with pos := 243 + 243 * i }));
      metB (dirM (withS g [(14, 0)]) 0) h0 (publishUse f) (fun fr => chk fr && (fr.readS 2 14).val == 0) = true ∧
      metB (dirM (withP g 10 (tileA + 1)) 0) h0 (publishUse f) (fun fr => fr.any && !chk fr) = true ∧
      metB { dirM g 0 with dir := fullDir } h0 (publishUse f) (fun fr => chk fr && fr.drained && (fr.s.dirLive? at0).isNone &&
        (List.range dirEntries).all (fun i => (mapFind i fr.s.dir).isSome)) = true ∧
      metB (dirM { g with resp := some rspOf } 1) h0 (withdrawUse (rx 20 10 40)) (fun fr => chk fr && (fr.s.dirLive? at0).isSome && fr.g.pinsOwn 0) = true ∧
      metB (mach (withS (grp 0) [(10, 0)])) h0 (sqryUse (rx 20 10 40)) (fun fr => fr.any && fr.g.resp == none) = true) ∧
    (let f := lf (rf h0 20 10 14 0 0 0) 0; let g := withP (withP (withP (grp 0) 10 tileA) 14 (bufAddr (-1) 0 244)) 20 (bufAddr (-2) 0 121);
      let pre := fun (fr : Fr) => let ag := fr.g.agent fr.sp.idx; fr.any && !fr.g.isSeq
        && earlyCheck fr.s ag (tileReq true false) false (fr.readS2 1 10) == none && earlyCheck fr.s ag (tileReq false true) false (addrAdd (fr.readS2 0 20) 0) == none
        && earlyCheck fr.s ag (tcopyReq true) false (addrAdd (fr.readS2 2 14) 0) == none;
      metB { dirM g 0 with dir := [] } h0 (migrateUse f) (fun fr => pre fr &&
        fr.s.migrateClash fr.g ((fr.g.agent fr.sp.idx).dirAt (fr.readS2 1 10)) ((fr.g.agent fr.sp.idx).dirAt (addrAdd (fr.readS2 0 20) 0))) = true) := by
  decide +kernel


/-! ## The statements on queues, launches, gangs and shares -/

/-- Queue 0 with READ 0, RESERVE `r`, DEFICIT 100, with its first slot's bytes. -/
def slotBytes (ty : Nat) (rest : List (BitVec 8)) : List (BitVec 8) := (BitVec.ofNat 8 ty :: rest) ++ zeroBytes (63 - rest.length)
/-- A MARKER with token 0 and no counter. -/
def markerBytes : List (BitVec 8) := slotBytes 5 (zeroBytes 9 ++ p5enc azero)
def qm (r : Nat) (slot : List (BitVec 8)) : State :=
  let s := queueBytes (queued (mach (grp 0)) r) [(44, 100)];
  { s with mem := (List.range 64).foldl (fun m i => memPut m (frameAddr 47 + i) (slot.getD i 0#8)) s.mem }
/-- The same with a head packet, visited or not. -/
def headed (visit : Option Nat) (h : HeadPkt) : State :=
  let s := qm 1 h.bytes; { s with launches := [], day := { s.day with heads := [(0, h)], seen := [(0, 1)], visit := visit } }

/-- A queue whose first slot is to be looked at, and what is found: nothing, or a packet, which is good where its type is 5. -/
def peek (b : List (BitVec 8)) : State := let s := qm 1 b; { s with day := { s.day with seen := [(0, 1)] } }
def peeked (b : List (BitVec 8)) : Bool :=
  let s := peek b
  s.qEnabled 0 && !s.qStopped 0 && s.descCause 0 == none && decide (s.qRead 0 < mapGet 0 s.day.seen 0) && (mapFind 0 s.day.heads).isNone &&
  match s.byteLocs (s.qDomain 0) true (s.slotAddr 0 (s.qRead 0)) 64 with
  | .ok ls => let n := pkNat (s.bytesAt ls) 0 1; n == 0 || good (s.parseHead 0 0 (s.bytesAt ls)) == (n == 5)
  | .error _ => false
/-- An address of the page of `addr low`, on path 0. -/
def inPage (a : Addr) : Bool :=
  (List.range 5).all (fun n => levelIndex a n == levelIndex (addr low) n) && addrPath a == 0 && (a.field 46 5).val == 0
def binLocs (f : Nat) (a : Addr) : Nat → List Loc
  | 0 => []
  | n + 1 => .binary f (pagePos a) :: binLocs f (addrAdd a 1) n
def inPages (a : Addr) : Nat → Bool
  | 0 => true
  | n + 1 => inPage a && inPages (addrAdd a 1) n

theorem walk_congr (s : State) (d : Nat) (a b : Addr) (h : ∀ n < 5, levelIndex a n = levelIndex b n) : s.walk d a = s.walk d b := by
  have key : ∀ n < 5, ∀ f, walkFrom s.tableEntry a n f = walkFrom s.tableEntry b n f := by
    intro n
    induction n with
    | zero => intro _ f; rfl
    | succ n ih => intro hn f; simp only [walkFrom, h (n + 1) hn, ih (by omega)]
  unfold State.walk; split
  · rfl
  · exact key 4 (by omega) _

/-- The leaf of a binary page that may be written and has no key, and how `addr low` finds it. -/
def binLeaf (s : State) (d f : Nat) : Bool :=
  match s.walk d (addr low) with
  | .leaf false pte => d != 0 && pteWrite pte == 1 && pteTiling pte != 1 && pteMode pte != 1 && (pteFrame pte).toNat == f && (mapFind f s.frameKey).isNone
  | _ => false

theorem byteLoc_page (s : State) (d f : Nat) (a : Addr) (hs : binLeaf s d f = true) (ha : inPage a = true) :
    s.byteLoc d true a = .ok (.binary f (pagePos a)) := by
  simp only [inPage, Bool.and_eq_true, List.all_eq_true, beq_iff_eq, List.mem_range] at ha
  obtain ⟨⟨hl, hp⟩, hc⟩ := ha
  unfold binLeaf at hs
  split at hs
  · rename_i pte hw
    simp only [Bool.and_eq_true, beq_iff_eq, bne_iff_ne, Option.isNone_iff_eq_none] at hs
    obtain ⟨⟨⟨⟨⟨hd, h1⟩, h2⟩, h3⟩, h4⟩, h5⟩ := hs
    simp [State.byteLoc, State.sysPlace, hp, hc, State.sysLeaf, hd, walk_congr s d a _ hl, hw, State.leafCheck, h1, h2, h3, h4, h5]
  · cases hs

theorem byteLocs_page (s : State) (d f : Nat) (hs : binLeaf s d f = true) : ∀ (n : Nat) (a : Addr), inPages a n = true →
    s.byteLocs d true a n = .ok (binLocs f a n)
  | 0, _, _ => rfl
  | n + 1, a, h => by
    simp only [inPages, Bool.and_eq_true] at h
    simp only [State.byteLocs, byteLoc_page s d f a hs h.1, byteLocs_page s d f hs n _ h.2, binLocs]

theorem in64 : inPages (addr low) 64 = true := by decide +kernel
def peekB (b : List (BitVec 8)) : Bool := let s := peek b; s.qDomain 0 == 7 && s.slotAddr 0 (s.qRead 0) == addr low && binLeaf s 7 47
theorem peek_page : ∀ b ∈ [slotBytes 0 [], slotBytes 6 [], markerBytes], peekB b = true := by decide +kernel
def peekC (b : List (BitVec 8)) : Bool :=
  let s := peek b
  s.qEnabled 0 && !s.qStopped 0 && s.descCause 0 == none && decide (s.qRead 0 < mapGet 0 s.day.seen 0) && (mapFind 0 s.day.heads).isNone &&
  s.bytesAt (binLocs 47 (addr low) 64) == b && (pkNat b 0 1 == 0 || good (s.parseHead 0 0 b) == (pkNat b 0 1 == 5))
theorem peek_head : ∀ b ∈ [slotBytes 0 [], slotBytes 6 [], markerBytes], peekC b = true := by decide +kernel
theorem peeked_all : ∀ b ∈ [slotBytes 0 [], slotBytes 6 [], markerBytes], peeked b = true := by
  intro b hb
  have h1 := peek_page b hb
  have h2 := peek_head b hb
  simp only [peekB, Bool.and_eq_true, beq_iff_eq] at h1
  obtain ⟨⟨hd, ha⟩, hl⟩ := h1
  simp only [peekC, Bool.and_eq_true, beq_iff_eq] at h2
  obtain ⟨⟨h2, hb2⟩, hp⟩ := h2
  simp only [peeked, hd, ha, byteLocs_page _ 7 47 hl 64 _ in64, hb2, hp, Bool.and_true]
  simpa only [Bool.and_eq_true, beq_iff_eq] using h2

/-- Queues 0 and 4,095; a notify value of READ + slots and one more; a claim of the next slot and of one that is not next or not free; a
packet that can and one that cannot be accepted; an empty slot, a bad packet and a MARKER. -/
theorem witness_QueueService :
    ((mach (grp 0)).inbound = [] ∧ State.reset.inbound = []) ∧ (mach (grp 0)).ctrl.ready = true ∧
    State.reset.ctrl.ready = false ∧ State.reset.ctrl.minimal = false ∧
    (let s := qm 0 markerBytes; s.ctrl.minimal = false ∧ s.qRead 0 + s.qSlots 0 = 16 ∧ s.qReserve 0 = 0) ∧
    (let s := qm 16 markerBytes; s.qReserve 0 = 16 ∧ s.qRead 0 + s.qSlots 0 = 16) ∧
    (let s := headed none ⟨0, markerBytes, none⟩; s.scheduling = true ∧ s.qEnabled 0 = true ∧ s.qStopped 0 = false ∧ (s.lookAt 0).day.visit = none ∧
      (s.lookAt 0).acceptable 0 = true ∧ (s.lookAt 0).day.heads.all (fun e => e.1 == 0) = true) ∧
    (let s := qm 1 markerBytes; s.scheduling = true ∧ (s.lookAt 0).acceptable 0 = false) ∧
    (∀ b ∈ [slotBytes 0 [], slotBytes 6 [], markerBytes], peeked b = true) := by
  refine ⟨?_, ?_, ?_, ?_, ?_, ?_, ?_, ?_, peeked_all⟩ <;> decide +kernel

/-- A COPY of one tile's three trytes from page 0 to page 1 of the physical domain. -/
def copy0 : CopyJob :=
  { id := 1, queue := 0, index := 0, domain := 0, src := addr (phys 0 0), dst := addr (phys 1 0), length := 3, sstride := 0, dstride := 0, rows := 1
    counter := azero, increment := 0, foot := [], noAlloc := false, cluster := 0, crew := none
    pages := ([(pageKey (addr (phys 0 0)), .packed 0)], [(pageKey (addr (phys 1 0)), .packed 1)]), served := true, started := true, energy := 0, energyPj := 0
    moved := 0 }
def waiting (v : Nat) : State :=
  { qm 1 markerBytes with accepted := [⟨0, 0, true, .waitc (addr (low + 512)) v 1 0⟩], now := 1001 * usCycles }

theorem witness_Packets :
    (∀ ty ∈ [1, 2, 3, 4, 5], let h : HeadPkt := ⟨0, slotBytes ty (zeroBytes 60), if ty = 1 then some lau else none⟩; let s := headed (some 0) h;
      s.accepting 0 ty = some h ∧ good (s.byteLoc (s.qDomain 0) true (s.slotAddr 0 h.index)) = true ∧ (ty = 1 → h.launch = some lau)) ∧
    (∀ v ∈ [0, 2 ^ 64], (waiting v).waitcOf 0 = some (0, addr (low + 512), v, 1, 0) ∧ (waiting v).waitcReady 0 (addr (low + 512)) v = (v == 0)) ∧
    (waiting 0).passed (1000 * 1 * usCycles) 0 = true ∧
    (let s := { mach (grp 0) with copyJobs := [copy0] };
      s.copyJobs.find? (fun x => x.id == 1) = some copy0 ∧
      (let p := copy0.pages;
          let ends := fun (ls : List (Except Cause Loc)) => ls.filterMap (fun e => match e with | .ok l => some l | .error _ => none);
          let srcs := copy0.pairs.map (fun e => s.copyLoc copy0 p.1 e.1); let dsts := copy0.pairs.map (fun e => s.copyLoc copy0 p.2 e.2);
          srcs.all good && dsts.all good && ends srcs == [.packed 0 0, .packed 0 1, .packed 0 2] && placedB s (ends dsts) 3
            && (ends srcs).all (fun l => !(ends dsts).contains l) && good (s.readLocs (ends srcs))) = true) := by
  and_intros <;> decide +kernel

/-- A launch that has not started, with a footprint of an unmapped page of domain 7 or none; its queue 0. -/
def fresh (foot : List Region) : Launch := { lau with started := false, placed := [], foot := foot, domain := 7 }
def freshM (l : Launch) : State := { mach (grp 0) with launches := [l], groups := [], crews := [] }
def done0 (counter : Addr) : Completion :=
  { queue := 0, ptype := 5, status := 0, index := 0, energy := 0, extra := 0, launch := 0, domain := 7, counter := counter, increment := 3, who := none, time := 0 }

theorem witness_LaunchesAndCrews :
    (∀ foot ∈ [[], [(⟨addr low, 10, true⟩ : Region)]], let l := fresh foot; let s := freshM l;
      s.launch? 1 = some l ∧ l.started = false ∧ l.complete = false ∧ l.gang = none ∧ l.abort = none ∧ s.scheduling = true ∧ s.contextsFree l = true ∧
        l.footPages.filter (fun e => s.pageState (launchAsker 1) l.domain e.2 e.1 == .waiting) = l.footPages ∧ (l.footPages = [] ↔ foot = [])) ∧
    (let l := { fresh [] with seqEntry := addr 600 };
      let s := { freshM l with groups := (List.range 8).map (fun n => (192 + n, grp (192 + n))) }; s.contextsFree l = false ∧ (freshM l).contextsFree l = true) ∧
    (let l := { lau with placed := [] }; let s := freshM l;
      s.launch? 1 = some l ∧ l.waitsFor 0 0 = true ∧ l.halted = none ∧ s.crew? 1 0 0 = none ∧ s.crewAhead 1 0 0 = false ∧ s.groupsFit 0 1 l.nv = true ∧
        (s.crewBases l 0).isSome = true ∧ l.groupsPer ≤ ((List.range placeSlots).filter (fun k => (s.group? (gkey 0 k)).isNone)).length) ∧
    (let c := { cre with lastEnd := some 0 }; let s := { freshM lau with crews := [c], now := 5 * usCycles + 1 };
      s.launch? 1 = some lau ∧ s.crew? 1 0 0 = some c ∧ c.reserved = false ∧ s.crewBusy 1 0 0 = false ∧ lau.abort = none ∧ lau.live 0 = true ∧
        c.reported = false ∧ lau.waitTo ≠ 0 ∧ s.passed (lau.waitTo * usCycles) 0 = true) ∧
    (∀ e ∈ [[], lau.cores.map (fun k => (k, 0))], let l := { lau with crewsEnded := e }; let s := freshM l;
      s.launch? 1 = some l ∧ l.complete = false ∧ l.abort = none ∧ s.launchOver l = !e.isEmpty) ∧
    (∀ a ∈ [azero, addr (low + 512)], let s := { qm 1 markerBytes with fifo := [done0 a] };
      s.ctrl.schedstop = false ∧ (a = azero ∨
        (match s.counterLocs 7 a true with
          | .ok ls => ls == (List.range 8).map (fun i => .binary 47 (512 + i)) && ls.all (fun l => !s.locPoisoned l)
          | .error _ => false) = true) ∧ 512 + 8 ≤ 59049) ∧
    (∀ e ∈ (mach (grp 0)).groups, e.2.launch = lau.id → e.2.isWalker = false → clusterOf e.2.core ∈ lau.shares.map (fun x => x.cluster)) := by
  and_intros <;> decide +kernel

def gang0 : Gang := { gang := 9, members := 2, member := 0, coordinator := 0, armTimeout := 1 }
def member (st : GangState) : Launch := { lau with gang := some gang0, gangState := st, started := false, placed := [], armedAt := 0 }
def gangM (st : GangState) (reports : List (Nat × Nat)) : State :=
  let s := { freshM (member st) with now := 1001 * usCycles }; { s with day := { s.day with reports := reports } }

/-- A member that can arm, one that all reports are in for and one that waits; the last and the first report; the timeout. -/
theorem witness_Gangs :
    (let s := gangM .wanting []; let l := member .wanting;
      s.launch? 1 = some l ∧ l.complete = false ∧ l.abort = none ∧ s.scheduling = true ∧ l.footPages = [] ∧ s.contextsFree l = true ∧
        (s.reserveAll l l.cores).isSome = true ∧ gang0.coordinator = s.devid) ∧
    (gangM .armed [(9, 0), (9, 1)]).gangFull gang0 = true ∧ (gangM .armed [(9, 0)]).gangFull gang0 = false ∧
    (∀ r ∈ [[], [(9, 0)]], let s := gangM .armed r; (9, 1) ∉ s.day.reports ∧ s.gangFull gang0 = false ∧
      ({ s with day := { s.day with reports := s.day.reports ++ [(9, 1)] } } : State).gangFull gang0 = !r.isEmpty) ∧
    (gangM .armed []).passed (1000 * gang0.armTimeout * usCycles) (member .armed).armedAt = true := by
  and_intros <;> decide +kernel

/-- A launch whose share on cluster 0 stands as said, and a second launch that waits for the same cores or does not. -/
def shareOf (st : ShareState) : Share :=
  { cluster := 0, state := st, slice := 10 * usCycles, savedGroups := [], savedCrews := [], savedBufs := [], savedTags := [], savedLog := [], savedJobs := []
    savedArrays := [], kept := [], asked := false, replaying := false }
def shared (st : ShareState) : Launch := { lau with shares := [shareOf st] }
def shareM (l : Launch) (g : Group) : State := { mach g with launches := [l], now := 3 * usCycles }
/-- A group of the launch that waits for a host page. -/
def hostM (l : Launch) : State :=
  { mappedLeaf (729 * 47 + 243 + 81 + 9) with launches := [l], asks := [⟨miss7 (-1)⟩] }

theorem witness_Preemption :
    (let l := shared .resident;
      let s := shareM l (grp 0); let s2 := { s with launches := [l, { lau with id := 2, placed := [] }] };
      s.share? 1 0 = some (l, shareOf .resident) ∧ l.sliceUs ≠ 0 ∧ l.sliceUs * usCycles ≤ (shareOf .resident).slice ∧ s.preemptible l = true ∧
        s.othersWait l 0 = false ∧ s2.share? 1 0 = some (l, shareOf .resident) ∧ s2.othersWait l 0 = true ∧ l.complete = false ∧ l.halted = none) ∧
    (let l := { shared .resident with halted := some .traceTrigger }; (shareM l (grp 0)).share? 1 0 = some (l, shareOf .resident) ∧ l.started = true) ∧
    (let l := shared (.draining 0); let s := shareM l (grp 0); s.share? 1 0 = some (l, shareOf (.draining 0)) ∧ s.passed (2 * l.drain * usCycles) 0 = true ∧
      s.preemptible l = true ∧ s.shareKeys 1 0 ≠ []) ∧
    (let l := shared .resident; (hostM l).share? 1 0 = some (l, shareOf .resident) ∧ (hostM l).preemptible l = true ∧ (hostM l).hostWait 1 0 = true) ∧
    (∀ b ∈ [true, false], let l := shared (.saving b); let s := shareM l (grp 0);
      s.share? 1 0 = some (l, shareOf (.saving b)) ∧ s.preemptible l = true ∧ s.shareQuiet 1 0 = true ∧ s.shareJobs 1 0 = false ∧ s.hostWait 1 0 = false) ∧
    (let l := shared .swapped; (shareM l (grp 0)).share? 1 0 = some (l, shareOf .swapped)) ∧
    (let sh := { shareOf .saved with savedGroups := [grp 5], savedCrews := [cre], savedBufs := [(bufKey 0 0 0, word 7)] };
      let l := { lau with shares := [sh] }; let s := { shareM l (grp 0) with groups := [], crews := [] };
      s.share? 1 0 = some (l, sh) ∧ s.preemptible l = true ∧ s.waiterFits l 0 = false ∧ s.contextFits l sh = true ∧ sh.savedCrews.all (s.crewFits sh) = true ∧
        mapSorted sh.savedBufs = true ∧ (grp 5).isSeq = false ∧ (s.pickSlot 0).isSome = true) ∧
    (∀ a ∈ [(true, true), (true, false), (false, true), (false, false)],
      let s := { mach (grp 0) with ctrl := { (mach (grp 0)).ctrl with schedstop := a.1, nostandby := a.2 } };
      s.ctrl.schedstop = a.1 ∧ s.ctrl.nostandby = a.2) := by
  and_intros <;> decide +kernel

/-- The further cases of queues, packets, jobs and gangs: a counter that is one and one that is none; a job whose pages are still to be served, that is
to be issued, and that has been; a record journalled and one that is not; GO sent, and all reports in; an active core that has trapped; a share whose
crews alone are left. -/
theorem witness_QueuesMore :
    (let s := headed (some 0) ⟨0, markerBytes, none⟩; s.counterOk (s.qDomain 0) azero = true ∧ s.counterOk (s.qDomain 0) (bufAddr (-1) 0 0 |> addr) = false) ∧
    (let s := { mach (grp 0) with copyJobs := [{ copy0 with served := false, started := false }] };
      (s.copyJobs.find? (fun x => x.id == 1)).map (fun j => (j.served, j.started)) = some (false, false) ∧ s.day.down = false) ∧
    (let s := { mach (grp 0) with copyJobs := [{ copy0 with started := false }] };
      (s.copyJobs.find? (fun x => x.id == 1)).map (fun j => (j.served, j.started)) = some (true, false)) ∧
    (let s := { mach (grp 0) with copyJobs := [copy0] }; let at_ := fun (x : Addr) (stride : Int) (i : Nat) => addrAdd x (stride * ((i / 3 : Nat) : Int) + ((i % 3 : Nat) : Int));
      ∀ i ∈ [0, 2], i / copy0.length < copy0.rows ∧ good (s.copyLoc copy0 copy0.pages.1 (at_ copy0.src 0 i)) = true ∧
        (match s.copyLoc copy0 copy0.pages.2 (at_ copy0.dst 0 i) with | .ok l => placedB s [l] 1 | .error _ => false) = true) ∧
    (let c := done0 azero; let s := { qm 1 markerBytes with fifo := [c] }; let s1 := { s with day := { s.day with journal := [.complete c.queue c.index] } };
      .complete c.queue c.index ∉ s.day.journal ∧ .complete c.queue c.index ∈ s1.day.journal ∧ s.day.down = false ∧ s.daymarkHeld = false) ∧
    (gangM .armed [(9, 0), (9, 1)]).gangGone gang0 = true ∧ (gangM .armed [(9, 0)]).gangGone gang0 = false ∧ (gangM .armed []).day.down = false ∧
    (let s := mach (grp 0); ({ s with day := { s.day with down := true } } : State).day.down = true ∧ ({ s with badDay := 1 } : State).badDay ≠ 0) ∧
    (let l := shared (.draining 0); let s := { shareM l (grp 0) with groups := [] }; s.shareKeys 1 0 = [] ∧ s.shareCrews 1 0 ≠ [] ∧ s.passed (2 * l.drain * usCycles) 0 = true) := by
  and_intros <;> decide +kernel


/-! ## The statements on observation and debugging -/

/-- A session descriptor: flags, record types, words of program, ring of 4,096 bytes, sampling interval, lane interval. -/
def descOf (flags types words sample laneInt : Nat) : List (BitVec 8) :=
  leBytes 1 flags ++ leBytes 1 types ++ leBytes 2 words ++ leBytes 8 1 ++ leBytes 2 0 ++ zeroBytes 2 ++ leBytes 8 0 ++ leBytes 4 4096 ++ leBytes 4 sample ++
    leBytes 2 laneInt ++ p5enc (addr 3000) ++ zeroBytes 3 ++ leBytes 4 3 ++ zeroBytes 12
def sessOf (desc : List (BitVec 8)) : Session := { sess 1 16 with desc := desc }
/-- The KEEP word as bytes of a program. -/
def keepBytes : List (BitVec 8) := [0#8, 0#8, 0#8, 0x88#8]
def recM (rs : List TraceRec) (x : List (Nat × Session)) : State := { mach (grp 0) with records := rs, sessions := x }
/-- PC breaks at 3000, or none. -/
def brk (on : Bool) : Launch := { lau with dbg := { DebugSet.none with breaks := [(addr 3000, on)] } }

theorem witness_Observation :
    (let s := recM [rec0] [(0, sessOf (descOf 1 0 1 0 0))]; s.lens = none ∧ s.records[0]? = some rec0 ∧ ∀ e ∈ s.sessions, e.2.accepts s 1 1 = false) ∧
    (let s := recM [rec0] [(0, sessOf (descOf 1 0 1 0 0)), (3, sessOf (descOf 1 1 1 0 0))]; (sessOf (descOf 1 1 1 0 0)).accepts s 1 1 = true ∧
      (sessOf (descOf 1 0 1 0 0)).accepts s 1 1 = false) ∧
    (let s := recM [rec0, rec0] []; s.records[1]? = some rec0 ∧ rec0 ∈ s.records.take 1) ∧
    (∀ b ∈ [false, true], let x := { sess 1 16 with fullPending := b }; x.fullPending = b ∧ ({ x with rdptr := 0 } : Session).full 64 = false) ∧
    (let x := sessOf (descOf 1 4 1 243 0); let s := recM [] [(0, x)]; let busy := recM [{ rec0 with src := samplerSrc 0, kind := 3 }] [(0, x)];
      s.sampling = some x ∧ busy.sampling = some x ∧ s.now % x.sampleP = 0 ∧ (mapGet ⟨0, 0, 0⟩ s.samplers 0).at_ ≤ s.now ∧ s.traced 3 1 = true ∧
        (∃ r ∈ busy.records, r.src = samplerSrc 0 ∧ r.kind = 3) ∧ x.observes s 1 = true ∧ x.observes s 2 = false ∧
        ({ s with groups := [], exited := [(0, (1, addr 3000))] } : State).group? (gkey 0 0) = none ∧ (s.group? (gkey 0 0)).isSome = true) ∧
    (let x := sessOf (descOf 1 8 1 0 1); let s := { recM [] [(0, x)] with lanes := [(0, ⟨2500, []⟩)] };
      s.laneSession = some x ∧ x.laneInt * 2500 ≤ 2500 ∧ mapFind 0 s.lanes = some ⟨2500, []⟩ ∧ s.traced 4 x.select = true) ∧
    (∀ t ∈ [9999, 10000], let s := { mach (grp 0) with timeBase := t }; (s.intervalTick < s.timeBase / 10000) = (t = 10000)) ∧
    (∀ b ∈ [true, false], let s := { mach (grp 0) with launches := [brk b] };
      s.group? (gkey 0 0) = some (grp 0) ∧ (match (grp 0).split? 0 with | some x => x.mayIssue (grp 0) s.now && s.breakHit (grp 0) x == b | none => false) = true) ∧
    (let g := withX (grp 0) (fun x => { x with wait := .watched 3 }); (g.split? 0).map (·.wait) = some (.watched 3) ∧ g.awake 0 = true ∧ g.isWalker = false ∧ g.hdepth = 0) ∧
    (let g := { grp 0 with stepping := some 0, stepIssued := true }; g.status = .running ∧ g.stepDone 0 = true) := by
  and_intros <;> decide +kernel

def halted : Launch := { lau with halted := some .haltRequest }
def haltM (g : Group) : State := { mach { g with status := .halted .haltRequest } with launches := [halted] }

theorem witness_Debugger :
    ((mach (grp 0)).debugLaunch 2 = none ∧ ({ mach (grp 0) with keys := [(0, ⟨1, 2, 3, 0, false⟩)] } : State).debugLaunch 1 = none ∧
      (mach (grp 0)).debugLaunch 1 = some lau ∧ lau.halted = none ∧ (grp 0).status = .running ∧ ((grp 0).split? (grp 0).stopSplit).isSome = true) ∧
    ((haltM (grp 0)).debugLaunch 1 = some halted ∧ halted.abort = none) ∧
    (let g := { grp 0 with status := .halted .haltRequest };
      (haltM (grp 0)).group? (gkey 0 0) = some g ∧ (g.split? 0).isSome = true ∧ g.launch = 1 ∧ g.status ≠ .running ∧ g.resumable = true ∧ g.trapSplit = none ∧
        g.ctx = none ∧ ((haltM (grp 0)).crew? 1 0 g.crew).isSome = true ∧ g.hdepth ≠ 2) ∧
    (let s := { haltM (grp 0) with groups := [(192, { seqG with status := .halted .haltRequest })] };
      (s.group? (gkey 0 192)).map (fun g => g.ctx.isSome) = some true ∧ s.debugLaunch 1 = some halted) ∧
    (let g := { grp 0 with hdepth := 2, status := .halted .haltRequest, cause := causeWord 4 0 0 0 0 79 }; g.resumable = true ∧ g.hdepth = 2 ∧ g.status ≠ .running) ∧
    (debugSetOk { DebugSet.none with breaks := List.replicate 4 (azero, false), watches := List.replicate 4 ⟨azero, 1, false, false, false⟩ } = true ∧
      debugSetOk { DebugSet.none with breaks := List.replicate 4 (azero, false), watches := List.replicate 4 ⟨azero, 3 ^ 26, false, false, false⟩ } = true ∧
      debugSetOk { DebugSet.none with breaks := List.replicate 4 (azero, false), watches := List.replicate 4 ⟨azero, 3 ^ 26 + 1, false, false, false⟩ } = false) ∧
    (let d := descOf 1 1 1 243 0; let s := mach (grp 0);
      d.length = 64 ∧ s.sessionAllowed 1 d = true ∧ s.sessionAllowed 2 d = false ∧ byteField d 0 1 % 2 = 1 ∧ s.sessionClash 0 d = false ∧
        ({ s with sessions := [(5, sessOf d)] } : State).sessionClash 0 d = true ∧ byteField d 2 2 = 1 ∧ byteField (descOf 1 1 256 0 0) 2 2 = 256 ∧
        descOk d (lensWords 1 keepBytes) = true ∧ descOk (descOf 1 128 1 0 0) (lensWords 1 keepBytes) = false ∧ byteField (descOf 0 1 1 0 0) 0 1 % 2 = 0 ∧
        s.sessionAllowed 1 (descOf 0 1 1 0 0) = true) := by
  and_intros <;> decide +kernel

/-- The further cases: a group that goes on when its STOP record has been taken; a fault taken in the cycle of a halt; a dump that waits; no interval
charged early. -/
theorem witness_DebuggerMore :
    (let r : TraceRec := { rec0 with src := 0, kind := 2 }; let s := { recM [r] [] with groups := [(0, { grp 0 with status := .halted .haltRequest, resumeDue := true })] };
      s.records[0]? = some r ∧ (s.group? r.src).map (fun g => g.resumeDue) = some true ∧ s.lens = none) ∧
    (let g0 := grp 0; let ti : TrapInfo := { cause := .divideByZero, epc := addr 3000 }; let s := ({ mach g0 with fresh := [(0, ((0, ti), g0))] } : State);
      mapFind 0 s.fresh = some ((0, ti), g0) ∧ g0.hdepth = 0 ∧ ({ g0 with hdepth := 1 } : Group).hdepth = 1 ∧
        (({ g0 with hdepth := 1 } : Group).untrap g0 0 |>.split? (({ g0 with hdepth := 1 } : Group).untrap g0 0).stopSplit).isSome = true) ∧
    (mapFind 0 (mach (grp 0)).fresh = none ∧ (∀ d ∈ (mach (grp 0)).dumps, d.1 ≠ 1)) ∧
    (let s := haltM (grp 0); mapSorted s.groups = true ∧ s.stopHeld 0 = false ∧ s.groups.all (fun e => e.2.pending.isNone) = true ∧ (grp 0).holds 0 = false ∧
      s.jobsDrained halted = true ∧ ({ s with tcJobs := [(0, migJob)] } : State).jobsDrained halted = false) ∧
    (let s := { haltM (grp 0) with records := [{ rec0 with src := 0, kind := 2 }] }; s.stopHeld 0 = true) ∧
    (let s := mach (grp 0); mapGet 0 s.energyEarly 0 = 0 ∧ staticShare 0 0 0 ≤ unitStatic 0) := by
  and_intros <;> decide +kernel


/-! ## The statements on the shell, links and bring-up -/

/-- Aperture 0 over the packed tiles of page 0 of the physical domain. -/
def aperM : State :=
  let s := mach (grp 0);
  let bs := p5enc (addr (low + 121)) ++ leBytes 2 0 ++ leBytes 1 2 ++ leBytes 2 1;
  { s with ctrl := { s.ctrl with aper := bs.zipIdx.map (fun e => (e.2, e.1)) } }
/-- Two bytes of tile 0's slot. -/
def slot0 : List ByteAt := [.slot 0 0 0, .slot 0 0 1]
def req0 (id : Nat) (relaxed : Bool) (op : InOp) : InReq := ⟨id, 0, 0, true, relaxed, true, op⟩

/-- Room for an event and none; a read that is answered, one behind a write, and a refused one; writes refused, bad and queued; a write
acknowledged and one that may not pass another; a free and a held semaphore; the ends of the registers' ranges. -/
theorem witness_HostRequests :
    (let c := { (mach (grp 0)).ctrl with evbase := 4096, evsize := 256, evwr := 255, evrd := 0 }; c.evbase ≠ 0 ∧ c.evsize ≠ 0 ∧ c.evwr < c.evrd + c.evsize) ∧
    (mach (grp 0)).ctrl.evbase = 0 ∧
    (aperM.ctrl.ready = true ∧ aperM.inbound = [] ∧ (match aperM.aperBytes 0 false 2 with | .ok bs => bs == slot0 | .error _ => false) = true) ∧
    (let s := { aperM with inbound := [req0 0 false (.write [])] }; (∀ r ∈ s.inbound, r.port = 0 → r.forwarded = true) ∧ ∃ r ∈ s.inbound, r.port = 0 ∧ r.write = true) ∧
    (State.reset.ctrl.ready = false ∧ State.reset.inbound = []) ∧
    ((match aperM.aperBytes 0 true 2 with | .ok bs => bs == slot0 | .error _ => false) = true ∧ badCode (slot0.zip [243#8, 0#8]) = true ∧
      badCode (slot0.zip [242#8, 0#8]) = false ∧
      (routeParts ((slot0.zip [242#8, 0#8]).filter (fun x => x.1.lands))).map (·.1) = [0]) ∧
    (let r := req0 0 false (.write [(.binary 3 59047, 7#8), (.binary 3 59048, 8#8)]); let s := { mach (grp 0) with inbound := [r] };
      s.inbound.filter (fun x => x.port == 0) = [r] ∧ r.forwarded = true ∧ 3 < frameCount ∧ 59047 + 2 ≤ 59049 ∧
        r.op = .write ((List.range 2).map (fun i => (.binary 3 (59047 + i), [7#8, 8#8].getD i 0#8)))) ∧
    (let a := req0 0 false (.write []); let b := req0 1 false (.write []);
      ([a, b].filter (fun x => x.port == 0 && x.forwarded))[1]? = some b ∧ a ∈ [a, b].take 1 ∧ a.relaxed = false ∧ b.relaxed = false ∧ a.route = b.route) ∧
    (mapFind 15 (mach (grp 0)).ctrl.sems = none ∧ (mach (grp 0)).inbound = [] ∧ 15 < 16 ∧
      mapFind 0 ({ (mach (grp 0)).ctrl with sems := [(0, 0)] } : Ctrl).sems = some 0 ∧ mapFind 0 ({ (mach (grp 0)).ctrl with sems := [(0, 1)] } : Ctrl).sems ≠ some 0) ∧
    ((383 ≤ 383 ∧ 383 < 384) ∧ (10099851 ≤ 10099851 ∧ 10099851 < 10099852) ∧ (4096 % 4096 = 0 ∧ 4097 % 4096 ≠ 0) ∧
      (∀ v ∈ [2 ^ 8, 2 ^ 16], ∃ k ∈ List.range 17, 8 ≤ k ∧ v = 2 ^ k) ∧ (∀ k ∈ List.range 17, 257 ≠ 2 ^ k)) := by
  and_intros <;> decide +kernel

/-- Device 1's domain class 0 imported as domain 7, whose page that a peer's lowest address names is packed. -/
def peerM : State :=
  let s := (mappedLeaf (729 * 47 + 243 + 81 + 27 + 9)).writeLocs [.packed 41 19683, .packed 41 19684, .packed 41 19685] (trytesOfWord (word (729 * 42 - 243)));
  { s with ctrl := { s.ctrl with imports := [(0, 1), (1, 7)] } }
def peerIn (op : PeerReq) : InReq := ⟨0, 3, 0, true, false, true, .peer word0 op⟩
/-- A load of another device's tryte in flight over port 3. -/
def linkA : Access := { inFlight .load [.peer 1 5] [] with lanes := [{ lane0 [.peer 1 5] [] with port := some 3 }] }
def linkM : State := { flying linkA with route := [(1, 8)], linksUp := [3, 4] }

theorem witness_PeersAndLinks :
    (fails .peerDeviceUnreachable ((mach (grp 0)).peerCheck 1 0 (.load (addr (low + 1)) 1)) = true ∧
      (match peerM.peerCheck 1 0 (.load (addr (low + 1)) 3) with
        | .ok (false, ls) => ls.all (fun l => !peerM.locPoisoned l) && good (peerM.readLocs ls) && ls.length == 3
        | _ => false) = true ∧ peerM.inbound = [] ∧
      (match peerM.peerCheck 1 0 (.store (addr (low + 1)) (trytesOfWord (word 5))) with | .ok (true, _ :: _) => true | _ => false) = true) ∧
    (∀ op ∈ [PeerReq.store (addr low) (trytesOfWord (word 5)), .atomic (addr low) addTo azero azero],
      let s := { mach (grp 0) with inbound := [peerIn op] };
      s.inbound.filter (fun x => x.port == 3) = [peerIn op] ∧ (peerIn op).forwarded = true ∧ placedB s word0 3 = true ∧
        (match s.readLocs word0 with | .ok old => (atomTrytes addTo old azero azero).length == 3 | .error _ => false) = true ∧ (∀ l ∈ word0, s.locPoisoned l = false)) ∧
    (0 ∈ ({ mach (grp 0) with pcieUp := [0] } : State).pcieUp ∧ 1 ∉ ({ mach (grp 0) with pcieUp := [0] } : State).pcieUp) ∧
    (3 ∈ linkM.linksUp ∧ 15 ∉ linkM.linksUp ∧ linkM.groups.length = 1 ∧ linkA.laneOn 3 = some 0 ∧ linkA.laneOn 4 = none ∧ linkA.done = false ∧ (∀ l ∈ linkM.launches, l.gang = none)) ∧
    (linkM.timeBase ≤ 10 * 0 ∧ 10 * 0 < ({ linkM with timeBase := 1 } : State).timeBase) := by
  and_intros <;> decide +kernel

/-- What LOADKEY finds in a blob is a free value: a key or none; whichever it is, the clause of that case holds of these operands. -/
theorem witness_Bringup :
    (1023 ≤ 1023 ∧ 19682 ≤ 19682 ∧ (keyOfBlob 0 false [] [] = none ∨ ∃ k, keyOfBlob 0 false [] [] = some k) ∧ 1023 < 1024 ∧ 19682 < 19683) ∧
    (State.reset.frameKey = [] ∧ (∃ e ∈ [((0 : Nat), 6)], e.2 = 5 + 1) ∧ 5 ∈ ({ State.reset with keyAsks := [5] } : State).keyAsks) ∧
    ((zeroBytes 64).length = 64 ∧ (zeroBytes 63).length ≠ 64) ∧
    ((∀ w ∈ [1600, 2800], 1600 ≤ w ∧ w ≤ 2800 ∧ w % 50 = 0) ∧ (∀ w ∈ [1550, 2850, 1601], ¬ (1600 ≤ w ∧ w ≤ 2800 ∧ w % 50 = 0))) ∧
    (startFailOk ⟨1, 1, 0⟩ = true ∧ startFailOk ⟨6, 8, 255⟩ = true) ∧
    (State.reset.hot = [] ∧ (1050 ≤ 1050) ∧ (1150 < 1151 ∧ 1250 ≤ 1250) ∧ 1250 < 1251 ∧ mapGet 0 State.reset.hot 4 ≠ 3 ∧ (4 : Nat) ≤ 4) ∧
    ((mach (grp 0)).group? (gkey 0 0) = some (grp 0) ∧ 255 < 256 ∧ 79 < 80 ∧ 31 < 32 ∧ 2 < 3 ∧ 59048 < 59049) ∧
    (let s := { mach (grp 0) with icache := [(5, wzero)] }; (mapFind (0 * 2 ^ 40 + 5) s.icache).isSome = true) ∧
    (let s := { mach (grp 0) with l2 := [(tileCoord 0 242, false)], badL2 := [(81 * tileCoord 0 242 + 80, 1)] };
      0 < frameCount ∧ 242 < 243 ∧ 80 < 81 ∧ mapFind (tileCoord 0 242) s.l2 = some false ∧ 1 ≤ mapGet 0 s.badL2 (81 * tileCoord 0 242 + 80)) ∧
    ((mach (grp 0)).badDay = 0 ∧ ({ mach (grp 0) with badDay := 1 } : State).badDay ≠ 0 ∧ (mach (grp 0)).ctrl.nostandby = false ∧ (mach (grp 0)).ctrl.schedstop = false) := by
  refine ⟨⟨by decide, by decide, by cases keyOfBlob 0 false [] [] <;> simp, by decide, by decide⟩, ?_⟩
  and_intros <;> decide +kernel

/-- The further cases: a request of a frame whose key slot is not loaded; semaphores of port 1; registers off the semaphores and the semaphores' own
bytes; entries inside and past the outbound table; a load of host memory in flight; a gang's member elsewhere; a read that waits for a key; a copy in an
L1, a snapshot. -/
theorem witness_HostMore :
    (let s := { aperM with frameKey := [(0, 3)] };
      fails .keyUnavailable (s.aperBytes 0 false 2 |>.map (fun _ => ())) = true ∧ s.aperAsks 0 false 2 = some 2 ∧ s.aperAsks 0 true 2 = some 2 ∧ s.inbound = []) ∧
    (aperM.aperAsks 0 false 2 = none ∧ ((mach (grp 0)).inbound = [] ∧ mapFind 15 (mach (grp 0)).ctrl.sems = none)) ∧
    (¬ (0x40 ≤ 0x38 ∧ 0x38 < 0xC0) ∧ ¬ (0x40 ≤ 0xC0 ∧ 0xC0 < 0xC0) ∧ 0x40 + 8 * 15 + 8 ≤ 0xC0) ∧
    ((mach (grp 0)).devid ≠ 1) ∧
    (let s := { mach (grp 0) with outFrame := 5, outFrames := 1 }; 16 * 3689 + 16 ≤ s.outFrames * 59049 ∧ s.outFrames * 59049 < 16 * 3690 + 16 ∧ s.outFrame + s.outFrames ≤ frameCount) ∧
    (let la := lane0 [.host 0 64] []; let a := { inFlight .load [.host 0 64] [] with hold := true }; let g := { grp 0 with infl := [a] }; let s := mach g;
      s.group? (gkey 0 0) = some g ∧ g.key = gkey 0 0 ∧ g.infl.find? (fun a => a.seq == 4) = some a ∧ a.kind = .load ∧ a.lanes = [la] ∧ s.mayReturn g a = true ∧ a.hold = true ∧
        s.mayReturn g { a with done := true } = false) ∧
    ((mach (grp 0)).group? (gkey 1 0) = none) ∧
    (∀ m ∈ [0, 1], let l := { lau with gang := some gang0 }; l.complete = false ∧ gang0.gang = 9 ∧ (gang0.member ≠ m) = (m = 1)) ∧
    (let r : InReq := ⟨7, 0, 4, false, false, false, .askRead 0 2⟩;
      let s := { aperM with keyAsks := [2], inbound := [r] }; s.inbound = [r] ∧ 2 ∈ s.keyAsks ∧ good (s.aperBytes 0 false 2) = true ∧
        (let s2 := { s with frameKey := [(0, 3)], keyRefused := [2], keyAsks := [] }; fails .keyUnavailable (s2.aperBytes 0 false 2 |>.map (fun _ => ())) = true ∧ s2.aperAsks 0 false 2 = none)) ∧
    (let x : L1Line := ⟨0, wzero, 5, false, [], []⟩; let y := { x with bad := [(80, 1)] };
      [x].find? (fun x => x.core == 0 && x.tile == 5) = some x ∧ mapGet 0 x.bad 80 = 0 ∧ 1 ≤ mapGet 0 y.bad 80) ∧
    (let m := moor0 .moored [word 7] [] none; mapFind (moorKey 0 0) (moored (grp 0) m).moor = some m ∧ 0 < m.data.length ∧ 127 < 128 ∧ 242 < 243) ∧
    (let s := { mach (grp 0) with l2 := [(tileCoord 0 242, true)] }; (mapFind (tileCoord 0 242) s.l2).isSome = true ∧ mapGet 0 s.badL2 (81 * tileCoord 0 242 + 80) = 0) := by
  and_intros <;> decide +kernel


/-! ## The statements on numbers, decoding and the machine as a whole -/

/-- Both ends of a 9-trit and of a 27-trit element, and the numbers past them; a zero width holds 0 alone. -/
theorem witness_OverflowModes :
    (∀ x ∈ [(-9841 : Int), 9841], -((3 ^ 9 - 1) / 2 : Nat) ≤ x ∧ x ≤ ((3 ^ 9 - 1) / 2 : Nat)) ∧
    (∀ x ∈ [(-9842 : Int), 9842], ¬ (-((3 ^ 9 - 1) / 2 : Nat) ≤ x ∧ x ≤ ((3 ^ 9 - 1) / 2 : Nat))) ∧
    ¬ ((3812798742494 : Int) ≤ ((3 ^ 27 - 1) / 2 : Nat)) := by decide

/-- A nonzero divisor with an even and a tied quotient, rotations at both ends of an element, a leading trit, element shapes. -/
theorem witness_IntegerMeaning :
    ((2 : Int) ≠ 0 ∧ 2 * ((3 : Int) - 2 * divNear 3 2).natAbs = (2 : Int).natAbs) ∧ (∀ o ∈ [(-1 : Int), 0], o ≠ 1) ∧
    (fits 9841 9 = true ∧ (0 : Nat) < 9 ∧ (8 : Nat) < 9) ∧
    (Tern.tritOf 3 1 ≠ 0 ∧ ∀ j ∈ List.range 9, 1 < j → Tern.tritOf 3 j = 0) ∧
    (∀ p ∈ [(-1 : Int), 0, 1], ∀ q ∈ [(-1 : Int), 0, 1], -1 ≤ tadd1 p q ∧ tadd1 p q ≤ 1) ∧
    (∀ e ∈ [((27 : Nat), 1), (9, 3), (3, 9), (1, 27)], e.1 * e.2 = 27 ∧ (match (mapWord e.1 e.2 (fun j => narrow 1 e.1 (if j = 0 then 0 else 1))) with | .ok _ => true | .error _ => false) = true) ∧
    (match mapWord 9 3 (fun j => narrow 1 9 (if j = 2 then 9842 else 9841)) with | .ok _ => false | .error _ => true) = true := by decide +kernel

theorem witness_P5Packing :
    (∃ b ∈ [243#8], 243 ≤ b.toNat) ∧ ([242#8, 0#8] : List (BitVec 8)).length = (9 + 4) / 5 ∧ (∀ b ∈ [242#8, 0#8], b.toNat ≤ 242) ∧
    (p5enc (addr 5))[10]? ≠ none := by decide +kernel

/-- A group about to run a short instruction of page 0, and one whose PC cannot be fetched from. -/
def ready1 : State := State.reset.withFetchWord 48 (leNat (codeBytes (encode (.add (rx 12 10 11)))))
def fetches (s : State) : Bool :=
  match s.pickIssue with
  | none => false
  | some (key, i) => match s.group? key with
    | none => false
    | some g => match g.split? i with
      | none => false
      | some sp => g.mergePair.isNone && !s.breakHit g sp && (match s.fetchInstr g sp with | .ok ins _ => ins == .add (rx 12 10 11) | _ => false)
          && (match laneCheck s (g.agent i) fetchReq false [sp.pc] with
            | .ok ps => (match placeLocs [-1, 0, 1] ps with
              | some locs => s.icache.isEmpty && locs.all (fun l => !s.locPoisoned l) && (match s.readLocs locs with | .ok ts => !isLong (wordOfTrytes ts) | _ => false)
              | none => false)
            | _ => false)
def badPc : State := mach (withX (grp 0) (fun x => { x with pc := addr (bufAddr (-1) 0 1) }))

/-- Whether split 0 of group 0, looked at, need no longer wait. -/
def wakes (s : State) : Bool :=
  ((s.group? 0).bind (fun g => g.split? 0 |>.map (fun sp => (g, sp)))).any (fun e => match s.fetchInstr e.1 e.2 with
    | .ok ins s1 => !s.breakHit e.1 e.2 && (match exec ins { s1 with cur := (0, 0) } with | .next t => !(t.waitOf 0 0).holdsBack | _ => false)
    | _ => false)

theorem witness_StepRunsDecoded :
    (ready1.agenda = [] ∧ (∀ e ∈ ready1.hot, e.2 ≠ 3) ∧ ready1.lens = none ∧ ready1.upkeep = none ∧ ready1.waking = none ∧ ready1.lowerFirst 0 0 = none ∧ fetches ready1 = true) ∧
    (badPc.agenda = [] ∧ badPc.upkeep = none ∧ badPc.waking = none ∧ badPc.lowerFirst 0 0 = none ∧ badPc.pickIssue = some (0, 0) ∧
      (match badPc.group? 0 with | some g => (match g.split? 0 with | some sp => (match badPc.fetchInstr g sp with | .fail _ => true | _ => false) | none => false) | none => false) = true) ∧
    (let s := lensM (sess 1 16) []; s.agenda = [] ∧ (runOn []).prog[(runOn []).pc]? = some 0x88000000#32 ∧ (decodeLens 0x88000000#32).toOption = some .lensKeep) ∧
    (let s := { ready1 with groups := ready1.groups.map (fun (e : Nat × Group) => (e.1, withX e.2 (fun x => { x with wait := .stalled }))) };
      s.waking = some (0, 0) ∧ s.waitOf 0 0 = .stalled ∧ s.upkeep = none ∧ wakes s = true) ∧
    (({ State.reset with agenda := [.startinfo] } : State).agenda = [.startinfo]) ∧
    ((grp 0).split? 0).map (·.wait) = some .none := by
  refine ⟨?_, ?_, ?_, ?_, ?_, ?_⟩ <;> decide +kernel

/-- A short, a long, a mode-split and a Lens instruction, well-formed, with the words that encode them. -/
theorem witness_EncodeDecode :
    ((Instr.add (rx 12 10 11)).wellFormed = true ∧ (encode (.add (rx 12 10 11))).length = 1) ∧
    ((Instr.limm (lf (rx 12 40 40) (-5))).wellFormed = true ∧ (encode (.limm (lf (rx 12 40 40) (-5)))).length = 2) ∧
    ((Instr.joinArm (im 41 40 3280)).wellFormed = true ∧ encode (.joinArm (im 41 40 3280)) ≠ []) ∧
    ((Instr.lensCount 7 63#18).wellFormed = true ∧ (encodeLens (.lensCount 7 63#18)).isSome = true) ∧
    (decodeLens 0x88000000#32).toOption = some .lensKeep := by decide +kernel

theorem witness_StepKeepsMemory :
    (∀ s ∈ [State.reset, ready1], Memory.wf s.mem = true ∧ (match step s with | .next _ => true | _ => false) = true) := by decide +kernel

/-- Each check failing alone, an operand of index 80, and the ends of the register ranges. -/
theorem witness_DecodeChecks :
    (((mach (grp 0)).frame? h0).isSome = true ∧ (grp 0).isSeq = false ∧ (grp 0).priv = false ∧ ((seqM seqG).frame? h0).map (fun fr => fr.g.isSeq) = some true) ∧
    ((regOpd true 16 true false).bad (grp 0) = true ∧ (regOpd true 15 true false).bad (grp 0) = false ∧ (pairOpd 11 true false).badPair = true ∧
      (pairOpd 10 true false).badPair = false) ∧ (79 < 80 ∧ 31 < 32 ∧ 80 ≤ 80) := by decide +kernel

theorem witness_IssueOrder :
    State.reset.cands = [] ∧ (mach (grp 0)).pickIssue = some (0, 0) ∧ ({ mach (grp 0) with groups := [(0, grp 0), (1, grp 1)] } : State).cands.length = 2 := by
  decide +kernel


/-! ## Decoding: a word of each form, from the opcode of R67 and R68 and the layouts of R56 and R58

Every word has stall count 2 (`-+`), predicate c2 (`-+`), PSENSE -1, D = 3 (`--0-`), A = 4 (`--00`); format R has B = 5 (`--0+`), FN -13
(`---`) and REUSE 0, format I the immediate -23, format M record 2 (`-+`) and offset -23, format B the displacement -23; the extension
word of format L is -23. Forms that share an opcode differ in the field that their rule names. -/

def hT : Head := hd 2 2 (-1)
def r0 : RFmt := ⟨hT, reg 3, reg 4, reg 5, Tern.ofInt 3 (-13), Tern.ofInt 1 0⟩
def i0 : IFmt := ⟨hT, reg 3, reg 4, Tern.ofInt 8 (-23)⟩
def m0 : MFmt := ⟨hT, reg 3, reg 4, Tern.ofIndex 2 2, Tern.ofInt 6 (-23)⟩
def b0 : BFmt := ⟨hT, Tern.ofInt 16 (-23)⟩
def l0 : LFmt := lf r0 (-23)
def rB : String := "--0+" ++ "---" ++ "0"
def rA : String := "--00" ++ rB
def rT : String := "--0-" ++ rA
def iM : String := "0000-0++"
def iT : String := "--0-" ++ "--00" ++ iM
def mA : String := "--00" ++ "-+" ++ "00-0++"
def mT : String := "--0-" ++ mA
def bT : String := "000000000000-0++"
/-- Trits as the spec writes them, trit 26 first. -/
def trits (t : String) : List Int := t.toList.map (fun c => if c == '+' then 1 else if c == '-' then -1 else 0)
/-- What the decoder reads from a word's opcode and tail, the head as above, and an extension word. -/
def reads (op tail ext : String) : Instr := decodeWords (wordOf (trits (op ++ "-+" ++ "-+" ++ "-" ++ tail))) (wordOf (trits ext))
/-- Each opcode and tail gives its instruction, with the extension word of -23. -/
def decodesAll (rows : List (String × String × Instr)) : Prop := ∀ e ∈ rows, reads e.1 e.2.1 "00000000000000000000000-0++" = e.2.2

theorem test_decode_control : decodesAll [
    ("------", rT, .nop r0), ("-----0", bT, .jmp b0), ("-----+", bT, .br b0), ("----0-", bT, .brall b0), ("----00", bT, .brany b0), ("----0+", rT, .jmpr r0),
    ("----+-", bT, .call b0), ("----+0", rT, .callr r0), ("----++", rT, .ret r0), ("---0--", iT, .join i0),
    ("---0--", "000+" ++ "--00" ++ iM, .joinArm { i0 with d := reg 41 }), ("---0-0", iT, .loop i0), ("---0-+", rT, .exit r0), ("---00-", rT, .yield r0),
    ("---000", iT, .role i0), ("---00+", iT, .regionOpen i0), ("---00+", "--0---00" ++ "0000000-", .regionClose { i0 with imm := Tern.ofInt 8 (-1) }),
    ("---0+-", iT, .bkpt i0)] := by
  unfold decodesAll; decide +kernel

theorem test_decode_integer : decodesAll [
    ("-0----", rT, .add r0), ("-0---0", rT, .sub r0), ("-0---+", rT, .neg r0), ("-0--0-", rT, .abs r0), ("-0--00", rT, .sgn r0), ("-0--0+", rT, .mul r0),
    ("-0--+-", rT, .mulh r0), ("-0--+0", rT, .mad r0), ("-0--++", rT, .div r0), ("-0-0--", rT, .rem r0), ("-0-0-0", rT, .min r0), ("-0-0-+", rT, .max r0),
    ("-0-00-", rT, .cmp r0), ("-0-000", rT, .sel r0), ("-0-00+", rT, .tadd r0), ("-0-0+-", rT, .tmul r0), ("-0-0+0", rT, .tmin r0), ("-0-0++", rT, .tmax r0),
    ("-0-+--", rT, .shl r0), ("-0-+-0", rT, .shr r0), ("-0-+-+", rT, .rot r0), ("-0-+0-", rT, .tcnt r0), ("-0-+00", rT, .tbal r0), ("-0-+0+", rT, .lead r0),
    ("-0-++-", rT, .mov r0), ("-0-++0", rT, .shuf r0), ("-0-+++", rT, .bcast r0), ("-00---", rT, .vote r0), ("-00--0", rT, .rsum r0),
    ("-00--+", rT, .rmin r0), ("-00-0-", rT, .rmax r0), ("-00-00", rT, .scan r0)] := by
  unfold decodesAll; decide +kernel

theorem test_decode_immediate : decodesAll [
    ("-+----", iT, .addi i0), ("-+---0", iT, .muli i0), ("-+---+", iT, .mini i0), ("-+--0-", iT, .maxi i0), ("-+--00", iT, .cmpi i0),
    ("-+--0+", iT, .shli i0), ("-+--+-", iT, .shri i0), ("-+--+0", iT, .roti i0), ("-+--++", iT, .movi i0), ("-+-0--", rT, .limm l0),
    ("-+-0-0", iT, .extr i0), ("-+-0-+", iT, .insr i0), ("-+-00-", iT, .widen i0), ("-+-000", iT, .narrow i0), ("-+-00+", rT, .lane r0),
    ("-+-0+-", rT, .ids r0), ("-+-0+0", rT, .mvs r0), ("-+-0++", rT, .msv r0), ("-+-+--", rT, .cfrom r0), ("-+-+-0", rT, .cto r0), ("-+-+-+", rT, .cmin r0),
    ("-+-+0-", rT, .cmax r0), ("-+-+00", rT, .cneg r0), ("-+-+0+", iT, .cseti i0)] := by
  unfold decodesAll; decide +kernel

theorem test_decode_float : decodesAll [
    ("0-----", rT, .fadd r0), ("0----0", rT, .fsub r0), ("0----+", rT, .fneg r0), ("0---0-", rT, .fabs r0), ("0---00", rT, .fmul r0),
    ("0---0+", rT, .fma r0), ("0---+-", rT, .fmin r0), ("0---+0", rT, .fmax r0), ("0---++", rT, .fcmp r0), ("0--0--", rT, .fdiv r0),
    ("0--0-0", rT, .fsqrt r0), ("0--0-+", rT, .frcp r0), ("0--00-", rT, .frsq r0), ("0--000", rT, .fexp3 r0), ("0--00+", rT, .flog3 r0),
    ("0--0+-", rT, .fscl r0), ("0--0+0", rT, .fexpo r0), ("0--0++", rT, .fcls r0), ("0--+--", rT, .fcvt r0), ("0--+-0", rT, .ftoi r0),
    ("0--+-+", rT, .itof r0), ("0--+0-", rT, .frnd r0), ("0--+00", rT, .cmul r0), ("0--+0+", rT, .cfma r0), ("0--++-", rT, .frsum r0)] := by
  unfold decodesAll; decide +kernel

theorem test_decode_system : decodesAll [
    ("00----", iT, .trap i0), ("00---0", rT, .eret r0), ("00---0", "000+" ++ rA, .eretRegion { r0 with d := reg 41 }), ("00---+", iT, .rdst i0),
    ("00--0-", iT, .wrst i0), ("00--00", "--0---00" ++ "0000--00", .fenceFull { i0 with imm := Tern.ofInt 8 (-36) }),
    ("00--00", "--0---00" ++ "0000-000", .fenceAcq { i0 with imm := Tern.ofInt 8 (-27) }),
    ("00--00", "--0---00" ++ "0000-+00", .fenceRel { i0 with imm := Tern.ofInt 8 (-18) }), ("00--0+", iT, .waitp i0), ("00--+-", rT, .waitge r0),
    ("00--+0", mT, .bwait m0), ("00--++", iT, .bar i0), ("00-0--", iT, .rbar i0), ("00-0-0", rT, .xbar l0), ("00-0-+", rT, .tlbfill r0),
    ("00-00-", rT, .tlbinv r0), ("00-00-", "000+" ++ rA, .tlbinvDom { r0 with d := reg 41 }), ("00-00-", "000-" ++ rA, .tlbinvAll { r0 with d := reg 39 }),
    ("00-000", mT, .cflushL1 m0), ("00-000", "000+" ++ mA, .cflushWb { m0 with d := reg 41 }), ("00-000", "00+-" ++ mA, .cflushInv { m0 with d := reg 42 }),
    ("00-00+", rT, .icinv r0), ("00-00+", "000+" ++ rA, .icinvRect { r0 with d := reg 41 }), ("00-0+-", iT, .sleep i0), ("00-0+0", rT, .clock r0),
    ("00-0+0", "--0-" ++ "000+" ++ rB, .clockNs { r0 with a := reg 41 }), ("00-0++", iT, .perf i0), ("00-+--", iT, .mark i0),
    ("00-+-0", "--0---00" ++ "00000-00", .stop { i0 with imm := Tern.ofInt 8 (-9) }),
    ("00-+-0", "--0---00" ++ "00000-0+", .stopLaunch { i0 with imm := Tern.ofInt 8 (-8) })] := by
  unfold decodesAll; decide +kernel

theorem test_decode_memory : decodesAll [
    ("0+----", mT, .ld9 m0), ("0+---0", mT, .ld27 m0), ("0+---+", mT, .ld54 m0), ("0+--0-", mT, .st9 m0), ("0+--00", mT, .st27 m0), ("0+--0+", mT, .st54 m0),
    ("0+--+-", mT, .lds9 m0), ("0+--+0", mT, .lds27 m0), ("0+--++", mT, .lds54 m0), ("0+-0--", mT, .sts9 m0), ("0+-0-0", mT, .sts27 m0),
    ("0+-0-+", mT, .sts54 m0), ("0+-00-", rT, .lda27 l0), ("0+-000", rT, .lda54 l0), ("0+-00+", rT, .stl27 l0), ("0+-0+-", rT, .stl54 l0),
    ("0+-0+0", mT, .pref m0), ("0+-0+0", "000+" ++ mA, .prefL2 { m0 with d := reg 41 }), ("0+-0++", rT, .aadd l0), ("0+-+--", rT, .amin l0),
    ("0+-+-0", rT, .amax l0), ("0+-+-+", rT, .axchg l0), ("0+-+0-", rT, .acas l0), ("0+-+00", rT, .atadd l0), ("0+-+0+", rT, .afadd l0),
    ("0+-++-", rT, .aadd54 l0)] := by
  unfold decodesAll; decide +kernel

theorem test_decode_fetch : decodesAll [
    ("+-----", rT, .tkld l0), ("+----0", rT, .redeem r0), ("+----+", rT, .redeemb l0), ("+---0-", rT, .tkdrop r0), ("+---00", rT, .tkq r0),
    ("+---0+", rT, .tcopy l0), ("+---+-", mT, .binit m0), ("+---+0", mT, .barrv m0), ("+---++", mT, .bqry m0), ("+--0--", rT, .enq l0),
    ("+--0-0", mT, .recld m0)] := by
  unfold decodesAll; decide +kernel

theorem test_decode_matrix : decodesAll [
    ("+0----", rT, .mldw l0), ("+0---0", rT, .mma l0), ("+0---+", rT, .mmac l0), ("+0--0-", rT, .mzero l0), ("+0--00", rT, .mout l0),
    ("+0--0+", iT, .mwait i0), ("+0--+-", rT, .mstat r0), ("+0--+0", "--0---00" ++ "--000000", .mcfgClaim { i0 with imm := Tern.ofInt 8 (-2916) }),
    ("+0--+0", "--0---00" ++ "-0000000", .mcfgRelease { i0 with imm := Tern.ofInt 8 (-2187) }),
    ("+0--+0", "--0---00" ++ "-+000000", .mcfgKsplit { i0 with imm := Tern.ofInt 8 (-1458) }),
    ("+0--+0", "--0---00" ++ "0-000000", .mcfgBind { i0 with imm := Tern.ofInt 8 (-729) }), ("+0--++", rT, .macc l0)] := by
  unfold decodesAll; decide +kernel

theorem test_decode_solicit : decodesAll [
    ("++----", rT, .solicit l0), ("++---0", rT, .sreply r0), ("++---+", rT, .swait r0), ("++--0-", rT, .publish l0), ("++--00", rT, .withdraw r0),
    ("++--0+", rT, .migrate l0), ("++--+-", rT, .sqry r0)] := by
  unfold decodesAll; decide +kernel


/-! ## Decoding: words written out in the spec's examples, and the Lens set -/

def word1 (t : String) : Word := wordOf (trits t)
/-- The decoder reads an instruction from one or two words, through the bytes of memory. -/
def gives (ts : List String) (i : Instr) : Prop := (decodeBytes (codeBytes (ts.map word1))).toOption = some i

/-- The examples of R58 and of the integer, float, memory, synchronisation, fetch, solicit and matrix chapters. -/
theorem test_spec_words :
    gives ["-0-+-0--++0---+--+0--00+0+0"] (.shr (rf h0 2 7 4 1 0 1)) ∧
    gives ["0-----0-++0---0---+--0----0"] (.fadd (rf (hd 3 8 0) 1 2 3 (-1) (-1) (-1))) ∧
    gives ["0--+----++0---0---+0-+-00-0"] (.fcvt ⟨h0, reg 1, reg 2, Tern.ofInt 4 (-9 + 2), Tern.ofInt 3 (-1), Tern.ofInt 1 0⟩) ∧
    gives ["0+-0++--++0---+-0-0--00-0-0", "-0000+-00000000000000000000"] (.aadd (lf (rf h0 2 10 4 (-1) 0 (-1)) (-3 * 3 ^ 25 + 6 * 3 ^ 19))) ∧
    gives ["00--00--++0000000000000-+0-"] (.fenceRel (im 40 40 (-19))) ∧
    gives ["0+-00---++0---+-0-000000000", "++0000000000000000000000000"] (.lda27 (lf (rx 2 10 40) (4 * 3 ^ 25))) ∧
    gives ["+---0+--++0--+---0+--++0000", "-0-+0000+000000000000000000"] (.tcopy (lf (rx 6 5 8) (-3 * 3 ^ 25 - 2 * 3 ^ 23 + 3 ^ 18))) ∧
    gives ["++------++0--00--0+--+-0000", "0000000+-0000000+-000000000"] (.solicit (lf (rx 4 5 6) (2 * 3 ^ 18 + 2 * 3 ^ 9))) ∧
    gives ["---0----++00000000000000+-+"] (.join (im 40 40 7)) := by
  refine ⟨?_, ?_, ?_, ?_, ?_, ?_, ?_, ?_, ?_⟩ <;> (unfold gives; decide +kernel)

theorem test_decode_tkldLin :
    reads "+-----" rT "000000000000+00000000000000" = .tkldLin (lf r0 (3 ^ 14)) := by decide +kernel

/-- Opcode 0 is ZTRAP whatever its other trits; a slot past the end of its block is unlisted (R67, R69); a byte above 242 is none (R54). -/
theorem test_decode_refused :
    reads "000000" rT "0" = .ztrap (word1 ("000000" ++ "-+-+-" ++ rT)) ∧
    reads "++0000" rT "0" = .illegalOpcode (word1 ("++0000" ++ "-+-+-" ++ rT)) ∧
    (decodeBytes [243#8, 0#8, 0#8, 0#8, 0#8, 0#8]).toOption = none := by decide +kernel

/-- d = 1, a = 2, b = 3 and an immediate of 5, where the form has them (R385). -/
theorem test_decode_lens : ∀ e ∈ [
    (0x01000501#32, Instr.lensLdr 1 5 false 1), (0x0100050A#32, .lensLdr 1 5 true 2), (0x09000005#32, .lensLdi 1 5#18), (0x11000005#32, .lensLdih 1 5#18),
    (0x19000005#32, .lensLdc 1 5#18), (0x214C0000#32, .lensAdd 1 2 3), (0x294C0000#32, .lensSub 1 2 3), (0x314C0000#32, .lensAnd 1 2 3),
    (0x394C0000#32, .lensOr 1 2 3), (0x414C0000#32, .lensXor 1 2 3), (0x494C0000#32, .lensShl 1 2 3), (0x514C0000#32, .lensShr 1 2 3),
    (0x59400005#32, .lensAddi 1 2 5#18), (0x61400005#32, .lensAndi 1 2 5#18), (0x684C0005#32, .lensBeq 2 3 5#18), (0x704C0005#32, .lensBne 2 3 5#18),
    (0x784C0005#32, .lensBltu 2 3 5#18), (0x804C0005#32, .lensBlt 2 3 5#18), (0x88000000#32, .lensKeep), (0x90000000#32, .lensDrop),
    (0x98400005#32, .lensCount 2 5#18), (0xA0000005#32, .lensTrig 5#18)], (decodeLens e.1).toOption = some e.2 := by decide +kernel

/-- Unused opcodes and nonzero fixed bits are refused (R385, R386). -/
theorem test_lens_refused :
    ([0xA8000000#32, 0xF8000000#32, 0x88000001#32, 0x20000001#32, 0x01000010#32].all fun w => (decodeLens w).toOption.isNone) = true := by decide +kernel

/-! ## Well-formed and ill-formed instructions -/

/-- An ill-formed term for each check, and a well-formed neighbour of some. -/
theorem test_ill_formed : ∀ i ∈ [
    Instr.join (im 41 40 0), .joinArm (im 40 40 0), .regionOpen (im 40 40 (-1)), .regionClose (im 40 40 1), .eret (rx 41 40 40), .eretRegion (rx 40 40 40),
    .fenceFull (im 40 40 (-27)), .fenceFull (im 40 40 (-18)), .fenceAcq (im 40 40 (-36)), .fenceRel (im 40 40 (-27)), .tlbinv (rx 41 40 40), .tlbinv (rx 39 40 40),
    .tlbinvDom (rx 39 40 40), .tlbinvAll (rx 41 40 40), .cflushL1 (mf 41 40 8 0), .cflushL1 (mf 42 40 8 0), .cflushWb (mf 42 40 8 0), .cflushInv (mf 41 40 8 0),
    .icinv (rx 41 40 40), .icinvRect (rx 40 40 40), .clock (rx 40 41 40), .clockNs (rx 40 40 40), .stop (im 40 40 1), .stopLaunch (im 40 40 0),
    .ztrap (word1 "++0000000000000000000000000"), .illegalOpcode (word1 "0-----000000000000000000000"), .illegalOpcode wzero, .pref (mf 41 40 8 0),
    .prefL2 (mf 40 40 8 0), .tkld (lf (rx 4 10 40) (3 ^ 14)), .tkldLin (lf (rx 4 10 40) 0), .mcfgClaim (im 40 40 (-3 * 729)), .mcfgRelease (im 40 40 (-2 * 729)),
    .mcfgKsplit (im 40 40 (-729)), .mcfgBind (im 40 40 0), .lensLdr 0 0 false 4, .lensLdr 0 0 true 3, .lensLdc 0 64#18, .lensCount 0 64#18, .lensTrig 256#18,
    .splitImplicitMerge 0 0 4 0, .groupEnd 256 0, .loadReturn 0 200 0, .sideLogReplay 256, .badPageAdd 10099856, .waitpComplete 0 0 4, .barComplete 0 0 0 9,
    .tkldWaitAllocate 128, .ticketAgeExpiry 0 243, .censusKeyArrival 729 0, .censusKeyArrival 0 64, .responderStart 0 256 0 0, .censusComplete 729,
    .contextEnd 256 0, .doorbellWrite 2 0 0 true, .semWrite 2 0 0 false, .ctrlWrite 2 0 8 0 false, .ctrlRead 2 0 8, .outboundWrite 0 0 2 true, .hostReadFail 256 0 0, .hostReadFail 0 200 0, .doorbellWrite 0 4096 0 false, .queueVisit 4096, .crewPlace 0 256 0, .sliceExpiry 0 64, .pcSample 256,
    .dbgStep 0 0 0 4, .dbgSession 0 9 [] [], .memoryRead 2 0 0, .inboundWriteAck 386 0, .pcieLinkDown 2, .scaleupLinkDown 16, .thermalSample 5 0,
    .rdptrWrite 9 0, .hostReserveClaim 4096 0], i.wellFormed = false := by decide +kernel

theorem test_well_formed : ∀ i ∈ [
    Instr.join (im 40 40 0), .joinArm (im 41 40 0), .fenceRel (im 40 40 (-18)), .tlbinvAll (rx 39 40 40), .cflushInv (mf 42 40 8 0), .stopLaunch (im 40 40 1),
    .ztrap wzero, .illegalOpcode (word1 "++0000000000000000000000000"), .mcfgBind (im 40 40 (-729)), .lensLdr 0 1023 true 2, .lensTrig 255#18,
    .ticketAgeExpiry 127 242, .censusKeyArrival 728 63, .inboundWriteAck 385 0, .thermalSample 4 0], i.wellFormed = true := by decide +kernel

/-! ## Single steps -/

/-- Lanes of v12 after an instruction on v10 and v11. -/
def on2 (a b : List (Nat × Int)) : State := mach (withV (grp 0) (a.map (fun e => (10, e.1, e.2)) ++ b.map (fun e => (11, e.1, e.2))))
/-- The same with lanes 0, 1, 2 and 4. -/
def on4 (a : List (Nat × Int)) : State := mach (withX (withV (grp 0) (a.map (fun e => (10, e.1, e.2)))) (fun x => { x with mask := 0x17#32 }))

/-- R35: in T9, 9,841 + 1 is -9,841 with wrap and 9,841 with sat; with trap the group takes INT_OVERFLOW. -/
theorem test_add_overflow :
    vOf (after (.add (rf h0 12 10 11 (-1) (-1) (-1))) (on2 [(0, 9841)] [(0, 1)])) 12 0 = -9841 ∧
    vOf (after (.add (rf h0 12 10 11 (-1) 0 (-1))) (on2 [(0, 9841)] [(0, 1)])) 12 0 = 9841 ∧
    codeOf (after (.add (rf h0 12 10 11 (-1) 1 (-1))) (on2 [(0, 9841)] [(0, 1)])) = Cause.intOverflow.code ∧
    vOf (after (.add (rf h0 12 10 11 (-1) 1 (-1))) (on2 [(0, 9841)] [(0, 1)])) 12 0 = 0 := by decide +kernel

/-- R121: in T9 the product of 9,841 and 9,841 is 96,845,281. -/
theorem test_mul :
    vOf (after (.mul (rf h0 12 10 11 (-1) (-1) (-1))) (on2 [(0, 9841)] [(0, 9841)])) 12 0 = 4921 ∧
    vOf (after (.mulh (rf h0 12 10 11 (-1) 0 (-1))) (on2 [(0, 9841)] [(0, 9841)])) 12 0 = 4920 ∧
    vOf (after (.mul (rf h0 12 10 11 (-1) 0 (-1))) (on2 [(0, 9841)] [(0, 9841)])) 12 0 = 9841 := by decide +kernel

/-- R118: element 3 of v7 holds -5 and s4 holds 1 there; SHR.t3 gives -2. -/
theorem test_shr : vOf (after (.shr (rf h0 2 7 4 1 0 1)) (mach (withS (withV (grp 0) [(7, 0, -5 * 3 ^ 9)]) [(4, 3 ^ 9)]))) 2 0 = -2 * 3 ^ 9 := by decide +kernel

/-- R125: c2 holds +1, 0, -1; `(c2-) SEL` writes v11 to lane 0, leaves lane 1, and writes v10 to lane 2. -/
theorem test_sel :
    (let t := after (.sel (rf (hd 0 2 (-1)) 12 10 11 0 0 (-1)))
        (mach (withC (withV (grp 0) [(10, 0, 4), (10, 1, 4), (10, 2, 4), (11, 0, 5), (11, 1, 5), (11, 2, 5), (12, 1, 9)]) [(2, 0, 1), (2, 2, -1)]));
      (vOf t 12 0, vOf t 12 1, vOf t 12 2)) = (5, 9, 4) := by decide +kernel

/-- R126: TADD of `+0-` and `++-` is `-++`. -/
theorem test_tadd : vOf (after (.tadd (rf h0 12 10 11 0 0 (-1))) (on2 [(0, 8)] [(0, 11)])) 12 0 = -5 := by decide +kernel

/-- R128: 17 in T9 has three nonzero trits, their sum is -1, and the highest is trit 3. -/
theorem test_counts :
    vOf (after (.tcnt (rf h0 12 10 40 (-1) 0 (-1))) (on2 [(0, 17)] [])) 12 0 = 3 ∧ vOf (after (.tbal (rf h0 12 10 40 (-1) 0 (-1))) (on2 [(0, 17)] [])) 12 0 = -1 ∧
    vOf (after (.lead (rf h0 12 10 40 (-1) 0 (-1))) (on2 [(0, 17)] [])) 12 0 = 4 := by decide +kernel

/-- R133, R134: lanes 0, 1, 2 and 4 hold 9, 6, -4 and 5 in T3. -/
theorem test_scan :
    (let t := after (.scan (rf h0 12 10 40 1 0 (-1))) (on4 [(0, 9), (1, 6), (2, -4), (4, 5)]); [0, 1, 2, 4].map (fun l => vOf t 12 l)) = [9, 13, 11, 13] ∧
    (let t := after (.rsum (rf h0 12 10 40 1 0 (-1))) (on4 [(0, 9), (1, 6), (2, -4), (4, 5)]); [0, 1, 2, 4].map (fun l => vOf t 12 l)) = [13, 13, 13, 13] ∧
    vOf (after (.rsum (rf h0 12 10 40 1 (-1) (-1))) (on4 [(0, 9), (1, 6), (2, -4), (4, 5)])) 12 4 = -11 := by decide +kernel

/-- R143: c1 holds +1, 0, -1 and c2 0, 0, +1; their CMIN is 0, 0, -1. -/
theorem test_cmin :
    (let t := after (.cmin (rx 3 1 2)) (mach (withC (grp 0) [(1, 0, 1), (1, 2, -1), (2, 2, 1)])); [0, 1, 2].map (fun l => cOf t 3 l)) = [0, 0, -1] := by decide +kernel

/-- R148: in TF9, a = b = 247/243 (6,565) and d = -1 (-6,561): FMUL gives `+ 000 00+0-`, FMA `+ 0-0 0-0+-`. -/
theorem test_fma :
    vOf (after (.fmul (rf h0 12 10 11 (-1) 0 (-1))) (on2 [(0, 6565)] [(0, 6565)])) 12 0 = 6561 + 8 ∧
    vOf (after (.fma (rf h0 12 10 11 (-1) 0 (-1))) (mach (withV (grp 0) [(10, 0, 6565), (11, 0, 6565), (12, 0, -6561)]))) 12 0 = 6561 - 729 - 25 := by decide +kernel

/-- R159: ITOF.f9 of 9,841 is `+ +0- +++++`. -/
theorem test_itof : vOf (after (.itof (rf h0 12 10 40 (-1) 0 (-1))) (on2 [(0, 9841)] [])) 12 0 = 6561 + 8 * 243 + 121 := by decide +kernel

/-- R161: lanes 0, 1 and 2 hold 1, 1/243 and -1 in TF9; all receive 1/243. -/
theorem test_frsum :
    (let t := after (.frsum (rf h0 12 10 40 (-1) 0 (-1))) (on2 [(0, 6561), (1, 6561 - 5 * 243), (2, -6561)] []); [0, 1, 2].map (fun l => vOf t 12 l)) =
      [6561 - 5 * 243, 6561 - 5 * 243, 6561 - 5 * 243] := by decide +kernel

/-- R139, R140: `EXTR v12, v10, 4, 3` (IMM8 `--00--+0`) takes 8 from trits 6..4; `EXTR v12, v10, 9, 9` is WIDEN of element 1, -1 here;
NARROW saturates 10,000 into element 2 and keeps the other elements of its destination. -/
theorem test_extr :
    vOf (after (.extr (im 12 10 (-3 ^ 7 - 3 ^ 6 - 3 ^ 3 - 3 ^ 2 + 3))) (on2 [(0, 8 * 81 + 40 + 3 ^ 8)] [])) 12 0 = 8 ∧
    vOf (after (.extr (im 12 10 (-3 ^ 7 + 81 * (9 - 13) + 3 * (8 - 13)))) (on2 [(0, 5 - 3 ^ 9 + 9841 * 3 ^ 18)] [])) 12 0 = -1 ∧
    vOf (after (.widen (im 12 10 (-3 ^ 7 + 1))) (on2 [(0, 5 - 3 ^ 9 + 9841 * 3 ^ 18)] [])) 12 0 = -1 ∧
    vOf (after (.narrow (im 11 10 (-3 ^ 7 + 2))) (on2 [(0, 10000)] [(0, 7)])) 11 0 = 7 + 9841 * 3 ^ 18 := by decide +kernel

/-- R105: the split continues at PC + 3 · DISP16. -/
theorem test_jmp : pcOf (after (.jmp ⟨h0, Tern.ofInt 16 (-2)⟩) (mach (grp 0))) = 3000 - 6 := by decide +kernel

/-- R90: c0 holds +1 in lane 0 only: lane 0 is the minority and leaves for PC + 15 as split 1; split 0 goes on with lanes 1 and 2. -/
theorem test_br :
    (match (after (.br ⟨hp, Tern.ofInt 16 5⟩) (mach (withC (grp 0) [(0, 0, 1)]))).group? 0 with
      | some g => g.splits.map (fun x => (x.idx, x.pc.val, x.mask))
      | none => []) = [(0, 3003, 6#32), (1, 3015, 1#32)] := by decide +kernel

/-- R113, R205: BKPT with no debugger attached enters the handler at TVEC with the cause, and EPC is after the BKPT. -/
theorem test_bkpt :
    (match (after (.bkpt (im 40 40 0)) (mach (grp 0))).group? 0 with
      | some g => ((g.cause.field 0 5).val, g.epc.val, g.hdepth, g.splits.map (fun x => x.pc.val))
      | none => (0, 0, 0, [])) = ((Cause.breakpoint.code : Int), 3003, 1, [9000]) := by decide +kernel

/-- R205 step 3: a trap in the handler puts its cause in CODE2, keeps CODE and EPC, sets HDEPTH to 2 and stops the group. -/
theorem test_trap_in_handler :
    (match (after (.trap (im 40 40 7)) (mach { grp 0 with hdepth := 1, trapSplit := some 0, epc := addr 33 })).group? 0 with
      | some g => ((g.cause.field 0 5).val, (g.cause.field 22 5).val, g.epc.val, g.hdepth, g.status == .stopped .softwareTrap 0)
      | none => (0, 0, 0, 0, false)) = (0, (Cause.softwareTrap.code : Int), 33, 2, true) := by decide +kernel

/-- R53, R168: the word 8 stored at page position 0 is the bytes 81 79 79 79 79 79. -/
theorem test_store :
    (let t := after (.storeReturn 0 0 4) (flying (inFlight .store word0 (trytesOfWord (word 8)))); (List.range 6).map (fun i => (memByte t.mem i).toNat)) =
      [0x81, 0x79, 0x79, 0x79, 0x79, 0x79] := by decide +kernel

/-- R180, R191: a load of that word gives lane 0 of its destination the word; the access is then in flight no more. -/
theorem test_load :
    (let s := (flying (inFlight .load word0 [])).writeLocs word0 (trytesOfWord (word 8)); vOf (after (.loadReturn 0 0 4) s) 3 0) = 8 := by decide +kernel

/-- R247, R248: the handle of entry 3 of slice 58 with generation 2 reads `-+-00---0-000000000000000+-`. -/
theorem test_handle : handleOf 58 3 2 = word1 "-+-00---0-000000000000000+-" := by decide +kernel

/-- R370: the word at 1,161,966,321 is word 73 of tile 121 of its page. -/
theorem test_address :
    addrPath (addr 1161966321) = 0 ∧ pagePos (addr 1161966321) = 29623 ∧ 29623 / 243 = 121 ∧ wordIndex (addr 1161966321) = 73 ∧
    [4, 3, 2, 1].map (fun n => levelIndex (addr 1161966321) n) = [9841, 9841, 9842, 9836] := by decide +kernel

/-- R15: core (11, 6): die 1, cluster 29, rank 1. -/
theorem test_core : (dieOf (coreOf 11 6), clusterOf (coreOf 11 6), rankOf (coreOf 11 6)) = (1, 29, 1) := by decide +kernel


/-! ## The numbers that statements speak of -/

/-- Values of both signs and zero; an exponent, at 1 and at its upper end; the nearest integer, and a tie that goes to the smaller one. -/
theorem witness_Exact :
    (IsReal (.fin 1 0) 1 ∧ IsReal (.fin (-1) 0) (-1) ∧ IsReal (.fin 0 0) 0 ∧ IsReal (.fin 1 14) (3 ^ (14 : ℤ)) ∧ IsReal (.fin 1 (-14)) (3 ^ (-14 : ℤ))) ∧
    (ExpOf 1 0 ∧ ExpOf (3 / 2) 0 ∧ ¬ ExpOf (1 / 2) 0) ∧ (Nearest 1 1 ∧ Nearest 0 (1 / 2) ∧ Nearest 0 (-1 / 2) ∧ ¬ Nearest 1 (1 / 2)) := by
  refine ⟨⟨⟨1, 0, rfl, by norm_num⟩, ⟨-1, 0, rfl, by norm_num⟩, ⟨0, 0, rfl, by norm_num⟩, ⟨1, 14, rfl, by norm_num⟩, ⟨1, -14, rfl, by norm_num⟩⟩, ?_, ?_⟩ <;>
    norm_num [ExpOf, Nearest, abs_of_pos, abs_of_neg]

theorem expOf_pow (e : ℤ) : ExpOf ((3 : ℝ) ^ e) e := by
  have h : (0 : ℝ) < 3 ^ e := by positivity
  unfold ExpOf; rw [abs_of_pos h, zpow_add₀ (by norm_num), zpow_one]; constructor <;> linarith

/-- Packing in TF9: one past its largest exponent, one below its smallest, and the two ends; the significand is 3^5, exactly. -/
theorem witness_Packs : ∀ e ∈ [(14 : ℤ), -14, 13, -13], ExpOf ((3 : ℝ) ^ e) e ∧ Nearest (3 ^ 5) ((3 : ℝ) ^ e / 3 ^ (e - (tf9.f : ℤ))) ∧
    (false = true ↔ (3 : ℝ) ^ e < 0) ∧ (false = true ↔ ((3 ^ 5 : ℤ) : ℝ) * 3 ^ (e - (tf9.f : ℤ)) ≠ 3 ^ e) := by
  intro e _
  have h : (0 : ℝ) < 3 ^ e := by positivity
  have f : (tf9.f : ℤ) = 5 := by decide
  have q : (3 : ℝ) ^ e = 3 ^ 5 * 3 ^ (e - 5) := by rw [zpow_sub₀ (by norm_num)]; norm_num; ring
  refine ⟨expOf_pow e, ?_, ⟨by simp, fun x => absurd x (not_lt.mpr h.le)⟩, ⟨by simp, fun x => absurd ?_ x⟩⟩
  · rw [f, q, mul_div_assoc, div_self (by positivity)]; norm_num [Nearest]
  · rw [f, q]; push_cast; ring


/-- The codes of TF9: 1, the infinities, a NaN and the ends of the fields; values in order, out of order and beside it; what products, divisions and
complex parts meet. -/
theorem witness_FloatMeaning :
    (let F := tf9; let one := mkCode F 1 0 0;
      (fval F one = .fin 243 (-5) ∧ fval F 0 = .fin 0 0 ∧ fval F nanCode = .nan ∧ fval F (infCode F false) = .inf false ∧ fval F (infCode F true) = .inf true) ∧
      (fits one F.n = true ∧ fits (maxFinite F true) F.n = true ∧ fits (infCode F true) F.n = true) ∧
      (∀ e ∈ [(13 : Int), -13], ∀ f ∈ [(121 : Int), -121], |e| ≤ F.emax ∧ |f| ≤ (half F.f : Int))) ∧
    (fmul (.fin 0 0) (.inf false) = .invalid ∧ fmul (.fin 1 0) (.inf false) = .inf false ∧ fmulV (.fin 0 0) (.inf true) = none ∧ fmulV (.inf true) (.fin 1 0) = some (.inf true)) ∧
    (Below (.fin 1 0) (.fin 1 1) ∧ ¬ Below (.fin 1 1) (.fin 1 0) ∧ Below (.inf true) (.inf false) ∧ Below (.fin 0 0) (.inf false) ∧ ¬ Below .nan (.fin 1 0) ∧
      Below (.inf true) (.fin 0 0) ∧ Below (.fin (-1) 0) (.fin 0 0)) := by
  refine ⟨by decide +kernel, by decide +kernel, ?_⟩
  norm_num [Below]; decide

/-- The windowed sum of 1 and 3, which fits its window, in one chunk, and the sums of two arrays. -/
theorem witness_MatrixMeaning :
    (List.Forall₂ (List.Forall₂ (fun (a : Int × Int) (x : ℝ) => IsReal (.fin a.1 a.2) x)) (chunks27 [(1, 0), (1, 1)]) [[1, 3]]) ∧
    (∃ x ∈ [(1 : ℝ), 3], ExpOf x 1) ∧ (∀ x ∈ [(1 : ℝ), 3], 2 * |x| ≤ (3 : ℝ) ^ ((1 : ℤ) + 1)) ∧
    (List.Forall₂ (fun (t : Int) (x : ℝ) => Nearest t (x / (3 : ℝ) ^ ((1 : ℤ) - 10 - 5))) [3 ^ 14, 3 ^ 15] [1, 3]) ∧
    ([[(1, 0)]] : List (List (Int × Int))) ≠ [] ∧
    (none ∈ [[none, some (.fin 1 0)]].flatten ++ ([] : List (Option FVal)) ∧ some (FVal.inf true) ∉ [some (FVal.fin 1 0)]) ∧
    ((∀ x, ([5] : List Int) = [x] → x = 5) ∧ ([5, 6] : List Int).length ≠ 1) ∧ (IsReal (fval tf27 (mkCode tf27 1 0 0)) 1) := by
  have hc : chunks27 [(1, 0), (1, 1)] = [[(1, 0), (1, 1)]] := by decide
  have hf : fval tf27 (mkCode tf27 1 0 0) = .fin (3 ^ 20) (-20) := by decide +kernel
  refine ⟨?_, ⟨3, by simp, by norm_num [ExpOf]⟩, ?_, ?_, by simp, by simp, by simp, ?_⟩
  · rw [hc]
    exact .cons (.cons ⟨1, 0, rfl, by norm_num⟩ (.cons ⟨1, 1, rfl, by norm_num⟩ .nil)) .nil
  · intro x hx; simp at hx; rcases hx with rfl | rfl <;> norm_num
  · refine .cons ?_ (.cons ?_ .nil) <;> norm_num [Nearest]
  · exact ⟨3 ^ 20, -20, hf, by norm_num⟩

/-- Conversions: binary values in and out of a range, their scale, a half-precision 1, its smallest subnormal's half, and what passes its largest. -/
theorem witness_ConvMeaning :
    (IsBin (.fin 1 1) 1 ∧ IsBin (.fin 9842 1) 9842 ∧ IsBin (.fin 0 1) 0) ∧ (Nearest 9842 (9842 * 1) ∧ Nearest 1 (1 * 1)) ∧
    (ScaleIs wzero 1 ∧ ∃ w s, w ≠ wzero ∧ ScaleIs w s) ∧
    (let ok := fun (x : ℝ) (e m : Int) => (false = true ↔ x < 0) ∧ (2 - 2 ^ (5 - 1) : Int) ≤ e ∧ |x| < (2 : ℝ) ^ (e + 1) ∧ ((2 : ℝ) ^ e ≤ |x| ∨ e = 2 - 2 ^ (5 - 1)) ∧
        2 * |(|x| / (2 : ℝ) ^ (e - 10)) - m| ≤ 1 ∧ (2 * |(|x| / (2 : ℝ) ^ (e - 10)) - m| = 1 → m % 2 = 0);
      ok 1 0 1024 ∧ ok (1 / 2 ^ 25) (-14) 0 ∧ ok 65520 15 2048) ∧
    ((p5dec 9 [243#8, 0#8]).isNone = true ∧ (p5dec 9 [121#8, 121#8]).isSome = true) ∧
    (recShape 3 0).isSome = true := by
  have hf : fval tf27 (word (mkCode tf27 1 0 0)).val = .fin (3 ^ 20) (-20) := by decide +kernel
  refine ⟨⟨⟨1, 1, rfl, by norm_num, by norm_num⟩, ⟨9842, 1, rfl, by norm_num, by norm_num⟩, ⟨0, 1, rfl, by norm_num, by norm_num⟩⟩, by norm_num [Nearest],
    ⟨.inl ⟨rfl, rfl⟩, word (mkCode tf27 1 0 0), 1, by decide +kernel, .inr ⟨by decide +kernel, one_ne_zero, 3 ^ 20, -20, hf, by norm_num⟩⟩, ?_, by decide +kernel, by decide +kernel⟩
  norm_num [abs_of_pos]


/-! ## Further cases of the statements -/

/-- A counter in a binary page, behind a host port that is down, and on this device's own number. -/
def nat8 : List Loc := (List.range 8).map (fun i => Loc.binary 3 i)
def host8 : List Loc := (List.range 8).map (fun i => Loc.host 0 i)
def own8 (k : Nat) : List Loc := (List.range 8).map (fun i => Loc.peer 0 (k + i))
/-- A barrier word in A, and a state with a count in it. -/
def bar3 : List Loc := [.buf 0 0 0, .buf 0 0 1, .buf 0 0 2]
def counting (n : Int) : State := { waits (.bwait bar3 0 14 0 wzero) with bufs := [(bufKey 0 0 0, word n)] }

/-- A trap of a debugger's cause with no debugger; a WAITGE whose counter can be read, whose host port is down, and whose own device has no IMPORT
for it; a BWAIT on the count of a cause and on one below every cause. -/
theorem witness_WaitsFurther :
    ((mach (grp 0)).attached 1 = false ∧ Cause.breakpoint.delivery = .debugger ∧ (grp 0).heldSplits = []) ∧
    (∀ ls ∈ [nat8, host8, own8 5], let s := { waits (.waitge ls 0 14 0 0) with pcieUp := [] };
      waiterIs s = true ∧ s.readFree (grp 0) 0 ls = true ∧ s.ownKey 0 false ls = none ∧
        (match (s.reachRead 0 ls).2 with
          | .ok at_ => ls == nat8 && (match s.readLocs at_ with | .ok ts => decide (0 ≤ counterValue ts) | .error _ => false)
          | .error _ => ls != nat8) = true) ∧
    (∀ n ∈ [(-5 : Int), -100], let s := counting n;
      waiterIs s = true ∧ s.readFree (grp 0) 0 bar3 = true ∧
        (match s.readLocs bar3 with | .ok ts => barrierCount (wordOfTrytes ts) == n | .error _ => false) = true) ∧
    (counting 0).toHandler 1 .barrierUnderflow = true ∧ Cause.all.any (fun c => (c.code : Int) == 5) = true := by
  decide +kernel

/-- The group that waits. -/
def waitG (w : Wait) : Group := withX { grp 0 with infl := [] } (fun x => { x with wait := w })
def rbar0 : Tern 8 := (im 40 40 (-364)).imm
def xbar0 : Wait := .xbar 1 0 14 0
def xbarM : State := let m := smallMach xbar0; { m with groups := m.groups ++ [(1, { grp 1 with launch := 2 })] }

/-- A sub-rectangle whose crew has arrived, with its group; a launch at XBAR with the one group that waits and one that is another launch's; a split
that waits at XBAR awake when the member is lost. -/
theorem witness_BarriersFurther :
    ((smallMach (.rbar rbar0)).group? 0 = some (waitG (.rbar rbar0)) ∧ (waitG (.rbar rbar0)).key = 0 ∧ (waitG (.rbar rbar0)).launch = 1 ∧
      (waitG (.rbar rbar0)).core ∈ subRect 0 0 (rbarW rbar0) (rbarH rbar0) ∧ (waitG (.rbar rbar0)).isSeq = false ∧
      (waitG (.rbar rbar0)).arrived (fun w => w == .rbar rbar0) = true) ∧
    (xbarM.launch? 1 = some small ∧ small.savedNone = true ∧ mapSorted xbarM.groups = true ∧ (∀ e ∈ xbarM.groups, e.2.key = e.1) ∧
      (∀ i, i < 2 ^ small.logw → ∀ j, j < 2 ^ small.logh → ∀ k, k < small.crewsPer → xbarM.crewArrived small (coreOf (small.x + i) (small.y + j)) k atXbar = true) ∧
      (∀ e ∈ xbarM.groups, e.2.launch = 1 → ∀ x ∈ e.2.splits, x.wait = xbar0) ∧
      (xbarM.group? 1).map (fun g => g.launch) = some 2 ∧ xbarM.group? 0 = some (waitG xbar0) ∧ (waitG xbar0).arrived atXbar = true ∧
      ((waitG xbar0).splits.map (·.idx)).Nodup) ∧
    (xbarM.toHandler 1 .xbarMemberLost = true ∧ (waitG xbar0).isWalker = false ∧ (waitG xbar0).machineStopped = false ∧ (waitG xbar0).hdepth = 0 ∧
      (waitG xbar0).tvec ≠ azero ∧ ((waitG xbar0).splits.find? (fun x => atXbar x.wait && (waitG xbar0).awake x.idx)).isSome = true) := by
  and_intros <;> decide +kernel

/-- This device's own class 0 imported as domain 7, and a counter there by its own number; the same with its frame under a key slot that is empty. -/
def ownK : Nat := (addrAdd (peerAddr (addr (low + 8))) 0).index
def ownM : State := { waits (.waitge (own8 ownK) 0 14 0 0) with mem := ((mappedLeaf (729 * 47 + 243 + 81 - 27 + 9)).writeLocs [.packed 41 19683, .packed 41 19684, .packed 41 19685] (trytesOfWord (word (729 * 42 - 243)))).mem, roots := [(7, 41)] }
def ownI : State := { ownM with ctrl := { ownM.ctrl with imports := [(0, 0), (1, 7)] } }

theorem witness_OwnDevice :
    (let ls := own8 ownK;
      waiterIs ownI = true ∧ ownI.readFree (grp 0) 0 ls = true ∧ ownI.ownKey 0 false ls = none ∧
        (match (ownI.reachRead 0 ls).2 with | .ok at_ => at_ == (List.range 8).map (fun i => Loc.binary 47 (8 + i)) && good (ownI.readLocs at_) | .error _ => false) = true ∧
        ({ ownI with frameKey := [(47, 3)] } : State).ownKey 0 false ls = some 2) := by
  and_intros <;> decide +kernel

/-- Nothing in an access's way; a tryte of a load not yet read early, by another device's number or none; a count of reclaimed tickets that
can be kept; a migration's tryte; counters with room. -/
theorem witness_AccessesFurther :
    (∀ k ∈ [AccKind.load, .store, .atomic addTo true, .flush], (flying (inFlight k word0 [])).accessWait (grp 0) (inFlight k word0 []) = none) ∧
    (let a := inFlight .load word0 []; a.early = [] ∧ (lane0 word0 []).own (flying a) = false ∧
      (match (flying a).readLane 0 (lane0 word0 []) with | .ok ts => ts[0]?.isSome && ts[2]?.isSome | .error _ => false) = true) ∧
    ((moor0 .pending [] [word0] none).exited = false ∧ (moor0 .pending [] [word0] none).red = none) ∧
    (let m := { moor0 .moored [word 7] [] none with age := 10 }; ({ moored (grp 0) m with launches := [{ lau with tkAge := 9 }] } : State).jcbWait 1 [1] = none) ∧
    (let s := { mach (grp 0) with tcJobs := [(0, migJob)] };
      (∀ i ∈ [0, 242], i ∉ mapGet [] migJob.early 0 ∧ good (s.readLoc (.buf 0 0 (243 * 0 + i))) = true) ∧ s.badBufs = [] ∧ migJob.waits = [] ∧
        (0 : Nat) ∈ mapGet [] ({ migJob with early := [(0, [0])] } : TcJob).early 0) ∧
    (grp 0).inflight (pathCounter (-1) true true) < 81 := by
  and_intros <;> decide +kernel

/-- The records of a group in domain 7 read by path `p`, whose page is `pte`: one of host memory whose read has failed, and one whose frame's key slot
is empty, by this device's number. -/
def hostA : Addr := addr (3 * 3 ^ 51 + phys 0 1)
def hostR : State :=
  { mach (withP { grp 0 with domain := 7 } 10 (3 * 3 ^ 51 + phys 0 1)) with
    tlbs := [{ unit_ := 0, domain := 7, page := pageNum hostA, large := false, pte := word (leafOf 0 - 27) }], outFrame := 5, outFrames := 1, hostFails := [(0, 0)]
    mem := [(frameAddr 5 + 8, 0#8), (frameAddr 5 + 9, 1#8)] ++ (List.range 6).map (fun i => (frameAddr 5 + 10 + i, 0#8)) }
def recldIs (P : Fr → List Loc → Bool) (fr : Fr) : Bool :=
  match laneCheck fr.s (fr.g.agent fr.sp.idx) recldReq (fr.recldAddrs (mf 2 10 8 0) none).2 (fr.recldAddrs (mf 2 10 8 0) none).1 with
  | .ok ps => let locs := (recldLanes fr.g.isSeq (fr.recldAddrs (mf 2 10 8 0) none).1 ps).flatMap (fun la => la.locs)
    fr.any && !fr.recldWaits (fr.recldAddrs (mf 2 10 8 0) none).1 locs && P fr locs
  | _ => false
def ownR : State :=
  { mach (withP (grp 0) 10 (4 * 3 ^ 51 - half 6 * 3 ^ 45 + (peerAddr (addr (low + 1))).val)) with
    mem := ownM.mem, roots := [(7, 41)], ctrl := ownI.ctrl }

theorem witness_HostRecords :
    metB hostR h0 (recldUse (mf 2 10 8 0)) (recldIs (fun fr locs => fr.hostFails locs)) = true ∧
    metB ownR h0 (recldUse (mf 2 10 8 0)) (recldIs (fun fr locs => !fr.hostFails locs && fr.s.ownKey fr.g.domain false locs == none &&
      good (fr.s.reachRead fr.g.domain locs).2)) = true ∧
    metB { ownR with frameKey := [(47, 3)] } h0 (recldUse (mf 2 10 8 0)) (recldIs (fun fr locs => !fr.hostFails locs && fr.s.ownKey fr.g.domain false locs == some 2)) = true := by
  and_intros <;> decide +kernel

/-- ENQ whose stores are still out; a slot whose frame's key is not loaded; a queue's head that waits for its key; a visit that is over; a key that a
packet's counter waits for; WAITC, COPY and launch events that wait for keys or are undone. -/
theorem witness_QueueKeys :
    (let u : Use := { resv := resvPred h0 || plainR (rf h0 20 10 12 0 0 0) || false || false,
                      opds := [pairOpd 20 false true, pairOpd 10 true false, regOpd false 12 true false] }
      let g := withP (withS { grp 0 with domain := 7 } [(12, 0)]) 10 (bufAddr (-1) 0 0); let st := { queued (mach g) 0 with bufs := imgBufs };
      metB { st with groups := [(0, { g with infl := [{ loadOut with before := [0] }] })] } h0 u (fun fr => fr.any && !fr.drained) = true ∧
      metB { st with frameKey := [(47, 3)] } h0 u (fun fr => fr.any && good (fr.enqImage (fr.readS2 1 10)) && fr.drained && fr.s.mayAppend fr.g 0 &&
        decide (fr.s.qReserve 0 < fr.s.qRead 0 + fr.s.qSlots 0) && fr.s.keysFor (fr.s.qDomain 0) true (pagesOf (fr.s.slotAddr 0 0) 64) == some 2) = true) ∧
    (let s := peek markerBytes; s.keysFor (s.qDomain 0) true (pagesOf (s.slotAddr 0 (s.qRead 0)) 64) = none ∧ s.headKey 0 markerBytes = none ∧
      (let l := slotBytes 1 (zeroBytes 37 ++ p5enc (addr low)); ({ s with frameKey := [(47, 3)] } : State).headKey 0 l = some 2)) ∧
    (let s := { headed (some 0) ⟨0, markerBytes, none⟩ with kicks := [] }; s.scheduling = true ∧ (s.lookAt 0).moveOn.visiting 0 = true ∧
      ({ s with ctrl := s.ctrl } : State).visiting 0 = true) ∧
    (let s := headed none ⟨0, markerBytes, none⟩; (s.lookAt 0).moveOn.day.visit = none ∧ (s.lookAt 0).moveOn.acceptable 0 = true) ∧
    (let s := headed (some 0) ⟨0, markerBytes, none⟩; s.keysFor (s.qDomain 0) true [s.slotAddr 0 0] = none ∧
      s.sysKey 7 (addr (low + 512)) true = none ∧ ({ s with frameKey := [(47, 3)] } : State).sysKey 7 (addr (low + 512)) true = some 2) ∧
    ((waiting 0).sysKey ((waiting 0).qDomain 0) (addr (low + 512)) false = none ∧
      ({ waiting 0 with frameKey := [(47, 3)] } : State).sysKey 7 (addr (low + 512)) false = some 2 ∧ (waiting 0).day.down = false) ∧
    (copy0.early = [] ∧ (0 : Nat) ∈ ({ copy0 with early := [0] } : CopyJob).early) ∧
    (let m := moor0 .moored [word 7] [] none;
      (mach (grp 0)).reclaimWait 1 = none ∧ ({ moored (grp 0) m with launches := [{ lau with jcb := addr (low + 512), domain := 7 }], mem := (queued (mach (grp 0)) 0).mem, roots := [(7, 41)], frameKey := [(47, 3)] } : State).reclaimWait 1 ≠ none) := by
  and_intros <;> decide +kernel

/-- A share with three saved groups, two of one core and the sequencer, a side-log entry, a matrix job and two arrays, one with a block. -/
def loadOp : MxOp := .load ⟨0, 1, 0, 3, 1, 1⟩ false 324 []
def loadJ : MxJob := mxJob0 loadOp [] []
def blockOf (s : State) (wrong : Bool) : Option MxBlock :=
  (s.expand (loadJ.desc 0 ⟨0, 1, 0, 3, 1, 1⟩)).map (fun x => { x.1 with check := if wrong then word (x.1.check.val + 1) else x.1.check })
def fullShare (wrong : Bool) : Share :=
  { shareOf .saved with
    savedGroups := [grp 5, grp 6, seqG], savedCrews := [{ cre with tiles := [4, 4, 4] }], savedBufs := [(bufKey 0 0 0, word 7)]
    savedLog := [entry0 (.store []) true], savedJobs := [(0, loadJ)], savedArrays := [(0, { MxArray.empty with block := blockOf (seqM seqG) wrong })] }
def backM (wrong : Bool) : State := { shareM { lau with shares := [fullShare wrong], crewsPer := 2 } (grp 0) with groups := [(0, { grp 0 with launch := 2 })], crews := [] }

theorem witness_Restore :
    (let s := backM false; let sh := fullShare false;
      (s.share? 1 0).map (·.2) = some sh ∧ s.waiterFits { lau with shares := [sh] } 0 = false ∧ s.contextFits { lau with shares := [sh] } sh = true ∧
        sh.savedCrews.all (s.crewFits sh) = true ∧ (sh.savedGroups.map Group.key).Nodup ∧
        (∀ g ∈ sh.savedGroups, g.isSeq = false → (sh.savedGroups.filter (fun x => x.core == g.core && !x.isSeq)).length ≤
          ((List.range placeSlots).filter (fun k => (s.group? (gkey g.core k)).isNone)).length) ∧
        (∀ g ∈ sh.savedGroups, g.isSeq = true → sh.savedGroups.filter (·.isSeq) = [g] ∧ g.core = seqCore (clusterOf g.core) ∧ (s.freeContext (clusterOf g.core)).isSome = true) ∧
        mapSorted sh.savedJobs = true ∧ mapSorted sh.savedArrays = true ∧ mapSorted sh.savedBufs = true) ∧
    (∀ wrong ∈ [false, true], ∃ a, (fullShare wrong).savedArrays = [(0, a)] ∧ (match a.block with
      | some b => (match (backM wrong).expand b.desc with | some x => (x.1.check == b.check) == !wrong | none => false)
      | none => false) = true) := by
  refine ⟨?_, ?_⟩
  · and_intros <;> decide +kernel
  · intro w hw; exact ⟨_, rfl, by revert w; decide +kernel⟩

/-- A member's report while Daymark is down; a failover with deficits and reports owed; GO to a member that has it; a fault taken in this very
cycle; a split that waits at a WAITGE of host memory; a peer's request that waits for a key, and a reduction of a poisoned tile. -/
theorem witness_DownAndPending :
    (let s := gangM .armed []; let d := { s with day := { s.day with down := true, owed := [(0, 5)], late := [(9, 1)] } };
      d.day.down = true ∧ (9, 1) ∉ d.day.reports ∧ d.ctrl.schedstop = false ∧
        (∀ l ∈ d.launches, ∀ g, l.gang = some g → g.coordinator = d.devid ∨ d.reachable g.coordinator = true)) ∧
    ((lau.gang = none ∧ (fresh []).halted = none)) ∧
    (let ti : TrapInfo := { cause := .divideByZero, epc := addr 3000 };
      let s := { mach { grp 0 with hdepth := 1 } with fresh := [(0, ((0, ti), grp 0))] };
      s.debugLaunch 1 = some lau ∧ mapFind 0 s.fresh = some ((0, ti), grp 0) ∧ (grp 0).hdepth = 0 ∧ (grp 0).status = .running ∧ s.toHandler 1 .divideByZero = true ∧
        ((({ grp 0 with hdepth := 1 } : Group).untrap (grp 0) 0).split? (({ grp 0 with hdepth := 1 } : Group).untrap (grp 0) 0).stopSplit).isSome = true) ∧
    (let s := waits (.waitge host8 0 14 0 0);
      waiterIs s = true ∧ (grp 0).awake 0 = true ∧ s.readFree (grp 0) 0 host8 = true ∧ s.toHandler 1 .hostWindowError = true ∧ .host 0 0 ∈ host8 ∧
        ((grp 0).split? 0).map (·.wait) = some .none) ∧
    (let s := { peerM with frameKey := [(47, 3)] };
      s.peerAsks 1 0 (.load (addr (low + 1)) 3) = some 2 ∧ s.inbound = [] ∧ peerM.peerAsks 1 0 (.load (addr (low + 1)) 3) = none ∧
        peerM.peerAsks 1 0 (.store (addr (low + 1)) (trytesOfWord (word 5))) = none ∧ (mach (grp 0)).peerAsks 1 0 (.load (addr (low + 1)) 1) = none) ∧
    (let op := PeerReq.atomic (addr low) addTo azero azero false; let s := { mach (grp 0) with inbound := [peerIn op] };
      s.inbound.filter (fun x => x.port == 3) = [peerIn op] ∧ placedB s word0 3 = true) := by
  and_intros <;> decide +kernel

/-- An image whose version lies below the rollback counter and one without its signature; a start while a die is held, and one that follows when
records have left; a cool die after a hot one; a split whose last entry meets and an equal one. -/
theorem witness_StartsAndMeetings :
    (imageFailure 2 [⟨3, true⟩, ⟨1, true⟩] = some ⟨1, 2, 1⟩ ∧ imageFailure 2 [⟨3, false⟩] = some ⟨1, 1, 0⟩ ∧ imageFailure 2 [⟨2, true⟩] = none) ∧
    (imageFailure State.reset.rollback State.reset.images = none ∧ (∃ e ∈ ({ State.reset with hot := [(4, 3)] } : State).hot, e.2 = 3) ∧
      (imageFailure 2 (List.replicate 6 ⟨1, true⟩)).isSome = true ∧ (List.replicate 6 (⟨1, true⟩ : Image)).length = 6) ∧
    (let s := { State.reset with startDue := true }; s.startDue = true ∧ s.agenda = [] ∧ s.day.down = false ∧ s.fifo = [] ∧ s.records = []) ∧
    (let s := { State.reset with hot := [(4, 3)], temps := [(1, 899), (4, 1300)] }; mapFind 4 s.hot = some 3 ∧ mapSorted s.temps = true ∧
      (∀ e ∈ s.temps, e.1 ≠ 4 → e.2 < 900) ∧ 899 < 900) ∧
    (ready1.startDue = false ∧ badPc.startDue = false ∧ (lensM (sess 1 16) []).startDue = false) ∧
    (let g := { grp 0 with splits := (grp 0).splits.flatMap (fun x => [{ x with mask := 1#32, falls := [⟨addr 3000, 2#32, false⟩] }, { x with idx := 1, mask := 4#32 }]) };
      let s := mach g; s.upkeep = none ∧ s.waking = none ∧ s.pickIssue = some (0, 0) ∧ s.lowerFirst 0 0 = none ∧ (g.modSplit 0 Split.meet).mergePair.isSome = true ∧
        g.mergePair.isNone = true) := by
  and_intros <;> decide +kernel

/-- Units of MMA, MACC and MOUT whose regions lie apart, of one element; a tile of the second plane of a copy whose first is done; a debugger's trap
with none attached. -/
theorem witness_UnitShapes :
    (let ma := mxJob0 (.mma (aReg 3) (cReg 4 0) 1 true 0 false 27) [] []; let mc := mxJob0 (.acc (cReg 4 0) (cReg 4 1) 0 false) [] [];
      let mo := mxJob0 (.out (cReg 4 0) (aReg 3) false 0 0) [] [];
      (∀ j ∈ [ma, mc, mo], unitRuns { seqM seqG with mxJobs := [(0, j)], arrays := loaded 3 } j = true) ∧ accType 4 = true ∧ unitRows 1 1 0 = [0] ∧
        (aReg 3).cols = 1 * ma.arrays.length ∧ (∀ x ∈ regionWords (aReg 3), x ∉ regionWords (cReg 4 0)) ∧ (∀ x ∈ regionWords (cReg 4 0), x ∉ regionWords (cReg 4 1))) ∧
    (match (layMach (copyGrp handleL)).frame? h0 with
      | none => false
      | some fr => match fr.tcopyJob copyF with
        | .error _ => false
        | .ok (j, _) => (match j.work with
          | .tcopy l o fs ps c p t0 =>
            let k := { j with work := .tcopy { l with elt := -4 } o fs ps c p t0, done := [(0, 0)] }; let s := { fr.s with tcJobs := [(0, k)] };
            k.extent == (4, 1) && k.done.contains (0, 0) && (s.copyWait k).isNone && placedB s k.barrier 3 && good (s.readLocs k.barrier)
          | _ => false)) = true ∧
    migJob.early = [] ∧ (lau.dbg = DebugSet.none ∧ (mach (grp 0)).sessions = []) := by
  and_intros <;> decide +kernel

end Sys2Proof.Tests
end

section
/-! PROOFS. Numbers and the P5 code: how far a balanced field reaches, narrowing under each overflow mode (R32, R33, R35), and the
trits of a packed sequence (R53, R54). -/

namespace Sys2Proof.Numbers

open Sys2Proof.Machine

/-! ## The range of a field -/

theorem three_pow_eq_half (n : Nat) : 3 ^ n = 2 * half n + 1 := by
  have hodd : 3 ^ n % 2 = 1 := by simp [Nat.pow_mod]
  rw [half]
  generalize 3 ^ n = p at hodd ⊢
  omega

theorem half_lt_three_pow (n : Nat) : half n < 3 ^ n := by
  have := three_pow_eq_half n
  omega

/-- The greatest value of two adjacent fields is built from the greatest value of each. -/
theorem half_add (n d : Nat) : half (n + d) = half n + 3 ^ n * half d := by
  have hpow : 3 ^ (n + d) = 3 ^ n * 3 ^ d := pow_add 3 n d
  rw [three_pow_eq_half (n + d), three_pow_eq_half d, mul_add, mul_left_comm, mul_one, three_pow_eq_half n] at hpow
  rw [three_pow_eq_half n]
  omega

/-- The index of the zero string has the digit 1 at every trit of the string. -/
theorem half_digit {d i : Nat} (hi : i < d) : half d / 3 ^ i % 3 = 1 := by
  obtain ⟨e, rfl⟩ : ∃ e, d = i + (1 + e) := ⟨d - i - 1, by omega⟩
  have hone : half 1 = 1 := rfl
  rw [half_add, Nat.add_mul_div_left _ _ (by positivity), Nat.div_eq_of_lt (half_lt_three_pow i), half_add, hone]
  omega

/-! ## Narrowing -/

theorem fits_iff (x : Int) (n : Nat) : fits x n = true ↔ -(half n : Int) ≤ x ∧ x ≤ half n := by
  simp [fits]

theorem wrap_mem_range (x : Int) (n : Nat) : -(half n : Int) ≤ wrap x n ∧ wrap x n ≤ half n := by
  have hpos : (0 : Int) < ((3 ^ n : Nat) : Int) := by positivity
  have h0 := Int.emod_nonneg (x + half n) hpos.ne'
  have h1 := Int.emod_lt_of_pos (x + half n) hpos
  have hpow := three_pow_eq_half n
  unfold wrap
  omega

theorem eq_wrap_add_mul (x : Int) (n : Nat) : ∃ q : Int, x = wrap x n + 3 ^ n * q := by
  refine ⟨(x + half n) / ((3 ^ n : Nat) : Int), ?_⟩
  have := Int.emod_add_mul_ediv (x + half n) ((3 ^ n : Nat) : Int)
  push_cast at this
  simp only [wrap]
  push_cast
  linarith

theorem sat_of_not_fits {x : Int} {n : Nat} (h : ¬ fits x n = true) :
    sat x n = if x < 0 then -(half n : Int) else half n := by
  rw [fits_iff] at h
  unfold sat
  split_ifs <;> omega

theorem narrow_of_fits {x : Int} {n : Nat} (h : fits x n = true) (o : Int) : narrow o n x = .ok (x, .none) := by
  simp [narrow, h]

theorem narrow_wrap {x : Int} {n : Nat} (h : ¬ fits x n = true) : narrow (-1) n x = .ok (wrap x n, .ovf) := by
  simp [narrow, h]

theorem narrow_saturate {x : Int} {n : Nat} (h : ¬ fits x n = true) : narrow 0 n x = .ok (sat x n, .ovf) := by
  simp [narrow, h]

theorem narrow_trap {x : Int} {n : Nat} (h : ¬ fits x n = true) : narrow 1 n x = .error .intOverflow := by
  simp [narrow, h]

/-- Settles O50, mode by mode: the modes are reached only by a number that does not fit. -/
theorem overflowModes : Obligations.OverflowModes := by
  intro n x h
  refine ⟨fun hlo hhi o => narrow_of_fits ((fits_iff x n).2 ⟨hlo, hhi⟩) o, fun hout => ?_⟩
  have hfit : ¬ fits x n = true := fun hfit => hout ((fits_iff x n).1 hfit)
  obtain ⟨hlo, hhi⟩ := wrap_mem_range x n
  refine ⟨⟨wrap x n, narrow_wrap hfit, hlo, hhi, eq_wrap_add_mul x n⟩, ?_, narrow_trap hfit⟩
  rw [narrow_saturate hfit, sat_of_not_fits hfit]
  rfl

/-! ## Digits of base 243 -/

@[simp] theorem p5Digits_length (n x : Nat) : (p5Digits n x).length = n := by
  induction n generalizing x with
  | zero => rfl
  | succ n ih => simp [p5Digits, ih]

/-- Byte k of the digits of a number is its digit k, whole: a digit of base 243 fits a byte. -/
theorem p5Digits_getElem? {n k x : Nat} {b : BitVec 8} (h : (p5Digits n x)[k]? = some b) : b.toNat = x / 243 ^ k % 243 := by
  induction n generalizing k x with
  | zero => simp [p5Digits] at h
  | succ n ih =>
    cases k with
    | zero =>
      obtain rfl : BitVec.ofNat 8 (x % 243) = b := by simpa [p5Digits] using h
      simp only [BitVec.toNat_ofNat, pow_zero, Nat.div_one]
      omega
    | succ k =>
      rw [ih (x := x / 243) (by simpa [p5Digits] using h), Nat.div_div_eq_div_mul, pow_succ']

theorem p5Nat_p5Digits (n x : Nat) : p5Nat (p5Digits n x) = x % 243 ^ n := by
  induction n generalizing x with
  | zero => simp [p5Digits, p5Nat, Nat.mod_one]
  | succ n ih =>
    have hbyte : (BitVec.ofNat 8 (x % 243)).toNat = x % 243 := by
      rw [BitVec.toNat_ofNat]
      omega
    rw [p5Digits, p5Nat, ih, hbyte, pow_succ', Nat.mod_mul]

theorem p5Valid_iff (bs : List (BitVec 8)) : p5Valid bs = true ↔ ∀ b ∈ bs, b.toNat ≤ 242 := by
  simp [p5Valid]

theorem p5Valid_p5Digits (n x : Nat) : p5Valid (p5Digits n x) = true := by
  rw [p5Valid_iff]
  intro b hb
  obtain ⟨k, hk⟩ := List.mem_iff_getElem?.1 hb
  have := p5Digits_getElem? hk
  omega

/-- Digit k of the number that valid bytes hold is byte k. -/
theorem p5Nat_digit {bs : List (BitVec 8)} (hv : ∀ b ∈ bs, b.toNat ≤ 242) {k : Nat} {b : BitVec 8} (hk : bs[k]? = some b) :
    p5Nat bs / 243 ^ k % 243 = b.toNat := by
  induction bs generalizing k with
  | nil => simp at hk
  | cons c cs ih =>
    obtain ⟨hc, hcs⟩ := List.forall_mem_cons.1 hv
    cases k with
    | zero =>
      obtain rfl : c = b := by simpa using hk
      simp only [p5Nat, pow_zero, Nat.div_one]
      omega
    | succ k =>
      have hrest : p5Nat (c :: cs) / 243 = p5Nat cs := by
        simp only [p5Nat]
        omega
      rw [pow_succ', ← Nat.div_div_eq_div_mul, hrest]
      exact ih hcs (by simpa using hk)

/-! ## The trits of a byte -/

/-- Trit j of digit k of base 243 is trit 5 k + j of the number. -/
theorem digit_trit (x k : Nat) {j : Nat} (hj : j < 5) : x / 243 ^ k % 243 / 3 ^ j % 3 = x / 3 ^ (5 * k + j) % 3 := by
  have hsplit : (243 : Nat) = 3 ^ j * (3 * 3 ^ (4 - j)) := by
    rw [← pow_succ', ← pow_add, show j + (4 - j + 1) = 5 by omega]
    rfl
  calc x / 243 ^ k % 243 / 3 ^ j % 3
      = x / 243 ^ k % (3 ^ j * (3 * 3 ^ (4 - j))) / 3 ^ j % 3 := by rw [← hsplit]
    _ = x / 243 ^ k / 3 ^ j % 3 := by rw [Nat.mod_mul_right_div_self, Nat.mod_mul_right_mod]
    _ = x / 3 ^ (5 * k + j) % 3 := by rw [Nat.div_div_eq_div_mul, pow_add, pow_mul]; norm_num

/-- A valid byte is 121 plus the balanced value of its five trits. -/
theorem byte_eq_balanced {b : Nat} (hb : b < 243) :
    (b : Int) = 121 + ((List.range 5).map (fun j => (((b / 3 ^ j % 3 : Nat) : Int) - 1) * 3 ^ j)).sum := by
  simp only [List.range_succ, List.range_zero, List.nil_append, List.cons_append, List.map_cons, List.map_nil, List.sum_cons, List.sum_nil]
  omega

/-! ## Packing -/

/-- A packed string is written as one number: the string's index, and above it the index of as many zero trits as complete the last byte. -/
theorem p5enc_eq {n : Nat} (t : Tern n) : p5enc t = p5Digits (p5Size n) (t.index + 3 ^ n * half (5 * p5Size n - n)) := by
  have hle : n ≤ 5 * p5Size n := by
    unfold p5Size
    omega
  have hhalf := half_add n (5 * p5Size n - n)
  rw [Nat.add_sub_cancel' hle] at hhalf
  simp only [p5enc, hhalf, Nat.add_sub_cancel_left]

/-- Every digit of a padded string, less 1, is its trit, and 0 in the padding. -/
theorem padded_digit {n d i : Nat} (t : Tern n) (hi : i < n + d) :
    (((t.index + 3 ^ n * half d) / 3 ^ i % 3 : Nat) : Int) - 1 = if i < n then t.trit i else 0 := by
  split
  case isTrue h =>
    obtain ⟨e, rfl⟩ : ∃ e, n = i + (e + 1) := ⟨n - i - 1, by omega⟩
    rw [pow_add, mul_assoc, Nat.add_mul_div_left _ _ (by positivity), pow_succ', mul_assoc, Nat.add_mul_mod_self_left]
    rfl
  case isFalse h =>
    obtain ⟨j, rfl⟩ : ∃ j, i = n + j := ⟨i - n, by omega⟩
    rw [pow_add, ← Nat.div_div_eq_div_mul, Nat.add_mul_div_left _ _ (by positivity), Nat.div_eq_of_lt (show t.index < 3 ^ n from t.idx.isLt), zero_add,
      half_digit (by omega)]
    rfl

theorem p5enc_byte {n k : Nat} {t : Tern n} {b : BitVec 8} (hb : (p5enc t)[k]? = some b) :
    (b.toNat : Int) = 121 + ((List.range 5).map (fun j => if 5 * k + j < n then t.trit (5 * k + j) * 3 ^ j else 0)).sum := by
  rw [p5enc_eq] at hb
  have hk : k < p5Size n := by simpa using (List.getElem?_eq_some_iff.1 hb).1
  have hdigit := p5Digits_getElem? hb
  rw [byte_eq_balanced (b := b.toNat) (by omega)]
  congr 2
  refine List.map_congr_left fun j hj => ?_
  have hj5 : j < 5 := List.mem_range.1 hj
  rw [hdigit, digit_trit _ _ hj5, padded_digit t (by omega), ite_mul, zero_mul]

/-! ## Unpacking -/

theorem p5dec_of_valid {bs : List (BitVec 8)} (h : ∀ b ∈ bs, b.toNat ≤ 242) (n : Nat) :
    p5dec n bs = some (Tern.ofIndex n (p5Nat bs)) := by
  simp [p5dec, (p5Valid_iff bs).2 h]

theorem p5dec_of_invalid {bs : List (BitVec 8)} {b : BitVec 8} (hb : b ∈ bs) (h : 243 ≤ b.toNat) (n : Nat) : p5dec n bs = none := by
  have : ¬ p5Valid bs = true := fun hv => by
    have := (p5Valid_iff bs).1 hv b hb
    omega
  simp [p5dec, this]

/-- Trit i of the string whose index is a number is trit i of the number. -/
theorem ofIndex_trit {n i : Nat} (k : Nat) (hi : i < n) : (Tern.ofIndex n k).trit i = ((k / 3 ^ i % 3 : Nat) : Int) - 1 := by
  obtain ⟨e, rfl⟩ : ∃ e, n = i + (e + 1) := ⟨n - i - 1, by omega⟩
  simp only [Tern.trit, Tern.ofIndex]
  rw [pow_add, Nat.mod_mul_right_div_self, pow_succ', Nat.mod_mul_right_mod]

/-- What lies above the trits of a string does not matter to it. -/
theorem ofIndex_index_add_mul {n : Nat} (t : Tern n) (m : Nat) : Tern.ofIndex n (t.index + 3 ^ n * m) = t := by
  obtain ⟨idx⟩ := t
  simp [Tern.ofIndex, Tern.index, Nat.mod_eq_of_lt idx.isLt]

theorem ofIndex_mod_bytes (n k : Nat) : Tern.ofIndex n (k % 243 ^ p5Size n) = Tern.ofIndex n k := by
  have hdvd : 3 ^ n ∣ 243 ^ p5Size n := by
    rw [show (243 : Nat) = 3 ^ 5 from rfl, ← pow_mul]
    exact pow_dvd_pow 3 (by unfold p5Size; omega)
  simp [Tern.ofIndex, Nat.mod_mod_of_dvd k hdvd]

theorem p5dec_p5enc {n : Nat} (t : Tern n) : p5dec n (p5enc t) = some t := by
  rw [p5enc_eq, p5dec_of_valid ((p5Valid_iff _).1 (p5Valid_p5Digits _ _)), p5Nat_p5Digits, ofIndex_mod_bytes, ofIndex_index_add_mul]

/-- Trit i of what valid bytes hold is trit i mod 5 of byte i / 5 (R53). -/
theorem ofIndex_p5Nat_trit {n i : Nat} {bs : List (BitVec 8)} {b : BitVec 8} (hv : ∀ b ∈ bs, b.toNat ≤ 242) (hi : i < n)
    (hb : bs[i / 5]? = some b) : (Tern.ofIndex n (p5Nat bs)).trit i = ((b.toNat / 3 ^ (i % 5) % 3 : Nat) : Int) - 1 := by
  rw [ofIndex_trit _ hi, ← p5Nat_digit hv hb, digit_trit _ _ (Nat.mod_lt i (by decide)), Nat.div_add_mod]

/-- Settles O52: packing writes the digits of one number, and unpacking reads them back. -/
theorem p5Packing : Obligations.P5Packing := by
  intro n t
  refine ⟨?_, fun k b hb => p5enc_byte hb, p5dec_p5enc t, ?_, fun bs _ hv => ?_⟩
  · rw [p5enc_eq, p5Digits_length]
    rfl
  · rintro bs ⟨b, hb, hbig⟩
    exact p5dec_of_invalid hb hbig n
  · exact ⟨_, p5dec_of_valid hv n, fun i b hi hb => ofIndex_p5Nat_trit hv hi hb⟩

end Sys2Proof.Numbers
end

section
/-! PROOFS. What register writes, flags and the issue of an instruction leave of a group, as the words of `Effect` say it, and the
instructions whose lanes each compute one word (R46, R48, R55, R61, R74, R89, R116 to R118). -/

namespace Sys2Proof.Effects

open Sys2Proof.Machine Sys2Proof.Safety

/-! ## Flags -/

@[simp] theorem flags_or_none (a : Flags) : a.or .none = a := by simp [Flags.or, Flags.none]

theorem flags_or_assoc (a b c : Flags) : (a.or b).or c = a.or (b.or c) := by simp [Flags.or, Bool.or_assoc]

theorem lateInto_append (f : Flags) (l m : List LateFlags) : lateInto f (l ++ m) = lateInto (lateInto f l) m := by simp [lateInto]

/-! ## Lanes -/

theorem lt_of_mem_lanesOf {m : BitVec 32} {l : Nat} (h : l ∈ lanesOf m) : l < 32 :=
  List.mem_range.1 (List.mem_of_mem_filter h)

theorem lt_of_mem_formLanes {fr : Fr} {vec : Bool} {l : Nat} (h : l ∈ fr.formLanes vec) : l < 32 := by
  cases vec with
  | true => exact lt_of_mem_lanesOf h
  | false =>
    obtain rfl : l = 0 := by simpa [Fr.formLanes] using h
    decide

/-- Where every lane has a result, all results are gathered (R118). -/
theorem evalLanes_ok {α : Type} {f : Nat → Except Cause (α × Flags)} {x : Nat → α} {fl : Nat → Flags} {ls : List Nat}
    (h : ∀ l ∈ ls, f l = .ok (x l, fl l)) : evalLanes f ls = .ok (ls.map (fun l => (l, x l)), orFlags (ls.map fl)) := by
  induction ls with
  | nil => rfl
  | cons l ls ih =>
    obtain ⟨hl, hls⟩ := List.forall_mem_cons.1 h
    simp only [evalLanes, hl, ih hls]
    rfl

/-- The lowest lane that raises a cause is the one named (R46, R118). -/
theorem evalLanes_error {α : Type} {f : Nat → Except Cause (α × Flags)} {pre : List Nat} {l : Nat} {c : Cause} (post : List Nat)
    (hpre : ∀ k ∈ pre, ∃ r, f k = .ok r) (hl : f l = .error c) : evalLanes f (pre ++ l :: post) = .error (l, c) := by
  induction pre with
  | nil => simp only [List.nil_append, evalLanes, hl]
  | cons k pre ih =>
    obtain ⟨⟨⟨x, fl⟩, hk⟩, hks⟩ := List.forall_mem_cons.1 hpre
    simp only [List.cons_append, evalLanes, hk, ih hks]

/-! ## Splits -/

theorem split?_idx {g : Group} {i : Nat} {x : Split} (h : g.split? i = some x) : x.idx = i := by
  simpa using List.find?_some h

theorem find?_updFirst_of_disjoint {α : Type} {p q : α → Bool} {f : α → α} (hp : ∀ x, p x = true → q x = false)
    (hf : ∀ x, p x = true → q (f x) = false) (l : List α) : (updFirst p f l).find? q = l.find? q := by
  induction l with
  | nil => rfl
  | cons x l ih =>
    simp only [updFirst]
    split
    · next h => simp [hp x h, hf x h]
    · simp only [List.find?_cons, ih]

theorem split?_modSplit_same {g : Group} {i : Nat} {x : Split} {f : Split → Split} (hf : ∀ y, y.idx = i → (f y).idx = i)
    (h : g.split? i = some x) : (g.modSplit i f).split? i = some (f x) := by
  have := find?_updFirst (fun y : Split => y.idx == i) f g.splits (by simpa using hf)
  simp only [Group.split?] at h
  simp only [Group.split?, Group.modSplit, this, h, Option.map_some]

theorem split?_modSplit_ne {g : Group} {i j : Nat} {f : Split → Split} (hf : ∀ y, y.idx = i → (f y).idx = i) (hj : j ≠ i) :
    (g.modSplit i f).split? j = g.split? j := by
  refine find?_updFirst_of_disjoint (fun y hy => ?_) (fun y hy => ?_) g.splits
  · have : y.idx = i := by simpa using hy
    simpa [this] using hj.symm
  · have : (f y).idx = i := hf y (by simpa using hy)
    simpa [this] using hj.symm

/-- The executing split is the one of its group (R91). -/
theorem frame?_split? {s : State} {h : Head} {fr : Fr} (hf : s.frame? h = some fr) : fr.g.split? fr.sp.idx = some fr.sp := by
  unfold State.frame? at hf
  split at hf
  · cases hf
  next g _ =>
  split at hf
  · cases hf
  next sp hsp =>
  rw [← split?_idx hsp] at hsp
  split at hf
  · obtain rfl := Option.some.inj hf
    exact hsp
  · obtain rfl := Option.some.inj hf
    exact split?_modSplit_same (f := Split.meet) (fun _ hy => hy) hsp

/-! ## Registers after writes -/

/-- The lanes that a write names are lanes of a register. -/
def LanesOk (w : Wr) : Prop := ∀ l ∈ w.lanes, l < 32

theorem vecAfter_append (ws us : List Wr) (r l : Nat) (old : Word) : vecAfter (ws ++ us) r l old = vecAfter us r l (vecAfter ws r l old) := by
  simp [vecAfter]

theorem scalAfter_append (ws us : List Wr) (r : Nat) (old : Word) : scalAfter (ws ++ us) r old = scalAfter us r (scalAfter ws r old) := by
  simp [scalAfter]

theorem predAfter_append (ws us : List Wr) (r l : Nat) (old : Trit) : predAfter (ws ++ us) r l old = predAfter us r l (predAfter ws r l old) := by
  simp [predAfter]

/-- Lane l of register r after the lanes of register q have been written. -/
theorem mapGet_foldl_mapSet {α : Type} [DecidableEq α] (d : α) {vals : List (Nat × α)} (hv : ∀ e ∈ vals, e.1 < 32) (q r : Nat) {l : Nat}
    (hl : l < 32) (m : FMap α) :
    mapGet d (vals.foldl (fun m e => mapSet d m (32 * q + e.1) e.2) m) (32 * r + l) =
      if q = r then vals.foldl (fun w e => if e.1 = l then e.2 else w) (mapGet d m (32 * r + l)) else mapGet d m (32 * r + l) := by
  induction vals generalizing m with
  | nil => simp
  | cons e vals ih =>
    obtain ⟨he, hvals⟩ := List.forall_mem_cons.1 hv
    have hkey : 32 * r + l = 32 * q + e.1 ↔ q = r ∧ e.1 = l := by omega
    simp only [List.foldl_cons, ih hvals, mapGet_mapSet, hkey]
    by_cases hq : q = r
    · simp only [hq, true_and, if_true, eq_comm]
    · simp only [hq, false_and, if_false]

theorem vreg_write {g : Group} {i : Nat} {w : Wr} (hw : LanesOk w) {r l : Nat} (hr : r < 80) (hl : l < 32) :
    (g.write i w).vreg r l = vecAfter [w] r l (g.vreg r l) := by
  have hr' : ¬ 80 ≤ r := by omega
  cases w with
  | v q vals =>
    simp only [Group.write, vecAfter, List.foldl_cons, List.foldl_nil]
    split
    · rw [if_neg (by omega)]
    · simp only [Group.vreg, hr', if_false]
      exact mapGet_foldl_mapSet wzero (by simpa [LanesOk, Wr.lanes] using hw) q r hl g.v
  | s q x => exact (write_other_file g i q [] x r l).2
  | p q vals => simp [Group.write, Group.vreg, vecAfter]

theorem sreg_write (g : Group) (i : Nat) (w : Wr) {r : Nat} (hr : r < 80) : (g.write i w).sreg r = scalAfter [w] r (g.sreg r) := by
  cases w with
  | v q vals => exact (write_other_file g i q vals wzero r 0).1
  | s q x =>
    simp only [scalAfter, List.foldl_cons, List.foldl_nil]
    by_cases hq : 80 ≤ q
    · rw [(write_zero g i q hq [] x).2, if_neg (by omega)]
    · rw [sreg_write_s g i q r x (by omega) hr]
      simp only [eq_comm]
  | p q vals => simp [Group.write, Group.sreg, scalAfter]

theorem preg_write {g : Group} {i : Nat} {w : Wr} (hw : LanesOk w) (r : Nat) {l : Nat} (hl : l < 32) :
    (g.write i w).preg r l = predAfter [w] r l (g.preg r l) := by
  cases w with
  | v q vals =>
    simp only [Group.write, Group.preg, predAfter, List.foldl_cons, List.foldl_nil]
    split <;> simp
  | s q x =>
    simp only [Group.write, Group.preg, predAfter, List.foldl_cons, List.foldl_nil]
    split <;> simp
  | p q vals =>
    simp only [Group.write, Group.preg, predAfter, List.foldl_cons, List.foldl_nil]
    exact mapGet_foldl_mapSet (Tern.zero 1) (by simpa [LanesOk, Wr.lanes] using hw) q r hl g.p

@[simp] theorem mend_late (g : Group) (ks : List Nat) : (g.mend ks).late = g.late := by unfold Group.mend; split <;> rfl

theorem write_late (g : Group) (i : Nat) (w : Wr) : (g.write i w).late = g.late := by
  cases w with
  | v q vals => simp only [Group.write]; split <;> simp [Group.kill]
  | s q x => simp only [Group.write]; split <;> simp [Group.kill]
  | p q vals => simp [Group.write]

/-! ## A group after writes and flags -/

section
variable {fr : Fr} {ws : List Wr} {fl : Flags} {x : Split} {g : Group}

/-- A write adds itself to the writes that a group has seen (R61, R74). -/
theorem groupAfter_write (hg : GroupAfter fr ws fl x g) (i : Nat) {w : Wr} (hw : LanesOk w) :
    GroupAfter fr (ws ++ [w]) fl x (g.write i w) := by
  obtain ⟨hx, hothers, hv, hs, hp, hfl, hspecial⟩ := hg
  obtain ⟨hfstat, hsplits, hwspecial⟩ := write_frame g i w
  refine ⟨?_, fun j hj => ?_, fun r l hr hl => ?_, fun r hr => ?_, fun r l hl => ?_, ?_, hwspecial.trans hspecial⟩
  · simpa only [Group.split?, hsplits] using hx
  · simpa only [Group.split?, hsplits] using hothers j hj
  · rw [vreg_write hw hr hl, hv r l hr hl, vecAfter_append]
  · rw [sreg_write g i w hr, hs r hr, scalAfter_append]
  · rw [preg_write hw r hl, hp r l hl, predAfter_append]
  · simpa only [Group.allFlags, hfstat, write_late] using hfl

/-- A group keeps its registers while the unguaranteed results of the split are noted or dropped. -/
theorem groupAfter_pend (hg : GroupAfter fr ws fl x g) (f : List Pend → List Pend) :
    GroupAfter fr ws fl { x with pend := f x.pend } (g.modSplit fr.sp.idx (fun y => { y with pend := f y.pend })) := by
  obtain ⟨hx, hothers, hrest⟩ := hg
  exact ⟨split?_modSplit_same (f := fun y => { y with pend := f y.pend }) (fun _ hy => hy) hx,
    fun j hj => (split?_modSplit_ne (f := fun y => { y with pend := f y.pend }) (fun _ hy => hy) hj).trans (hothers j hj), hrest⟩

/-- Writes with a latency add themselves in order, and change of the split only its unguaranteed results (R72, R74). -/
theorem groupAfter_writeAll (lam dist : Nat) {us : List Wr} (hus : ∀ w ∈ us, LanesOk w) :
    ∀ {ws : List Wr} {x : Split} {g : Group}, GroupAfter fr ws fl x g →
      ∃ pend, GroupAfter fr (ws ++ us) fl { x with pend := pend } (g.writeAll fr.sp.idx lam dist us) := by
  induction us with
  | nil =>
    intro ws x g hg
    rw [List.append_nil]
    exact ⟨x.pend, hg⟩
  | cons w us ih =>
    intro ws x g hg
    obtain ⟨hw, hrest⟩ := List.forall_mem_cons.1 hus
    have hwrite := groupAfter_write hg fr.sp.idx hw
    rw [List.append_cons]
    simp only [Group.writeAll]
    split
    · next p _ =>
      obtain ⟨pend, hg'⟩ := ih hrest (groupAfter_pend hwrite (p :: ·))
      exact ⟨pend, hg'⟩
    · obtain ⟨pend, hg'⟩ := ih hrest (groupAfter_pend hwrite (coverPends ⟨w.file, w.reg, 0, 0, w.lanes.map (fun l => (l, wzero))⟩))
      exact ⟨pend, hg'⟩

/-- Flags noted for a group are added to those that it has (R48). -/
theorem groupAfter_addFlags (hg : GroupAfter fr ws fl x g) (i due : Nat) (new : Flags) :
    GroupAfter fr ws (fl.or new) x { g with late := if new = .none then g.late else g.late ++ [⟨i, due, new⟩] } := by
  obtain ⟨hx, hothers, hv, hs, hp, hfl, hspecial⟩ := hg
  refine ⟨hx, hothers, hv, hs, hp, ?_, hspecial⟩
  rw [← flags_or_assoc, ← hfl]
  by_cases hnew : new = .none
  · simp [Group.allFlags, hnew]
  · simp only [Group.allFlags, hnew, if_false, lateInto_append]
    rfl

end

/-! ## The effect of an instruction -/

section
variable {fr : Fr} {pc : Addr} {wait : Wait} {ws : List Wr} {fl : Flags} {t : State}

/-- Issue is the effect of an instruction that writes nothing: the PC goes past it (R55, R71). -/
theorem effect_issue (hsp : fr.g.split? fr.sp.idx = some fr.sp) (cost len : Nat) (every : Bool) :
    Effect fr (past fr (len : Int)) .none [] .none (fr.issue cost len every) := by
  refine ⟨⟨_, _, mapFind_mapInsert_same _ _ _, ⟨split?_modSplit_same (fun _ _ => rfl) hsp, fun j hj => split?_modSplit_ne (fun _ _ => rfl) hj,
    fun _ _ _ _ => rfl, fun _ _ => rfl, fun _ _ _ => rfl, (flags_or_none _).symm, rfl⟩, rfl, rfl, ⟨rfl, rfl, rfl, rfl, rfl, rfl, rfl⟩⟩,
    fun k hk => issue_group?_ne fr cost len every hk, rfl⟩

/-- A change of the executing group carries an effect on if it changes of the split only its unguaranteed results. -/
theorem effect_modGroup (he : Effect fr pc wait ws fl t) {us : List Wr} {fl' : Flags} {f : Group → Group}
    (hf : ∀ x g, GroupAfter fr ws fl x g → ∃ pend, GroupAfter fr us fl' { x with pend := pend } (f g)) :
    Effect fr pc wait us fl' (t.modGroup fr.key f) := by
  obtain ⟨⟨g, x, hg, hafter, hpc, hwait, hkept⟩, hothers, honly⟩ := he
  obtain ⟨pend, hafter'⟩ := hf x g hafter
  refine ⟨⟨f g, _, ?_, hafter', hpc, hwait, hkept⟩, fun k hk => ?_, ?_⟩
  · rw [group?_modGroup_same, hg, Option.map_some]
  · rw [group?_modGroup_ne hk, hothers k hk]
  · simp only [State.modGroup, hg]
    exact congrArg (State.setGroup · fr.key (f g)) honly

theorem effect_writes (he : Effect fr pc wait ws fl t) (lam cost : Nat) {us : List Wr} (hus : ∀ w ∈ us, LanesOk w) :
    Effect fr pc wait (ws ++ us) fl (fr.writes t lam us cost) :=
  effect_modGroup he fun _ _ hg => groupAfter_writeAll lam _ hus hg

theorem effect_addFlags (he : Effect fr pc wait ws fl t) (lam : Nat) (new : Flags) :
    Effect fr pc wait ws (fl.or new) (fr.addFlags t lam new) :=
  effect_modGroup he fun x _ hg => ⟨x.pend, groupAfter_addFlags hg _ _ new⟩

end

/-! ## Instructions whose lanes each compute one word -/

theorem lanesOk_formWr {fr : Fr} {vec : Bool} (d : Nat) (x : Nat → Word) :
    LanesOk (formWr vec d ((fr.formLanes vec).map (fun l => (l, x l)))) := by
  cases vec with
  | true =>
    intro l hl
    exact lt_of_mem_formLanes (by simpa [formWr, Wr.lanes] using hl)
  | false => simp [LanesOk, formWr, Wr.lanes]

/-- An instruction that is carried out by `Fr.apply` computes lane by lane (R116 to R118). -/
theorem computes_of_apply {i : Instr} {h : Head} {u : Use} {len d lam cost : Nat} {vec : Bool}
    {lane : Fr → Nat → Except Cause (Word × Flags)}
    (hexec : ∀ s, exec i s = runOp s h u len fun fr s1 => fr.apply s1 vec d lam (lane fr) cost) :
    Computes i h u len vec d lane := by
  intro s fr hr
  have hissue := effect_issue (frame?_split? hr.executor) u.cost len u.every
  have hnext := (hexec s).trans (runOp_reaches hr)
  refine ⟨fun hany => ⟨_, hnext, ?_⟩, fun x fl hany hok => ⟨_, hnext, ?_⟩, fun pre l post c hany hlanes hpre hl => ?_⟩
  · simpa [Fr.apply, hany] using hissue
  · simp only [Fr.apply, hany, if_true, evalLanes_ok hok]
    have hwrites := effect_writes hissue lam cost (us := [formWr vec d ((fr.formLanes vec).map (fun l => (l, x l)))])
      (by simpa using lanesOk_formWr d x)
    exact effect_addFlags hwrites lam (orFlags ((fr.formLanes vec).map fl))
  · rw [hnext]
    simp only [Fr.apply, hany, if_true, hlanes, evalLanes_error post hpre hl, Fr.failLane, Fr.fail]

end Sys2Proof.Effects
end

section
/-! PROOFS. The integer register forms: the values of the elementwise forms as their rules say them, and the forms themselves (R116,
R121, R122, R126 to R129). -/

namespace Sys2Proof.IntegerForms

open Sys2Proof.Machine Sys2Proof.Safety Sys2Proof.Effects

/-! ## Values -/

theorem natAbs_eq_ite (a : Int) : (a.natAbs : Int) = if a < 0 then -a else a := by
  split <;> omega

theorem sgn_eq_ite (a : Int) : sgn a = if a < 0 then -1 else if 0 < a then 1 else 0 := by
  rcases lt_trichotomy a 0 with h | rfl | h
  · simp [sgn, h]
  · rfl
  · simp [sgn, h, h.not_gt, h.ne']

theorem badCount_eq_true_iff (k : Int) (n : Nat) : badCount k n = true ↔ ¬ (0 ≤ k ∧ k ≤ (n : Int)) := by
  simp only [badCount, Bool.or_eq_true, decide_eq_true_eq]
  omega

/-- A shift whose count lies in range has its value, and any other raises SHIFT_RANGE (R127). -/
theorem ite_badCount {α : Type} (k : Int) (n : Nat) (x y : α) :
    (if badCount k n then x else y) = if 0 ≤ k ∧ k ≤ (n : Int) then y else x := by
  simp only [badCount_eq_true_iff, ite_not]

/-! ## Forms -/

/-- A block -3 elementwise instruction computes element by element (R116). -/
theorem computes_of_runElem {i : Instr} {f : RFmt} {u : Use} {lam : Nat} {op op' : Nat → Int → Int → Int → ElemRes}
    (hexec : ∀ s, exec i s = runElem s f u lam op') (hop : ∀ n a b d, op' n a b d = op n a b d) :
    Computes i f.h u 1 (f.src != 0) f.d.index (byElement f op) := by
  obtain rfl : op' = op := by
    funext n a b d
    exact hop n a b d
  exact computes_of_apply (lane := byElement f op') hexec

/-- A tritwise instruction computes trit by trit (R126). -/
theorem computes_of_runTritwise {i : Instr} {f : RFmt} {op op' : Int → Int → Int}
    (hexec : ∀ s, exec i s = runTritwise s f op') (hop : ∀ p q, op' p q = op p q) :
    Computes i f.h (elemUse f true false false false) 1 (f.src != 0) f.d.index (fun fr l =>
      .ok (tritwise op (fr.readForm (f.src != 0) 1 f.a.index l 27) (fr.readForm (f.src == -1) 2 f.b.index l 27), .none)) := by
  obtain rfl : op' = op := by
    funext p q
    exact hop p q
  exact computes_of_apply hexec

/-- Settles O1: every form is carried out by one shared operation, and only ABS, SGN, MIN, MAX and the shifts name their value
differently from their rule. -/
theorem integerForms : Obligations.IntegerForms := by
  intro f
  refine ⟨?add, ?sub, ?mul, ?mad, ?neg, ?abs, ?sgn, ?mulh, ?min, ?max, ?shl, ?shr, ?rot, ?tcnt, ?tbal, ?lead⟩
  case abs => exact computes_of_runElem (fun _ => rfl) fun _ a _ _ => by rw [natAbs_eq_ite]; rfl
  case sgn => exact computes_of_runElem (fun _ => rfl) fun _ a _ _ => by rw [sgn_eq_ite]; rfl
  case min => exact computes_of_runElem (fun _ => rfl) fun _ a b _ => by rw [min_def]; rfl
  case max => exact computes_of_runElem (fun _ => rfl) fun _ a b _ => by rw [max_def]; rfl
  case shl => exact computes_of_runElem (fun _ => rfl) fun n _ k _ => ite_badCount k n _ _
  case shr => exact computes_of_runElem (fun _ => rfl) fun n _ k _ => ite_badCount k n _ _
  all_goals exact computes_of_runElem (fun _ => rfl) fun _ _ _ _ => rfl

/-- Settles O2: every form is carried out by the shared operation of lane results. -/
theorem tritwiseForms : Obligations.TritwiseForms := by
  intro f
  refine ⟨?tadd, ?tmul, ?tmin, ?tmax, ?mov⟩
  case tadd => exact computes_of_runTritwise (fun _ => rfl) fun _ _ => rfl
  case tmul => exact computes_of_runTritwise (fun _ => rfl) fun _ _ => rfl
  case tmin => exact computes_of_runTritwise (fun _ => rfl) fun p q => min_def p q
  case tmax => exact computes_of_runTritwise (fun _ => rfl) fun p q => max_def p q
  case mov => exact computes_of_apply (fun _ => rfl)

end Sys2Proof.IntegerForms
end
